-- ==== Sys2Proof/Word.lean ====
section
/-! DEFINITION. The word types of Ailith: bytes, the 64-bit word of a scalar register, the 32-bit word of a
vector lane, and the lane mask (00_scope R3, 04_registers R62). -/
namespace Sys2Proof

/-- A byte of any memory (R3). -/
abbrev Byte := BitVec 8

/-- The value of a scalar or 64-bit special register (R62). -/
abbrev Word := BitVec 64

/-- One lane of a vector register (R62). -/
abbrev Lane := BitVec 32

/-- A lane mask. Lane l is bit l; a team of width W keeps every bit at or above W at 0 (R62). -/
abbrev Mask := BitVec 1024

end Sys2Proof
end

