-- ==== Sys2Proof/Syntax.lean ====
section
/-! DEFINITION. The steps of Ailith as data: one constructor of `Instr` for each row of the table of operations
and events. An instruction row carries its decoded fields (02_encoding R27, R29, R39); an event row carries what
distinguishes one occurrence of the step from another. -/
namespace Sys2Proof

/-- The type codes of R37, in the order of their codes 0x00 to 0x17; `none` is code 0x1F. -/
inductive Ty where
  | i8 | n8 | i16 | n16 | i32 | n32 | i64 | n64 | f16 | bf16 | f32 | f64 | e4m3 | e5m2 | e4m3u | b32 | b64 | bp
  | p2bf16 | p2f16 | p4e4m3 | p4e5m2 | p8i4 | p4i8 | none
  deriving DecidableEq, Repr

/-- The four modes, USER lowest (R78, R186). -/
inductive Mode where
  | user | guest | host | fw
  deriving DecidableEq, Repr

/-- The kind of an access that %tinfo reports (R189). -/
inductive AccessKind where
  | fetch | load | store | atomic | spill | record
  deriving DecidableEq, Repr

/-- The four home agents (R449). -/
inductive Home where
  | h0 | h1 | l | p
  deriving DecidableEq, Repr

/-- A decoded operand field (R29). `e` is the E bit and `m` the modifier bits [14:8] of an S or V operand. A WIDE
operand carries the whole 36-bit immediate of R34, and field B then decodes to `none`. -/
inductive Operand where
  | none
  | s (r : BitVec 8) (e : Bool) (m : BitVec 7)
  | v (r : BitVec 8) (e : Bool) (m : BitVec 7)
  | k (r : BitVec 4) (e : Bool)
  | sr (n : BitVec 10)
  | imm (i : BitVec 16)
  | acc (n : BitVec 4)
  | chk (n : BitVec 5)
  | bar (n : BitVec 7)
  | tag (n : BitVec 6)
  | spa (n : BitVec 16)
  | wide (i : BitVec 36)
  deriving DecidableEq, Repr

/-- The fields of an instruction of format N or W besides its opcode (R27): variant, guard register and negation,
hints, type, operands and the RM field. -/
structure Args where
  sub : BitVec 4
  g : BitVec 4
  neg : Bool
  h : BitVec 8
  ty : Ty
  d : Operand
  a : Operand
  b : Operand
  rm : BitVec 3
  deriving DecidableEq, Repr

/-- The fields of MBR, the one form of format M (R39). -/
structure MbrArgs where
  g : BitVec 4
  h : BitVec 8
  o0 : BitVec 16
  o1 : BitVec 16
  o2 : BitVec 16
  o3 : BitVec 16
  deriving DecidableEq, Repr

/-- A keeping update record as it travels between replicas (R313). `ctx` holds sixteen dots, entry i for
replica i; `clock` is the Lamport clock that a write of SYSTEM scope carries to the other replicas (R283, R291). -/
structure Update where
  cell : Nat
  region : Nat
  origin : Nat
  ectx : Bool
  epoch : Nat
  value : Word
  dot : BitVec 16
  ctx : List (BitVec 16)
  clock : Nat
  deriving DecidableEq, Repr

/-- What another member of a region contributes to a compaction sweep (R319): its replica number, whether its
OUTQ is empty, its LCTR and the dots of the held update records it has, both as they were before it rebased, and whether it has
rebased its cells. -/
structure SweepShare where
  replica : Nat
  outqEmpty : Bool
  lctr : Nat
  held : List (BitVec 16)
  done : Bool
  deriving DecidableEq, Repr

/-- A request of a peer package to a home of this package (R459). -/
inductive PeerKind where
  | rd | rdx | read (len : Nat) | write (data : List Byte) | pgcnt
  deriving DecidableEq, Repr

/-- A part whose failure is a device-level fault (R214). -/
inductive Part where
  | core (n : Nat) | die (n : Nat) | link (n : Nat) | port (n : Nat) | controller (h : Home) | stack (n : Nat)
  deriving DecidableEq, Repr

/-- A firmware image and the settings it writes at boot (R483, R490, R456, R426, R479, R15, R491). `tables` lists what it
writes to memory as (address, bytes, value), `members` the packages that share the pool (R486, R487), `regions` the keeping region and region page of frames (R412), `kvdir` the value of
%kvdir by guest (R78), `registers` the special registers it sets as (hart, number, value) (R80), and `routes` the fabric port of each
package (R18, R489). -/
structure FwImage where
  bytes : List Byte
  version : Nat
  signature : List Byte
  pkg : Nat
  lqt : Nat
  cwin : Nat
  rdt : Nat
  pdt : Nat
  poolmeta : Nat
  cal : Nat
  metapkg : Nat
  gct : Nat
  winpages : Nat
  lpmBytes : Nat
  packages : Nat
  routes : List Nat
  members : List Nat
  distributor : List Nat
  hostPc : Nat
  fwPc : Nat
  mrate : Nat
  mquiet : Nat
  merge : Bool
  plog : List Nat
  freeFrames : List (Nat × List Nat)
  tables : List (Nat × Nat × Nat)
  regions : List (Nat × Nat × Nat)
  kvdir : List (Nat × Word)
  registers : List (Nat × Nat × Word)
  deriving DecidableEq, Repr

/-- One constructor for each row of the table of operations and events. -/
inductive Instr where
  -- instructions: the fields of the word
  | add (x : Args)
  | sub (x : Args)
  | mul (x : Args)
  | mulh (x : Args)
  | mad (x : Args)
  | div (x : Args)
  | rem (x : Args)
  | min (x : Args)
  | max (x : Args)
  | abs (x : Args)
  | lea (x : Args)
  | cmp (x : Args)
  | sel (x : Args)
  | mov (x : Args)
  | movw (x : Args)
  | movh (x : Args)
  | and (x : Args)
  | or (x : Args)
  | xor (x : Args)
  | andn (x : Args)
  | not (x : Args)
  | shl (x : Args)
  | shr (x : Args)
  | sra (x : Args)
  | rol (x : Args)
  | clz (x : Args)
  | ctz (x : Args)
  | popc (x : Args)
  | brev (x : Args)
  | bfx (x : Args)
  | bfi (x : Args)
  | prmb (x : Args)
  | fadd (x : Args)
  | fsub (x : Args)
  | fmul (x : Args)
  | ffma (x : Args)
  | fmin (x : Args)
  | fmax (x : Args)
  | fabs (x : Args)
  | fneg (x : Args)
  | fcmp (x : Args)
  | fclass (x : Args)
  | fdiv (x : Args)
  | fsqrt (x : Args)
  | frnd (x : Args)
  | fscl (x : Args)
  | frcp (x : Args)
  | frsq (x : Args)
  | fexp2 (x : Args)
  | flog2 (x : Args)
  | fsin (x : Args)
  | fcos (x : Args)
  | ftanh (x : Args)
  | cvt (x : Args)
  | cvtp (x : Args)
  | cvtbp (x : Args)
  | cvfbp (x : Args)
  | amax (x : Args)
  | qscl (x : Args)
  | shfl (x : Args)
  | vote (x : Args)
  | lred (x : Args)
  | scan (x : Args)
  | vtos (x : Args)
  | gtrn (x : Args)
  | topk (x : Args)
  | kand (x : Args)
  | kor (x : Args)
  | kxor (x : Args)
  | knot (x : Args)
  | kmov (x : Args)
  | kpop (x : Args)
  | kffs (x : Args)
  | exec (x : Args)
  | execr (x : Args)
  | br (x : Args)
  | brc (x : Args)
  | brz (x : Args)
  | brd (x : Args)
  | mbr (x : MbrArgs)
  | join (x : Args)
  | call (x : Args)
  | ret (x : Args)
  | jmpi (x : Args)
  | loop (x : Args)
  | yield (x : Args)
  | exit (x : Args)
  | nop (x : Args)
  | brk (x : Args)
  | ld (x : Args)
  | st (x : Args)
  | lds (x : Args)
  | sts (x : Args)
  | pref (x : Args)
  | cctl (x : Args)
  | fence (x : Args)
  | ldp (x : Args)
  | ldacc (x : Args)
  | stacc (x : Args)
  | amo (x : Args)
  | cas (x : Args)
  | redu (x : Args)
  | kld (x : Args)
  | kst (x : Args)
  | ksib (x : Args)
  | krec (x : Args)
  | chld (x : Args)
  | chinv (x : Args)
  | mcb (x : Args)
  | mma (x : Args)
  | mce (x : Args)
  | mdrn (x : Args)
  | mclr (x : Args)
  | morf (x : Args)
  | msmx (x : Args)
  | mscl (x : Args)
  | cpy (x : Args)
  | cpyg (x : Args)
  | cpys (x : Args)
  | await (x : Args)
  | ftest (x : Args)
  | fcan (x : Args)
  | fhnd (x : Args)
  | wany (x : Args)
  | wall (x : Args)
  | wffr (x : Args)
  | binit (x : Args)
  | barv (x : Args)
  | bwait (x : Args)
  | barw (x : Args)
  | bqry (x : Args)
  | lnch (x : Args)
  | acq (x : Args)
  | park (x : Args)
  | wake (x : Args)
  | kvx (x : Args)
  | kvw (x : Args)
  | kvr (x : Args)
  | pin (x : Args)
  | unpin (x : Args)
  | hint (x : Args)
  | migr (x : Args)
  | tlbi (x : Args)
  | ownrRequest (x : Args)
  | ownrRelease (x : Args)
  | cntr (x : Args)
  | cntc (x : Args)
  | pgcnt (x : Args)
  | tstp (x : Args)
  | srr (x : Args)
  | srw (x : Args)
  | trap (x : Args)
  | tret (x : Args)
  | iflush (x : Args)
  | svsb (x : Args)
  | ldsb (x : Args)
  | svss (x : Args)
  | ldss (x : Args)
  | svacc (x : Args)
  | ldacr (x : Args)
  | svchk (x : Args)
  | ldchk (x : Args)
  | wfi (x : Args)
  | halt (x : Args)
  -- steps of the hardware itself
  | sectorReturn (load sector : Nat)
  | registerReply (reply : Nat)
  | splitStackRefill (hart : Nat)
  | storeBufferDeparture (hart : Nat)
  | storeAcknowledgement (ack : Nat)
  | ldpHoldRelease (req : Nat)
  | ldpHoldTimeout (req : Nat)
  | scopedCacheEviction (cluster : Bool) (cache line : Nat)
  | translationWalk (hart : Nat) (va : Word) (acc : AccessKind)
  | mappingNotice (pkg pa : Nat)
  | preemptRequest (crew : Nat) (park : Bool)
  | preemptDelivery (hart : Nat)
  | preemptTimeout (crew : Nat)
  | admissionWaitExpiry (launch : Nat)
  | migrationNotify (thread : Nat)
  | externalEvent (thread : Nat)
  | crewExit (crew : Nat)
  | drainingSettled (crew : Nat)
  | launchRecordStart (queue : Nat)
  | queueBinding (slot : Nat)
  | crewPlacement (launch : Nat)
  | acqGrant (core : Nat)
  | wakeWordWrite (pa : Nat) (data : List Byte)
  | rcbStateWrite (rcb : Nat) (value : BitVec 3)
  | rungExpiry (cont : Nat)
  | blockMoveDone (move : Nat)
  | blockSettle (move : Nat)
  | migrationCommandTake
  | migrationDoorbell (service : Nat)
  | migrationStart (mig : Nat)
  | migrationRatePeriod (home : Home)
  | lineCopy (mig : Nat)
  | shootdownComplete (mig : Nat)
  | abortComplete (mig : Nat)
  | sweepRebase (region : Nat) (others : List SweepShare)
  | updateSend (region dot member : Nat)
  | keepingUpdateApply (u : Update)
  | updateAck (region dot member : Nat)
  | holdQueueRetry (region : Nat)
  | krecDeferred (req : Nat)
  | rd (agent guest pa : Nat)
  | rdx (agent guest pa : Nat)
  | homeAccess (req : Nat)
  | reduAtAgent (req : Nat)
  | unitMerge (home : Home) (base size : Nat)
  | writeBackArrival (agent guest pa : Nat) (data : List (Nat × Byte))
  | peerRequest (pkg guest pa : Nat) (kind : PeerKind)
  | holderFailure (agent : Nat) (pkg : Nat)
  | homeLoss (die : Nat)
  | deviceLevelFault (part : Part)
  | ownershipReq (page pkg : Nat)
  | delayedGrant (page : Nat)
  | grant (page : Nat) (data : List (Nat × Byte))
  | redirect (page pkg : Nat)
  | ownershipTimeout (page : Nat)
  | metadataUpdate (page pkg : Nat) (expected new : Word)
  | mmaCompletion (crew : Nat)
  | chainCompletion (crew : Nat)
  | drainCompletion (crew op : Nat)
  | chuckLoadCompletion (crew op : Nat)
  | msmxCompletion (crew op : Nat)
  | msclCompletion (crew op : Nat)
  | copyCommandStart (engine : Nat)
  | futureCompletion (op : Nat)
  | powerSample (milliwatts : Nat)
  | coolantFault
  | flitArrival (link guest : Nat)
  | calendarSlot (cal : Nat)
  | linkDown (port : Nat)
  | packageUnreachable (pkg : Nat)
  | sequencerReappoint (clocks : List Word)
  | refreshRateChange (layer : Nat) (milliCelsius : Int)
  | onDieCheckFail (pa : Nat)
  | eventRaise (n : Nat)
  | eventDoorbell (width : Nat) (value : Word)
  | eventConfigWrite (n : Nat) (mode : Mode) (value : Word)
  | ckpt (mode : Mode) (value : Word)
  | checkpointWrite
  | checkpointClose
  | coldReset (image : FwImage)
  | attestationRequest (nonce : BitVec 256)
  | systemBlockWrite (mode : Mode) (word : Nat) (value : Word)
  | execWrite (hart : Nat) (value : Mask)
  | liveWrite (hart : Nat) (value : Mask)
  | fpmWrite (hart : Nat) (value : Word)
  | fflagsAccess (hart : Nat) (write : Option Word)
  | tagmapClear (crew : Nat) (value : Word)
  | nheadWrite (guest : Nat) (value : BitVec 32)
  | registerWrite (hart reg : Nat) (value : Word)
  | coolantRestored
  | serviceCoreRestart (service : Nat)
  | wait (page : Nat)
  | peerInvalidation (pkg pa : Nat) (recalled : Bool)
  deriving DecidableEq, Repr

end Sys2Proof
end

