-- ==== Sys2Proof/Machine/Bits.lean ====
section
/-! DEFINITION. Bit fields, masks, sign extension, byte order, and the sparse tables in which State keeps
register files, memories and per-unit records. -/
namespace Sys2Proof.Machine

/-- A table from numbers to values in one canonical form: keys strictly rising, no entry at the default. -/
abbrev Sparse (α : Type) := List (Nat × α)

/-- The value at a key; `d` is what an unlisted key reads as. -/
def sget (d : α) : Sparse α → Nat → α
  | [], _ => d
  | (k', v) :: r, k => if k' = k then v else sget d r k

/-- A table without a key. -/
def sdrop : Sparse α → Nat → Sparse α
  | [], _ => []
  | (k', v') :: r, k => if k' = k then sdrop r k else (k', v') :: sdrop r k

/-- Put an entry for a key that the table does not list before the first greater key. -/
def sput : Sparse α → Nat → α → Sparse α
  | [], k, v => [(k, v)]
  | (k', v') :: r, k, v => if k < k' then (k, v) :: (k', v') :: r else (k', v') :: sput r k v

/-- Write a key, keeping the canonical form: a default value removes the entry. -/
def sset [DecidableEq α] (d : α) (m : Sparse α) (k : Nat) (v : α) : Sparse α :=
  if v = d then sdrop m k else sput (sdrop m k) k v

/-- The canonical form of a sparse table. -/
def swf [DecidableEq α] (d : α) : Sparse α → Bool
  | [] => true
  | (k, v) :: r => decide (v ≠ d) && r.all (fun p => decide (k < p.1)) && swf d r

/-- The entries with a property, without the others (used to discard whole ranges). -/
def sfilter (p : Nat → α → Bool) (m : Sparse α) : Sparse α := m.filter (fun e => p e.1 e.2)

/-- Bits [lo + w - 1 : lo] of a number (R3). -/
def bits (n lo w : Nat) : Nat := n / 2 ^ lo % 2 ^ w

/-- Bit i of a number. -/
def bit (n i : Nat) : Bool := n.testBit i

/-- Replace bits [lo + w - 1 : lo] of a number. -/
def putBits (n lo w v : Nat) : Nat := n - bits n lo w * 2 ^ lo + v % 2 ^ w * 2 ^ lo

/-- A w-bit number read as two's complement. -/
def toSigned (w n : Nat) : Int :=
  let m := n % 2 ^ w
  if 2 * m < 2 ^ w then (m : Int) else (m : Int) - 2 ^ w

/-- An integer reduced modulo 2^w. -/
def wrap (w : Nat) (y : Int) : Nat := (y % (2 ^ w : Int)).toNat

/-- Truth as a number. -/
def b2n (b : Bool) : Nat := if b then 1 else 0

/-- floor(log2 n) for n > 0. -/
def log2 (n : Nat) : Nat := Nat.log2 n

/-- The smallest multiple of k at or above n. -/
def roundUp (n k : Nat) : Nat := (n + k - 1) / k * k

/-- n / k rounded up. -/
def ceilDiv (n k : Nat) : Nat := (n + k - 1) / k

/-- The mask of all W lanes of a team (R62). -/
def allLanes (W : Nat) : Mask := BitVec.ofNat 1024 (2 ^ W - 1)

/-- Lane l's bit. -/
def laneIn (m : Mask) (l : Nat) : Bool := m.getLsbD l

/-- The lanes of a mask below W in ascending order (R131, R178). -/
def lanesOf (W : Nat) (m : Mask) : List Nat := (List.range W).filter (laneIn m)

/-- The mask of a list of lanes. -/
def maskOf (ls : List Nat) : Mask := ls.foldl (fun m l => m ||| BitVec.ofNat 1024 (2 ^ l)) 0

/-- The number of set bits of a mask. -/
def maskCount (m : Mask) : Nat := (lanesOf 1024 m).length

/-- 64-bit word i of a mask (R173). -/
def maskWord (m : Mask) (i : Nat) : Nat := bits m.toNat (64 * i) 64

/-- The bytes of a number, least significant first (R3). -/
def toBytes : Nat → Nat → List Byte
  | 0, _ => []
  | n + 1, v => BitVec.ofNat 8 v :: toBytes n (v / 256)

/-- The number that bytes spell, least significant first (R3). -/
def ofBytes : List Byte → Nat
  | [] => 0
  | b :: r => b.toNat + 256 * ofBytes r

/-- Sum of a list. -/
def sumN (l : List Nat) : Nat := l.foldl (· + ·) 0

/-- Greatest of a list, 0 for none. -/
def maxN (l : List Nat) : Nat := l.foldl max 0

/-- First element with a property, with its place. -/
def findIdx? (p : α → Bool) : List α → Option (Nat × α)
  | [] => none
  | a :: r => if p a then some (0, a) else (findIdx? p r).map (fun q => (q.1 + 1, q.2))

/-- Replace element i of a list. -/
def setAt (l : List α) (i : Nat) (v : α) : List α := l.set i v

/-- Update the elements with a property. -/
def updWhere (p : α → Bool) (f : α → α) (l : List α) : List α := l.map (fun a => if p a then f a else a)

/-- The element of a list that is least under a key, the first on a tie. -/
def leastBy (f : α → Nat) : List α → Option α
  | [] => none
  | a :: r =>
    match leastBy f r with
    | none => some a
    | some b => if f a ≤ f b then some a else some b

end Sys2Proof.Machine
end

