-- ==== Sys2Proof/Machine/Forms.lean ====
section
/-! DEFINITION. The opcode map: one row per form (02_encoding R45) with the operand kinds and roles its chapter
gives it, and the decode checks 3 to 8 of R43 on decoded fields. -/
namespace Sys2Proof.Machine

/-- The encoded forms; OWNR has one opcode and two rows of the table, told apart by SUB. -/
inductive Op where
  | add | sub | mul | mulh | mad | div | rem | min | max | abs | lea | cmp | sel | mov | movw | movh | and | or
  | xor | andn | not | shl | shr | sra | rol | clz | ctz | popc | brev | bfx | bfi | prmb | fadd | fsub | fmul
  | ffma | fmin | fmax | fabs | fneg | fcmp | fclass | fdiv | fsqrt | frnd | fscl | frcp | frsq | fexp2 | flog2
  | fsin | fcos | ftanh | cvt | cvtp | cvtbp | cvfbp | amax | qscl | shfl | vote | lred | scan | vtos | gtrn | topk
  | kand | kor | kxor | knot | kmov | kpop | kffs | exec | execr | br | brc | brz | brd | mbr | join | call | ret
  | jmpi | loop | yield | exit | nop | brk | ld | st | lds | sts | pref | cctl | fence | ldp | ldacc | stacc | amo
  | cas | redu | kld | kst | ksib | krec | chld | chinv | mcb | mma | mce | mdrn | mclr | morf | msmx | mscl | cpy
  | cpyg | cpys | await | ftest | fcan | fhnd | wany | wall | wffr | binit | barv | bwait | barw | bqry | lnch
  | acq | park | wake | kvx | kvw | kvr | pin | unpin | hint | migr | tlbi | ownrRequest | ownrRelease | cntr | cntc
  | pgcnt | tstp | srr | srw | trap | tret | iflush | svsb | ldsb | svss | ldss | svacc | ldacr | svchk | ldchk
  | wfi | halt
  deriving DecidableEq, Repr

/-- Operand kinds (R29). -/
inductive Kind where
  | none | s | v | k | sr | imm | acc | chk | bar | tag | spa | wide
  deriving DecidableEq, Repr

/-- What the modifier bits of a slot mean (R32); `pairMust` is a slot that takes a register pair only. -/
inductive Role where
  | plain | base | index | pair | pairMust | atom
  deriving DecidableEq, Repr

/-- The RM column (R38); `scopeHome` is a scope narrowed to PACKAGE and SYSTEM. -/
inductive RmCol where
  | zero | rnd | scope | scopeHome
  deriving DecidableEq, Repr

/-- A row of the opcode map (R45). An empty kind list is an unused slot. `g0` marks the forms whose G must be 0
(R157, R330). -/
structure Row where
  opc : Nat
  wide : Bool
  tys : List Ty
  subs : List Nat
  rm : RmCol
  hostC : Bool
  mode : Mode
  d : List Kind
  a : List Kind
  b : List Kind
  dr : Role
  ar : Role
  br : Role
  g0 : Bool
  deriving DecidableEq, Repr

/-- Type sets of R45. -/
def tInt : List Ty := [.i8, .n8, .i16, .n16, .i32, .n32, .i64, .n64]
def tSint : List Ty := [.i8, .i16, .i32, .i64]
def tBits : List Ty := [.b32, .b64]
def tFp : List Ty := [.f16, .bf16, .f32, .f64]
def tFpp : List Ty := tFp ++ [.p2bf16, .p2f16]
def tMem : List Ty := tInt ++ tFp ++ [.e4m3, .e5m2, .b32, .b64]
def tAtm : List Ty := [.i32, .n32, .i64, .n64, .b32, .b64]
def tCvt : List Ty := tInt ++ tFp ++ [.e4m3, .e5m2, .e4m3u]
def tNone : List Ty := [.none]

/-- The opcode map of R45 with the operand tables of R91, R101, R132 to R155, R158, R173, R175, R241, R304,
R330 to R356, R387, R394, R467, R366 to R377, R411 to R440, R474 to R478 and R196. -/
def Op.row : Op → Row
  | .add => ⟨0x001, true, tInt, [0, 1], .zero, false, .user, [.s, .v, .none], [.s, .v, .imm, .sr, .wide], [.s, .v, .imm, .sr, .none], .plain, .plain, .plain, false⟩
  | .sub => ⟨0x002, false, tInt, [0, 1], .zero, false, .user, [.s, .v, .none], [.s, .v, .imm, .sr], [.s, .v, .imm, .sr], .plain, .plain, .plain, false⟩
  | .mul => ⟨0x003, false, tInt, [0, 1], .zero, false, .user, [.s, .v, .none], [.s, .v, .imm, .sr], [.s, .v, .imm, .sr], .plain, .plain, .plain, false⟩
  | .mulh => ⟨0x004, false, tInt, [0], .zero, false, .user, [.s, .v, .none], [.s, .v, .imm, .sr], [.s, .v, .imm, .sr], .plain, .plain, .plain, false⟩
  | .mad => ⟨0x005, false, tInt, [0, 1], .zero, false, .user, [.s, .v], [.s, .v, .imm, .sr], [.s, .v, .imm, .sr], .plain, .plain, .plain, false⟩
  | .div => ⟨0x006, false, tInt, [0], .zero, false, .user, [.s, .v, .none], [.s, .v, .imm, .sr], [.s, .v, .imm, .sr], .plain, .plain, .plain, false⟩
  | .rem => ⟨0x007, false, tInt, [0], .zero, false, .user, [.s, .v, .none], [.s, .v, .imm, .sr], [.s, .v, .imm, .sr], .plain, .plain, .plain, false⟩
  | .min => ⟨0x008, false, tInt, [0], .zero, false, .user, [.s, .v, .none], [.s, .v, .imm, .sr], [.s, .v, .imm, .sr], .plain, .plain, .plain, false⟩
  | .max => ⟨0x009, false, tInt, [0], .zero, false, .user, [.s, .v, .none], [.s, .v, .imm, .sr], [.s, .v, .imm, .sr], .plain, .plain, .plain, false⟩
  | .abs => ⟨0x00A, false, tSint, [0, 1], .zero, false, .user, [.s, .v, .none], [.s, .v, .imm, .sr], [], .plain, .plain, .plain, false⟩
  | .lea => ⟨0x00B, true, [.n64], [0, 1, 2, 3, 4], .zero, false, .user, [.s, .v, .none], [.s, .v, .imm, .sr, .wide], [.s, .v, .imm, .sr, .none], .plain, .plain, .plain, false⟩
  | .cmp => ⟨0x00C, false, tInt, [0, 1, 2, 3, 4, 5], .zero, false, .user, [.k, .s], [.s, .v, .imm, .sr], [.s, .v, .imm, .sr], .plain, .plain, .plain, false⟩
  | .sel => ⟨0x00D, false, (tInt ++ tFp ++ tBits), [0], .zero, false, .user, [.s, .v], [.s, .v, .imm, .sr], [.s, .v, .imm, .sr], .plain, .plain, .plain, false⟩
  | .mov => ⟨0x00E, false, tBits, [0], .zero, false, .user, [.s, .v], [.s, .v, .imm, .sr], [], .plain, .plain, .plain, false⟩
  | .movw => ⟨0x00F, true, tBits, [0], .zero, false, .user, [.s, .v], [.wide], [], .plain, .plain, .plain, false⟩
  | .movh => ⟨0x010, true, [.b64], [0], .zero, false, .user, [.s, .v], [.wide, .imm], [], .plain, .plain, .plain, false⟩
  | .and => ⟨0x040, true, tBits, [0], .zero, false, .user, [.s, .v, .none], [.s, .v, .imm, .sr, .wide], [.s, .v, .imm, .sr, .none], .plain, .plain, .plain, false⟩
  | .or => ⟨0x041, true, tBits, [0], .zero, false, .user, [.s, .v, .none], [.s, .v, .imm, .sr, .wide], [.s, .v, .imm, .sr, .none], .plain, .plain, .plain, false⟩
  | .xor => ⟨0x042, true, tBits, [0], .zero, false, .user, [.s, .v, .none], [.s, .v, .imm, .sr, .wide], [.s, .v, .imm, .sr, .none], .plain, .plain, .plain, false⟩
  | .andn => ⟨0x043, true, tBits, [0], .zero, false, .user, [.s, .v, .none], [.s, .v, .imm, .sr, .wide], [.s, .v, .imm, .sr, .none], .plain, .plain, .plain, false⟩
  | .not => ⟨0x044, false, tBits, [0], .zero, false, .user, [.s, .v, .none], [.s, .v, .imm, .sr], [], .plain, .plain, .plain, false⟩
  | .shl => ⟨0x045, false, (tInt ++ tBits), [0], .zero, false, .user, [.s, .v, .none], [.s, .v, .imm, .sr], [.s, .v, .imm, .sr], .plain, .plain, .plain, false⟩
  | .shr => ⟨0x046, false, (tInt ++ tBits), [0], .zero, false, .user, [.s, .v, .none], [.s, .v, .imm, .sr], [.s, .v, .imm, .sr], .plain, .plain, .plain, false⟩
  | .sra => ⟨0x047, false, (tInt ++ tBits), [0], .zero, false, .user, [.s, .v, .none], [.s, .v, .imm, .sr], [.s, .v, .imm, .sr], .plain, .plain, .plain, false⟩
  | .rol => ⟨0x048, false, (tInt ++ tBits), [0], .zero, false, .user, [.s, .v, .none], [.s, .v, .imm, .sr], [.s, .v, .imm, .sr], .plain, .plain, .plain, false⟩
  | .clz => ⟨0x049, false, tBits, [0], .zero, false, .user, [.s, .v, .none], [.s, .v, .imm, .sr], [], .plain, .plain, .plain, false⟩
  | .ctz => ⟨0x04A, false, tBits, [0], .zero, false, .user, [.s, .v, .none], [.s, .v, .imm, .sr], [], .plain, .plain, .plain, false⟩
  | .popc => ⟨0x04B, false, tBits, [0], .zero, false, .user, [.s, .v, .none], [.s, .v, .imm, .sr], [], .plain, .plain, .plain, false⟩
  | .brev => ⟨0x04C, false, tBits, [0], .zero, false, .user, [.s, .v, .none], [.s, .v, .imm, .sr], [], .plain, .plain, .plain, false⟩
  | .bfx => ⟨0x04D, false, [.i32, .n32, .i64, .n64], [0], .zero, false, .user, [.s, .v, .none], [.s, .v, .imm, .sr], [.s, .v, .imm, .sr], .plain, .plain, .plain, false⟩
  | .bfi => ⟨0x04E, false, tBits, [0], .zero, false, .user, [.s, .v], [.s, .v, .imm, .sr], [.s, .v, .imm, .sr], .plain, .plain, .plain, false⟩
  | .prmb => ⟨0x04F, false, tBits, [0], .zero, false, .user, [.s, .v, .none], [.s, .v, .imm, .sr], [.s, .v, .imm, .sr], .plain, .plain, .plain, false⟩
  | .fadd => ⟨0x080, false, tFpp, [0], .rnd, false, .user, [.s, .v, .none], [.s, .v, .imm, .sr], [.s, .v, .imm, .sr], .plain, .plain, .plain, false⟩
  | .fsub => ⟨0x081, false, tFpp, [0], .rnd, false, .user, [.s, .v, .none], [.s, .v, .imm, .sr], [.s, .v, .imm, .sr], .plain, .plain, .plain, false⟩
  | .fmul => ⟨0x082, false, tFpp, [0], .rnd, false, .user, [.s, .v, .none], [.s, .v, .imm, .sr], [.s, .v, .imm, .sr], .plain, .plain, .plain, false⟩
  | .ffma => ⟨0x083, false, tFpp, [0], .rnd, false, .user, [.s, .v], [.s, .v, .imm, .sr], [.s, .v, .imm, .sr], .plain, .plain, .plain, false⟩
  | .fmin => ⟨0x084, false, tFpp, [0, 1], .zero, false, .user, [.s, .v, .none], [.s, .v, .imm, .sr], [.s, .v, .imm, .sr], .plain, .plain, .plain, false⟩
  | .fmax => ⟨0x085, false, tFpp, [0, 1], .zero, false, .user, [.s, .v, .none], [.s, .v, .imm, .sr], [.s, .v, .imm, .sr], .plain, .plain, .plain, false⟩
  | .fabs => ⟨0x086, false, tFpp, [0], .zero, false, .user, [.s, .v, .none], [.s, .v, .imm, .sr], [], .plain, .plain, .plain, false⟩
  | .fneg => ⟨0x087, false, tFpp, [0], .zero, false, .user, [.s, .v, .none], [.s, .v, .imm, .sr], [], .plain, .plain, .plain, false⟩
  | .fcmp => ⟨0x088, false, tFp, [0, 1, 2, 3, 4, 5, 6, 7], .zero, false, .user, [.k, .s], [.s, .v, .imm, .sr], [.s, .v, .imm, .sr], .plain, .plain, .plain, false⟩
  | .fclass => ⟨0x089, false, tFp, [0], .zero, false, .user, [.s, .v], [.s, .v, .imm, .sr], [], .plain, .plain, .plain, false⟩
  | .fdiv => ⟨0x08A, false, tFp, [0], .rnd, false, .user, [.s, .v, .none], [.s, .v, .imm, .sr], [.s, .v, .imm, .sr], .plain, .plain, .plain, false⟩
  | .fsqrt => ⟨0x08B, false, tFp, [0], .rnd, false, .user, [.s, .v, .none], [.s, .v, .imm, .sr], [], .plain, .plain, .plain, false⟩
  | .frnd => ⟨0x08C, false, tFp, [0], .rnd, false, .user, [.s, .v, .none], [.s, .v, .imm, .sr], [], .plain, .plain, .plain, false⟩
  | .fscl => ⟨0x08D, false, tFp, [0], .rnd, false, .user, [.s, .v, .none], [.s, .v, .imm, .sr], [.s, .v, .imm, .sr], .plain, .plain, .plain, false⟩
  | .frcp => ⟨0x0C0, false, [.f16, .bf16, .f32], [0], .zero, false, .user, [.s, .v, .none], [.s, .v, .imm, .sr], [], .plain, .plain, .plain, false⟩
  | .frsq => ⟨0x0C1, false, [.f16, .bf16, .f32], [0], .zero, false, .user, [.s, .v, .none], [.s, .v, .imm, .sr], [], .plain, .plain, .plain, false⟩
  | .fexp2 => ⟨0x0C2, false, [.f16, .bf16, .f32], [0], .zero, false, .user, [.s, .v, .none], [.s, .v, .imm, .sr], [], .plain, .plain, .plain, false⟩
  | .flog2 => ⟨0x0C3, false, [.f16, .bf16, .f32], [0], .zero, false, .user, [.s, .v, .none], [.s, .v, .imm, .sr], [], .plain, .plain, .plain, false⟩
  | .fsin => ⟨0x0C4, false, [.f16, .bf16, .f32], [0], .zero, false, .user, [.s, .v, .none], [.s, .v, .imm, .sr], [], .plain, .plain, .plain, false⟩
  | .fcos => ⟨0x0C5, false, [.f16, .bf16, .f32], [0], .zero, false, .user, [.s, .v, .none], [.s, .v, .imm, .sr], [], .plain, .plain, .plain, false⟩
  | .ftanh => ⟨0x0C6, false, [.f16, .bf16, .f32], [0], .zero, false, .user, [.s, .v, .none], [.s, .v, .imm, .sr], [], .plain, .plain, .plain, false⟩
  | .cvt => ⟨0x0D0, false, tCvt, (List.range 15), .rnd, false, .user, [.s, .v, .none], [.s, .v, .imm, .sr], [], .plain, .plain, .plain, false⟩
  | .cvtp => ⟨0x0D1, false, [.p2bf16, .p2f16, .p4e4m3, .p4e5m2, .p8i4, .p4i8], [0, 1], .rnd, false, .user, [.v], [.v], [.s, .v, .imm, .none], .plain, .plain, .plain, false⟩
  | .cvtbp => ⟨0x0D2, false, [.bp], [2, 3, 4, 5, 6, 7, 8], .zero, false, .user, [.v], [.v], [], .plain, .plain, .plain, false⟩
  | .cvfbp => ⟨0x0D3, false, [.bp], [2, 3, 4, 5, 6, 7, 8], .zero, false, .user, [.v], [.v], [], .plain, .plain, .plain, false⟩
  | .amax => ⟨0x0D4, false, [.f16, .bf16, .f32], (List.range 8), .zero, false, .user, [.s, .none], [.s, .v, .imm, .sr], [], .plain, .plain, .plain, false⟩
  | .qscl => ⟨0x0D5, false, [.e4m3, .e5m2], (List.range 8), .rnd, false, .user, [.s, .v], [], [], .plain, .plain, .plain, false⟩
  | .shfl => ⟨0x100, false, tBits, [0, 1, 2, 3], .zero, false, .user, [.v], [.v], [.s, .v, .imm], .plain, .plain, .plain, false⟩
  | .vote => ⟨0x101, false, tNone, [0, 1, 2, 3], .zero, false, .user, [.k, .s], [.k, .v], [], .plain, .plain, .plain, false⟩
  | .lred => ⟨0x102, false, (tInt ++ tFp), (List.range 6), .zero, false, .user, [.s, .v], [.v], [], .plain, .plain, .plain, false⟩
  | .scan => ⟨0x103, false, (tInt ++ tFp), [0, 1, 2, 3, 4, 5, 8, 9, 10, 11, 12, 13], .zero, false, .user, [.v], [.v], [], .plain, .plain, .plain, false⟩
  | .vtos => ⟨0x104, false, tBits, [0], .zero, false, .user, [.s], [.v], [.s, .imm], .plain, .plain, .plain, false⟩
  | .gtrn => ⟨0x105, false, [.n8, .n16, .n32], [0], .zero, false, .user, [.v], [], [], .plain, .plain, .plain, false⟩
  | .topk => ⟨0x106, false, (tInt ++ [.f16, .bf16, .f32]), [0], .zero, false, .user, [.k], [.v], [.s, .imm], .plain, .plain, .plain, false⟩
  | .kand => ⟨0x110, false, tNone, [0], .zero, false, .user, [.k], [.k], [.k], .plain, .plain, .plain, true⟩
  | .kor => ⟨0x111, false, tNone, [0], .zero, false, .user, [.k], [.k], [.k], .plain, .plain, .plain, true⟩
  | .kxor => ⟨0x112, false, tNone, [0], .zero, false, .user, [.k], [.k], [.k], .plain, .plain, .plain, true⟩
  | .knot => ⟨0x113, false, tNone, [0], .zero, false, .user, [.k], [.k], [], .plain, .plain, .plain, true⟩
  | .kmov => ⟨0x114, false, tNone, [0], .zero, false, .user, [.k, .s], [.k, .s], [.imm, .s, .none], .plain, .plain, .plain, true⟩
  | .kpop => ⟨0x115, false, tNone, [0], .zero, false, .user, [.s], [.k], [], .plain, .plain, .plain, true⟩
  | .kffs => ⟨0x116, false, tNone, [0], .zero, false, .user, [.s], [.k], [], .plain, .plain, .plain, true⟩
  | .exec => ⟨0x117, false, tNone, [0], .zero, false, .user, [.k], [.k], [], .plain, .plain, .plain, true⟩
  | .execr => ⟨0x118, false, tNone, [0], .zero, false, .user, [], [.k], [], .plain, .plain, .plain, true⟩
  | .br => ⟨0x140, true, tNone, [0], .zero, false, .user, [], [.none, .wide], [.imm], .plain, .plain, .plain, false⟩
  | .brc => ⟨0x141, false, tInt, (List.range 6), .zero, false, .user, [], [.s, .sr], [.imm], .plain, .plain, .plain, false⟩
  | .brz => ⟨0x142, false, tNone, [0], .zero, false, .user, [], [.k], [.imm], .plain, .plain, .plain, true⟩
  | .brd => ⟨0x143, false, tNone, [0], .zero, false, .user, [], [.k], [.imm], .plain, .plain, .plain, false⟩
  | .mbr => ⟨0x144, false, tNone, [0], .zero, false, .user, [], [], [], .plain, .plain, .plain, false⟩
  | .join => ⟨0x145, false, tNone, [0], .zero, false, .user, [], [], [], .plain, .plain, .plain, true⟩
  | .call => ⟨0x146, true, tNone, [0], .zero, false, .user, [.s], [.none, .wide], [.imm], .plain, .plain, .plain, false⟩
  | .ret => ⟨0x147, false, tNone, [0], .zero, false, .user, [], [.s], [], .plain, .plain, .plain, false⟩
  | .jmpi => ⟨0x148, false, tNone, [0], .zero, false, .user, [], [.s], [], .plain, .plain, .plain, false⟩
  | .loop => ⟨0x149, false, tNone, [0], .zero, false, .user, [.s], [], [.imm], .plain, .plain, .plain, true⟩
  | .yield => ⟨0x14A, false, tNone, [0], .zero, false, .user, [], [], [], .plain, .plain, .plain, false⟩
  | .exit => ⟨0x14B, false, tNone, [0], .zero, false, .user, [], [], [], .plain, .plain, .plain, false⟩
  | .nop => ⟨0x14C, false, tNone, [0], .zero, false, .user, [], [], [], .plain, .plain, .plain, false⟩
  | .brk => ⟨0x14D, false, tNone, [0], .zero, false, .user, [], [.none, .imm], [], .plain, .plain, .plain, false⟩
  | .ld => ⟨0x180, false, tMem, [0, 1, 2, 4, 6, 8, 10], .zero, false, .user, [.s, .v], [.s, .v, .none], [.s, .v, .imm, .spa, .none], .plain, .base, .index, false⟩
  | .st => ⟨0x181, false, tMem, [0, 1, 2, 4, 6, 8, 10], .zero, false, .user, [.s, .v], [.s, .v, .none], [.s, .v, .imm, .spa, .none], .plain, .base, .index, false⟩
  | .lds => ⟨0x182, false, (tAtm ++ [.f32, .f64]), [0, 1, 4], .scope, false, .user, [.s, .v], [.s, .v, .none], [.s, .v, .imm, .none], .pair, .base, .index, false⟩
  | .sts => ⟨0x183, false, (tAtm ++ [.f32, .f64]), [0, 2, 4], .scope, false, .user, [.s, .v], [.s, .v, .none], [.s, .v, .imm, .none], .pair, .base, .index, false⟩
  | .pref => ⟨0x184, false, tNone, [0, 1, 2], .zero, false, .user, [.none], [.s, .v, .none], [.s, .v, .imm, .none], .plain, .base, .index, false⟩
  | .cctl => ⟨0x185, false, tNone, [0, 1, 2], .scope, false, .user, [.none], [.s, .v, .none], [.s, .v, .imm, .none], .plain, .base, .index, false⟩
  | .fence => ⟨0x186, false, tNone, [1, 2, 3, 4], .scope, false, .user, [.none], [.none], [.none], .plain, .plain, .plain, false⟩
  | .ldp => ⟨0x187, false, tAtm, [0, 1], .scope, false, .user, [.s, .v], [.s, .v, .none], [.s, .v, .imm, .none], .plain, .base, .index, false⟩
  | .ldacc => ⟨0x188, false, [.f32, .b64], [0], .rnd, true, .user, [.s, .v], [.acc], [.s, .v, .imm], .plain, .plain, .plain, false⟩
  | .stacc => ⟨0x189, false, [.f32, .b64], [0], .zero, true, .user, [.s, .v], [.acc], [.s, .v, .imm], .plain, .plain, .plain, false⟩
  | .amo => ⟨0x1C0, false, (tAtm ++ [.f32]), (List.range 5), .scope, false, .user, [.s, .v, .none], [.s, .v], [.s, .v], .plain, .base, .atom, false⟩
  | .cas => ⟨0x1C1, false, tAtm, (List.range 5), .scope, false, .user, [.s, .v], [.s, .v], [.s, .v], .pair, .base, .pair, false⟩
  | .redu => ⟨0x1C2, false, tAtm, [0, 2], .scope, false, .user, [.none], [.s, .v], [.s, .v], .plain, .base, .atom, false⟩
  | .kld => ⟨0x1D0, false, [.b64], [0, 1, 4], .scopeHome, false, .user, [.s], [.s], [.none], .plain, .base, .plain, false⟩
  | .kst => ⟨0x1D1, false, [.b64], [0, 2, 4], .scopeHome, false, .user, [.s], [.s], [.s], .plain, .base, .pairMust, false⟩
  | .ksib => ⟨0x1D2, false, [.b64], [0, 1], .scopeHome, false, .user, [.s], [.s], [.s, .imm], .plain, .base, .plain, false⟩
  | .krec => ⟨0x1D3, false, [.b64, .i64, .n64], (List.range 6), .scopeHome, false, .user, [.s], [.s], [.s, .none], .plain, .base, .pairMust, false⟩
  | .chld => ⟨0x200, false, [.bp, .i8, .e4m3, .e5m2, .f16, .bf16], [0, 1], .zero, true, .user, [.s, .none], [.chk], [.spa, .s], .plain, .plain, .plain, true⟩
  | .chinv => ⟨0x201, false, tNone, [0], .zero, true, .user, [], [.chk], [], .plain, .plain, .plain, true⟩
  | .mcb => ⟨0x202, false, tNone, [0], .zero, true, .user, [.acc], [.spa, .s], [.bar], .plain, .plain, .plain, true⟩
  | .mma => ⟨0x203, false, tNone, [0, 1], .zero, true, .user, [], [.spa, .s], [], .plain, .plain, .plain, true⟩
  | .mce => ⟨0x204, false, tNone, [0], .zero, true, .user, [], [], [], .plain, .plain, .plain, true⟩
  | .mdrn => ⟨0x205, false, [.f32, .bf16, .f16, .e4m3, .e5m2, .bp], (List.range 16), .rnd, true, .user, [.s, .none], [.acc], [.s], .plain, .plain, .pairMust, true⟩
  | .mclr => ⟨0x206, false, tNone, [0], .zero, true, .user, [], [.acc], [.none, .imm], .plain, .plain, .plain, true⟩
  | .morf => ⟨0x207, false, tNone, [0], .zero, true, .user, [], [], [], .plain, .plain, .plain, true⟩
  | .msmx => ⟨0x208, false, tNone, [0, 1], .zero, true, .user, [.acc], [.spa, .s], [.bar], .plain, .plain, .plain, true⟩
  | .mscl => ⟨0x209, false, tNone, [0], .zero, true, .user, [.acc], [], [.bar], .plain, .plain, .plain, true⟩
  | .cpy => ⟨0x240, false, tNone, [0], .zero, true, .user, [.s, .none], [.spa, .s], [.tag], .plain, .plain, .plain, false⟩
  | .cpyg => ⟨0x241, false, tNone, [0], .zero, true, .user, [.s, .none], [.spa, .s], [.tag], .plain, .plain, .plain, false⟩
  | .cpys => ⟨0x242, false, tNone, [0], .zero, true, .user, [.s, .none], [.spa, .s], [.tag], .plain, .plain, .plain, false⟩
  | .await => ⟨0x244, false, tNone, [0], .zero, false, .user, [.s, .none], [.s], [], .plain, .plain, .plain, false⟩
  | .ftest => ⟨0x245, false, tNone, [0], .zero, false, .user, [.k, .s], [.s], [], .plain, .plain, .plain, false⟩
  | .fcan => ⟨0x246, false, tNone, [0], .zero, false, .user, [], [.s], [], .plain, .plain, .plain, false⟩
  | .fhnd => ⟨0x247, false, tNone, [0], .zero, false, .user, [.s], [.s], [], .plain, .plain, .plain, false⟩
  | .wany => ⟨0x248, false, tNone, [0], .zero, false, .user, [.s, .none], [.s, .imm], [], .plain, .plain, .plain, false⟩
  | .wall => ⟨0x249, false, tNone, [0], .zero, false, .user, [.s, .none], [.s, .imm], [], .plain, .plain, .plain, false⟩
  | .wffr => ⟨0x24A, false, tNone, [0], .zero, false, .user, [.s, .none], [.s, .imm], [], .plain, .plain, .plain, false⟩
  | .binit => ⟨0x280, false, tNone, [0], .zero, true, .user, [.bar], [.s, .imm], [], .plain, .plain, .plain, false⟩
  | .barv => ⟨0x281, false, tNone, [0], .zero, true, .user, [.bar], [], [], .plain, .plain, .plain, false⟩
  | .bwait => ⟨0x282, false, tNone, [0], .zero, true, .user, [.bar], [], [], .plain, .plain, .plain, false⟩
  | .barw => ⟨0x283, false, tNone, [0], .zero, true, .user, [.bar], [], [], .plain, .plain, .plain, false⟩
  | .bqry => ⟨0x284, false, tNone, [0], .zero, true, .user, [.s], [.bar], [.none, .imm], .plain, .plain, .plain, false⟩
  | .lnch => ⟨0x290, false, tNone, [0], .zero, false, .user, [.s, .none], [.s], [.s, .imm], .plain, .plain, .plain, false⟩
  | .acq => ⟨0x291, false, tNone, [0], .zero, false, .user, [], [], [], .plain, .plain, .plain, false⟩
  | .park => ⟨0x292, false, tNone, [0], .zero, false, .user, [], [], [], .plain, .plain, .plain, false⟩
  | .wake => ⟨0x293, false, tNone, [0], .zero, false, .user, [], [.s], [.s, .imm], .plain, .base, .plain, false⟩
  | .kvx => ⟨0x2C0, false, tNone, [0, 1, 2, 3], .zero, false, .user, [.v], [.v], [.k], .plain, .plain, .plain, false⟩
  | .kvw => ⟨0x2C1, false, tNone, [0], .zero, false, .user, [.s, .none], [.s], [.s], .plain, .pairMust, .pairMust, false⟩
  | .kvr => ⟨0x2C2, false, tNone, [0], .zero, false, .user, [.s], [.s], [.none], .plain, .pairMust, .plain, false⟩
  | .pin => ⟨0x2C3, false, tNone, [0], .zero, false, .user, [.s, .none], [.s], [], .plain, .base, .plain, false⟩
  | .unpin => ⟨0x2C4, false, tNone, [0], .zero, false, .user, [.s, .none], [.s], [], .plain, .base, .plain, false⟩
  | .hint => ⟨0x2C5, false, tNone, [0, 1, 2, 3, 4], .zero, false, .user, [.s, .none], [.s], [], .plain, .base, .plain, false⟩
  | .migr => ⟨0x2C6, false, tNone, [0, 1, 2, 3], .zero, false, .guest, [.s, .none], [.s], [.none, .s, .imm], .plain, .base, .plain, false⟩
  | .tlbi => ⟨0x2C7, false, tNone, [0, 1, 2], .scope, false, .guest, [], [.s, .none], [.s, .imm, .none], .plain, .plain, .plain, false⟩
  | .ownrRequest => ⟨0x2C8, false, tNone, [0], .zero, false, .user, [.s, .none], [.s], [], .plain, .base, .plain, false⟩
  | .ownrRelease => ⟨0x2C8, false, tNone, [1], .zero, false, .user, [.s, .none], [.s], [], .plain, .base, .plain, false⟩
  | .cntr => ⟨0x300, false, tNone, [0], .zero, false, .user, [.s], [.s, .imm], [], .plain, .plain, .plain, false⟩
  | .cntc => ⟨0x301, false, tNone, [0], .zero, false, .user, [.s, .none], [.s, .imm], [.s, .imm], .plain, .plain, .plain, false⟩
  | .pgcnt => ⟨0x302, false, tNone, [0], .zero, false, .user, [.s], [.s], [], .plain, .base, .plain, false⟩
  | .tstp => ⟨0x303, false, tNone, [0], .zero, false, .user, [.s], [.none, .s], [], .plain, .plain, .plain, false⟩
  | .srr => ⟨0x340, false, tNone, [0], .zero, false, .user, [.s], [.sr], [], .plain, .plain, .plain, false⟩
  | .srw => ⟨0x341, false, tNone, [0], .zero, false, .user, [.sr], [.s, .imm], [], .plain, .plain, .plain, false⟩
  | .trap => ⟨0x342, false, tNone, [0], .zero, false, .user, [], [.none, .imm], [], .plain, .plain, .plain, false⟩
  | .tret => ⟨0x343, false, tNone, [0], .zero, false, .guest, [], [], [], .plain, .plain, .plain, false⟩
  | .iflush => ⟨0x344, false, tNone, [0], .scope, false, .user, [], [], [], .plain, .plain, .plain, false⟩
  | .svsb => ⟨0x345, false, tNone, [0], .zero, false, .user, [], [.s], [], .plain, .plain, .plain, false⟩
  | .ldsb => ⟨0x346, false, tNone, [0], .zero, false, .user, [], [.s], [], .plain, .plain, .plain, false⟩
  | .svss => ⟨0x347, false, tNone, [0], .zero, false, .user, [], [.s], [], .plain, .plain, .plain, false⟩
  | .ldss => ⟨0x348, false, tNone, [0], .zero, false, .user, [], [.s], [], .plain, .plain, .plain, false⟩
  | .svacc => ⟨0x349, false, tNone, [0], .zero, true, .user, [], [.s], [], .plain, .plain, .plain, false⟩
  | .ldacr => ⟨0x34A, false, tNone, [0], .zero, true, .user, [], [.s], [], .plain, .plain, .plain, false⟩
  | .svchk => ⟨0x34B, false, tNone, [0], .zero, true, .user, [], [.s], [], .plain, .plain, .plain, false⟩
  | .ldchk => ⟨0x34C, false, tNone, [0], .zero, true, .user, [], [.s], [], .plain, .plain, .plain, false⟩
  | .wfi => ⟨0x34D, false, tNone, [0], .zero, false, .host, [], [], [], .plain, .plain, .plain, false⟩
  | .halt => ⟨0x34E, false, tNone, [0], .zero, false, .fw, [], [], [], .plain, .plain, .plain, false⟩

/-- Forms of the table, part 0. -/
def ops0 : List Op := [.add, .sub, .mul, .mulh, .mad, .div, .rem, .min, .max, .abs, .lea, .cmp]
/-- Forms of the table, part 1. -/
def ops1 : List Op := [.sel, .mov, .movw, .movh, .and, .or, .xor, .andn, .not, .shl, .shr, .sra]
/-- Forms of the table, part 2. -/
def ops2 : List Op := [.rol, .clz, .ctz, .popc, .brev, .bfx, .bfi, .prmb, .fadd, .fsub, .fmul, .ffma]
/-- Forms of the table, part 3. -/
def ops3 : List Op := [.fmin, .fmax, .fabs, .fneg, .fcmp, .fclass, .fdiv, .fsqrt, .frnd, .fscl, .frcp, .frsq]
/-- Forms of the table, part 4. -/
def ops4 : List Op := [.fexp2, .flog2, .fsin, .fcos, .ftanh, .cvt, .cvtp, .cvtbp, .cvfbp, .amax, .qscl, .shfl]
/-- Forms of the table, part 5. -/
def ops5 : List Op := [.vote, .lred, .scan, .vtos, .gtrn, .topk, .kand, .kor, .kxor, .knot, .kmov, .kpop]
/-- Forms of the table, part 6. -/
def ops6 : List Op := [.kffs, .exec, .execr, .br, .brc, .brz, .brd, .mbr, .join, .call, .ret, .jmpi]
/-- Forms of the table, part 7. -/
def ops7 : List Op := [.loop, .yield, .exit, .nop, .brk, .ld, .st, .lds, .sts, .pref, .cctl, .fence]
/-- Forms of the table, part 8. -/
def ops8 : List Op := [.ldp, .ldacc, .stacc, .amo, .cas, .redu, .kld, .kst, .ksib, .krec, .chld, .chinv]
/-- Forms of the table, part 9. -/
def ops9 : List Op := [.mcb, .mma, .mce, .mdrn, .mclr, .morf, .msmx, .mscl, .cpy, .cpyg, .cpys, .await]
/-- Forms of the table, part 10. -/
def ops10 : List Op := [.ftest, .fcan, .fhnd, .wany, .wall, .wffr, .binit, .barv, .bwait, .barw, .bqry, .lnch]
/-- Forms of the table, part 11. -/
def ops11 : List Op := [.acq, .park, .wake, .kvx, .kvw, .kvr, .pin, .unpin, .hint, .migr, .tlbi, .ownrRequest]
/-- Forms of the table, part 12. -/
def ops12 : List Op := [.ownrRelease, .cntr, .cntc, .pgcnt, .tstp, .srr, .srw, .trap, .tret, .iflush, .svsb, .ldsb]
/-- Forms of the table, part 13. -/
def ops13 : List Op := [.svss, .ldss, .svacc, .ldacr, .svchk, .ldchk, .wfi, .halt]

/-- Every form, in the order of the table. -/
def allOps : List Op := List.flatten [ops0, ops1, ops2, ops3, ops4, ops5, ops6, ops7, ops8, ops9, ops10, ops11, ops12, ops13]

/-- The form of an opcode and a SUB value (OWNR needs SUB; with any other SUB its REQUEST row serves, and check 3 fails). -/
def Op.ofCode (opc sub : Nat) : Option Op :=
  if opc = 0x2C8 then some (if sub = 1 then .ownrRelease else .ownrRequest)
  else allOps.find? (fun o => o.row.opc == opc)

/-- The instruction of a form and its fields (MBR excepted, R39). -/
def Instr.ofArgs : Op → Args → Instr
  | .add, x => .add x
  | .sub, x => .sub x
  | .mul, x => .mul x
  | .mulh, x => .mulh x
  | .mad, x => .mad x
  | .div, x => .div x
  | .rem, x => .rem x
  | .min, x => .min x
  | .max, x => .max x
  | .abs, x => .abs x
  | .lea, x => .lea x
  | .cmp, x => .cmp x
  | .sel, x => .sel x
  | .mov, x => .mov x
  | .movw, x => .movw x
  | .movh, x => .movh x
  | .and, x => .and x
  | .or, x => .or x
  | .xor, x => .xor x
  | .andn, x => .andn x
  | .not, x => .not x
  | .shl, x => .shl x
  | .shr, x => .shr x
  | .sra, x => .sra x
  | .rol, x => .rol x
  | .clz, x => .clz x
  | .ctz, x => .ctz x
  | .popc, x => .popc x
  | .brev, x => .brev x
  | .bfx, x => .bfx x
  | .bfi, x => .bfi x
  | .prmb, x => .prmb x
  | .fadd, x => .fadd x
  | .fsub, x => .fsub x
  | .fmul, x => .fmul x
  | .ffma, x => .ffma x
  | .fmin, x => .fmin x
  | .fmax, x => .fmax x
  | .fabs, x => .fabs x
  | .fneg, x => .fneg x
  | .fcmp, x => .fcmp x
  | .fclass, x => .fclass x
  | .fdiv, x => .fdiv x
  | .fsqrt, x => .fsqrt x
  | .frnd, x => .frnd x
  | .fscl, x => .fscl x
  | .frcp, x => .frcp x
  | .frsq, x => .frsq x
  | .fexp2, x => .fexp2 x
  | .flog2, x => .flog2 x
  | .fsin, x => .fsin x
  | .fcos, x => .fcos x
  | .ftanh, x => .ftanh x
  | .cvt, x => .cvt x
  | .cvtp, x => .cvtp x
  | .cvtbp, x => .cvtbp x
  | .cvfbp, x => .cvfbp x
  | .amax, x => .amax x
  | .qscl, x => .qscl x
  | .shfl, x => .shfl x
  | .vote, x => .vote x
  | .lred, x => .lred x
  | .scan, x => .scan x
  | .vtos, x => .vtos x
  | .gtrn, x => .gtrn x
  | .topk, x => .topk x
  | .kand, x => .kand x
  | .kor, x => .kor x
  | .kxor, x => .kxor x
  | .knot, x => .knot x
  | .kmov, x => .kmov x
  | .kpop, x => .kpop x
  | .kffs, x => .kffs x
  | .exec, x => .exec x
  | .execr, x => .execr x
  | .br, x => .br x
  | .brc, x => .brc x
  | .brz, x => .brz x
  | .brd, x => .brd x
  | .mbr, x => .nop x
  | .join, x => .join x
  | .call, x => .call x
  | .ret, x => .ret x
  | .jmpi, x => .jmpi x
  | .loop, x => .loop x
  | .yield, x => .yield x
  | .exit, x => .exit x
  | .nop, x => .nop x
  | .brk, x => .brk x
  | .ld, x => .ld x
  | .st, x => .st x
  | .lds, x => .lds x
  | .sts, x => .sts x
  | .pref, x => .pref x
  | .cctl, x => .cctl x
  | .fence, x => .fence x
  | .ldp, x => .ldp x
  | .ldacc, x => .ldacc x
  | .stacc, x => .stacc x
  | .amo, x => .amo x
  | .cas, x => .cas x
  | .redu, x => .redu x
  | .kld, x => .kld x
  | .kst, x => .kst x
  | .ksib, x => .ksib x
  | .krec, x => .krec x
  | .chld, x => .chld x
  | .chinv, x => .chinv x
  | .mcb, x => .mcb x
  | .mma, x => .mma x
  | .mce, x => .mce x
  | .mdrn, x => .mdrn x
  | .mclr, x => .mclr x
  | .morf, x => .morf x
  | .msmx, x => .msmx x
  | .mscl, x => .mscl x
  | .cpy, x => .cpy x
  | .cpyg, x => .cpyg x
  | .cpys, x => .cpys x
  | .await, x => .await x
  | .ftest, x => .ftest x
  | .fcan, x => .fcan x
  | .fhnd, x => .fhnd x
  | .wany, x => .wany x
  | .wall, x => .wall x
  | .wffr, x => .wffr x
  | .binit, x => .binit x
  | .barv, x => .barv x
  | .bwait, x => .bwait x
  | .barw, x => .barw x
  | .bqry, x => .bqry x
  | .lnch, x => .lnch x
  | .acq, x => .acq x
  | .park, x => .park x
  | .wake, x => .wake x
  | .kvx, x => .kvx x
  | .kvw, x => .kvw x
  | .kvr, x => .kvr x
  | .pin, x => .pin x
  | .unpin, x => .unpin x
  | .hint, x => .hint x
  | .migr, x => .migr x
  | .tlbi, x => .tlbi x
  | .ownrRequest, x => .ownrRequest x
  | .ownrRelease, x => .ownrRelease x
  | .cntr, x => .cntr x
  | .cntc, x => .cntc x
  | .pgcnt, x => .pgcnt x
  | .tstp, x => .tstp x
  | .srr, x => .srr x
  | .srw, x => .srw x
  | .trap, x => .trap x
  | .tret, x => .tret x
  | .iflush, x => .iflush x
  | .svsb, x => .svsb x
  | .ldsb, x => .ldsb x
  | .svss, x => .svss x
  | .ldss, x => .ldss x
  | .svacc, x => .svacc x
  | .ldacr, x => .ldacr x
  | .svchk, x => .svchk x
  | .ldchk, x => .ldchk x
  | .wfi, x => .wfi x
  | .halt, x => .halt x

/-- The form and fields of an instruction; none for MBR and for the steps that have no encoding. -/
def Instr.form? : Instr → Option (Op × Args)
  | .add x => some (.add, x)
  | .sub x => some (.sub, x)
  | .mul x => some (.mul, x)
  | .mulh x => some (.mulh, x)
  | .mad x => some (.mad, x)
  | .div x => some (.div, x)
  | .rem x => some (.rem, x)
  | .min x => some (.min, x)
  | .max x => some (.max, x)
  | .abs x => some (.abs, x)
  | .lea x => some (.lea, x)
  | .cmp x => some (.cmp, x)
  | .sel x => some (.sel, x)
  | .mov x => some (.mov, x)
  | .movw x => some (.movw, x)
  | .movh x => some (.movh, x)
  | .and x => some (.and, x)
  | .or x => some (.or, x)
  | .xor x => some (.xor, x)
  | .andn x => some (.andn, x)
  | .not x => some (.not, x)
  | .shl x => some (.shl, x)
  | .shr x => some (.shr, x)
  | .sra x => some (.sra, x)
  | .rol x => some (.rol, x)
  | .clz x => some (.clz, x)
  | .ctz x => some (.ctz, x)
  | .popc x => some (.popc, x)
  | .brev x => some (.brev, x)
  | .bfx x => some (.bfx, x)
  | .bfi x => some (.bfi, x)
  | .prmb x => some (.prmb, x)
  | .fadd x => some (.fadd, x)
  | .fsub x => some (.fsub, x)
  | .fmul x => some (.fmul, x)
  | .ffma x => some (.ffma, x)
  | .fmin x => some (.fmin, x)
  | .fmax x => some (.fmax, x)
  | .fabs x => some (.fabs, x)
  | .fneg x => some (.fneg, x)
  | .fcmp x => some (.fcmp, x)
  | .fclass x => some (.fclass, x)
  | .fdiv x => some (.fdiv, x)
  | .fsqrt x => some (.fsqrt, x)
  | .frnd x => some (.frnd, x)
  | .fscl x => some (.fscl, x)
  | .frcp x => some (.frcp, x)
  | .frsq x => some (.frsq, x)
  | .fexp2 x => some (.fexp2, x)
  | .flog2 x => some (.flog2, x)
  | .fsin x => some (.fsin, x)
  | .fcos x => some (.fcos, x)
  | .ftanh x => some (.ftanh, x)
  | .cvt x => some (.cvt, x)
  | .cvtp x => some (.cvtp, x)
  | .cvtbp x => some (.cvtbp, x)
  | .cvfbp x => some (.cvfbp, x)
  | .amax x => some (.amax, x)
  | .qscl x => some (.qscl, x)
  | .shfl x => some (.shfl, x)
  | .vote x => some (.vote, x)
  | .lred x => some (.lred, x)
  | .scan x => some (.scan, x)
  | .vtos x => some (.vtos, x)
  | .gtrn x => some (.gtrn, x)
  | .topk x => some (.topk, x)
  | .kand x => some (.kand, x)
  | .kor x => some (.kor, x)
  | .kxor x => some (.kxor, x)
  | .knot x => some (.knot, x)
  | .kmov x => some (.kmov, x)
  | .kpop x => some (.kpop, x)
  | .kffs x => some (.kffs, x)
  | .exec x => some (.exec, x)
  | .execr x => some (.execr, x)
  | .br x => some (.br, x)
  | .brc x => some (.brc, x)
  | .brz x => some (.brz, x)
  | .brd x => some (.brd, x)
  | .mbr _ => none
  | .join x => some (.join, x)
  | .call x => some (.call, x)
  | .ret x => some (.ret, x)
  | .jmpi x => some (.jmpi, x)
  | .loop x => some (.loop, x)
  | .yield x => some (.yield, x)
  | .exit x => some (.exit, x)
  | .nop x => some (.nop, x)
  | .brk x => some (.brk, x)
  | .ld x => some (.ld, x)
  | .st x => some (.st, x)
  | .lds x => some (.lds, x)
  | .sts x => some (.sts, x)
  | .pref x => some (.pref, x)
  | .cctl x => some (.cctl, x)
  | .fence x => some (.fence, x)
  | .ldp x => some (.ldp, x)
  | .ldacc x => some (.ldacc, x)
  | .stacc x => some (.stacc, x)
  | .amo x => some (.amo, x)
  | .cas x => some (.cas, x)
  | .redu x => some (.redu, x)
  | .kld x => some (.kld, x)
  | .kst x => some (.kst, x)
  | .ksib x => some (.ksib, x)
  | .krec x => some (.krec, x)
  | .chld x => some (.chld, x)
  | .chinv x => some (.chinv, x)
  | .mcb x => some (.mcb, x)
  | .mma x => some (.mma, x)
  | .mce x => some (.mce, x)
  | .mdrn x => some (.mdrn, x)
  | .mclr x => some (.mclr, x)
  | .morf x => some (.morf, x)
  | .msmx x => some (.msmx, x)
  | .mscl x => some (.mscl, x)
  | .cpy x => some (.cpy, x)
  | .cpyg x => some (.cpyg, x)
  | .cpys x => some (.cpys, x)
  | .await x => some (.await, x)
  | .ftest x => some (.ftest, x)
  | .fcan x => some (.fcan, x)
  | .fhnd x => some (.fhnd, x)
  | .wany x => some (.wany, x)
  | .wall x => some (.wall, x)
  | .wffr x => some (.wffr, x)
  | .binit x => some (.binit, x)
  | .barv x => some (.barv, x)
  | .bwait x => some (.bwait, x)
  | .barw x => some (.barw, x)
  | .bqry x => some (.bqry, x)
  | .lnch x => some (.lnch, x)
  | .acq x => some (.acq, x)
  | .park x => some (.park, x)
  | .wake x => some (.wake, x)
  | .kvx x => some (.kvx, x)
  | .kvw x => some (.kvw, x)
  | .kvr x => some (.kvr, x)
  | .pin x => some (.pin, x)
  | .unpin x => some (.unpin, x)
  | .hint x => some (.hint, x)
  | .migr x => some (.migr, x)
  | .tlbi x => some (.tlbi, x)
  | .ownrRequest x => some (.ownrRequest, x)
  | .ownrRelease x => some (.ownrRelease, x)
  | .cntr x => some (.cntr, x)
  | .cntc x => some (.cntc, x)
  | .pgcnt x => some (.pgcnt, x)
  | .tstp x => some (.tstp, x)
  | .srr x => some (.srr, x)
  | .srw x => some (.srw, x)
  | .trap x => some (.trap, x)
  | .tret x => some (.tret, x)
  | .iflush x => some (.iflush, x)
  | .svsb x => some (.svsb, x)
  | .ldsb x => some (.ldsb, x)
  | .svss x => some (.svss, x)
  | .ldss x => some (.ldss, x)
  | .svacc x => some (.svacc, x)
  | .ldacr x => some (.ldacr, x)
  | .svchk x => some (.svchk, x)
  | .ldchk x => some (.ldchk, x)
  | .wfi x => some (.wfi, x)
  | .halt x => some (.halt, x)
  | .sectorReturn _ _ => none
  | .registerReply _ => none
  | .splitStackRefill _ => none
  | .storeBufferDeparture _ => none
  | .storeAcknowledgement _ => none
  | .ldpHoldRelease _ => none
  | .ldpHoldTimeout _ => none
  | .scopedCacheEviction _ _ _ => none
  | .translationWalk _ _ _ => none
  | .mappingNotice _ _ => none
  | .preemptRequest _ _ => none
  | .preemptDelivery _ => none
  | .preemptTimeout _ => none
  | .admissionWaitExpiry _ => none
  | .migrationNotify _ => none
  | .externalEvent _ => none
  | .crewExit _ => none
  | .drainingSettled _ => none
  | .launchRecordStart _ => none
  | .queueBinding _ => none
  | .crewPlacement _ => none
  | .acqGrant _ => none
  | .wakeWordWrite _ _ => none
  | .rcbStateWrite _ _ => none
  | .rungExpiry _ => none
  | .blockMoveDone _ => none
  | .blockSettle _ => none
  | .migrationCommandTake => none
  | .migrationDoorbell _ => none
  | .migrationStart _ => none
  | .migrationRatePeriod _ => none
  | .lineCopy _ => none
  | .shootdownComplete _ => none
  | .abortComplete _ => none
  | .sweepRebase _ _ => none
  | .updateSend _ _ _ => none
  | .keepingUpdateApply _ => none
  | .updateAck _ _ _ => none
  | .holdQueueRetry _ => none
  | .krecDeferred _ => none
  | .rd _ _ _ => none
  | .rdx _ _ _ => none
  | .homeAccess _ => none
  | .reduAtAgent _ => none
  | .unitMerge _ _ _ => none
  | .writeBackArrival _ _ _ _ => none
  | .peerRequest _ _ _ _ => none
  | .holderFailure _ _ => none
  | .homeLoss _ => none
  | .deviceLevelFault _ => none
  | .ownershipReq _ _ => none
  | .delayedGrant _ => none
  | .grant _ _ => none
  | .redirect _ _ => none
  | .ownershipTimeout _ => none
  | .metadataUpdate _ _ _ _ => none
  | .chainCompletion _ => none
  | .drainCompletion _ _ => none
  | .chuckLoadCompletion _ _ => none
  | .msmxCompletion _ _ => none
  | .msclCompletion _ _ => none
  | .copyCommandStart _ => none
  | .futureCompletion _ => none
  | .powerSample _ => none
  | .coolantFault => none
  | .flitArrival _ _ => none
  | .calendarSlot _ => none
  | .linkDown _ => none
  | .packageUnreachable _ => none
  | .sequencerReappoint _ => none
  | .refreshRateChange _ _ => none
  | .onDieCheckFail _ => none
  | .eventRaise _ => none
  | .eventDoorbell _ _ => none
  | .eventConfigWrite _ _ _ => none
  | .ckpt _ _ => none
  | .checkpointWrite => none
  | .checkpointClose => none
  | .coldReset _ => none
  | .attestationRequest _ => none
  | .systemBlockWrite _ _ _ => none
  | .execWrite _ _ => none
  | .liveWrite _ _ => none
  | .fpmWrite _ _ => none
  | .fflagsAccess _ _ => none
  | .tagmapClear _ _ => none
  | .nheadWrite _ _ => none
  | .registerWrite _ _ _ => none
  | .mmaCompletion _ => none
  | .coolantRestored => none
  | .serviceCoreRestart _ => none
  | .wait _ => none
  | .peerInvalidation _ _ _ => none

end Sys2Proof.Machine
end

