-- ==== Sys2Proof/Machine/Checks.lean ====
section
/-! DEFINITION. Type widths (R37), the special register map as far as decoding needs it (R77 to R80), and the
decode checks 3 to 8 of R43 on decoded fields. -/
namespace Sys2Proof.Machine

/-- Width in bits of a type (R37); a BP element has 8. -/
def tyBits : Ty → Nat
  | .i8 | .n8 | .e4m3 | .e5m2 | .e4m3u | .bp => 8
  | .i16 | .n16 | .f16 | .bf16 => 16
  | .i64 | .n64 | .f64 | .b64 => 64
  | .none => 0
  | _ => 32

/-- Whether values of the type are two's complement (R86). -/
def tySigned : Ty → Bool
  | .i8 | .i16 | .i32 | .i64 => true
  | _ => false

/-- The type code (R37). -/
def tyCode : Ty → Nat
  | .i8 => 0 | .n8 => 1 | .i16 => 2 | .n16 => 3 | .i32 => 4 | .n32 => 5 | .i64 => 6 | .n64 => 7
  | .f16 => 8 | .bf16 => 9 | .f32 => 10 | .f64 => 11 | .e4m3 => 12 | .e5m2 => 13 | .e4m3u => 14
  | .b32 => 15 | .b64 => 16 | .bp => 17 | .p2bf16 => 18 | .p2f16 => 19 | .p4e4m3 => 20 | .p4e5m2 => 21
  | .p8i4 => 22 | .p4i8 => 23 | .none => 31

/-- The type of a code; the reserved codes 0x18 to 0x1E have none (R37). -/
def tyOfCode : Nat → Option Ty
  | 0 => some .i8 | 1 => some .n8 | 2 => some .i16 | 3 => some .n16 | 4 => some .i32 | 5 => some .n32
  | 6 => some .i64 | 7 => some .n64 | 8 => some .f16 | 9 => some .bf16 | 10 => some .f32 | 11 => some .f64
  | 12 => some .e4m3 | 13 => some .e5m2 | 14 => some .e4m3u | 15 => some .b32 | 16 => some .b64
  | 17 => some .bp | 18 => some .p2bf16 | 19 => some .p2f16 | 20 => some .p4e4m3 | 21 => some .p4e5m2
  | 22 => some .p8i4 | 23 => some .p4i8 | 31 => some .none | _ => Option.none

/-- Elements of a packed type (R116, R150). -/
def packCount : Ty → Nat
  | .p2bf16 | .p2f16 => 2
  | .p4e4m3 | .p4e5m2 | .p4i8 => 4
  | .p8i4 => 8
  | _ => 1

/-- Assigned special register numbers (R78, R80). -/
def srAssigned (n : Nat) : Bool :=
  n ≤ 0x00E || (0x010 ≤ n && n ≤ 0x017) || (0x020 ≤ n && n ≤ 0x027) || n == 0x030 || n == 0x031 ||
  (0x040 ≤ n && n ≤ 0x046) || n == 0x050 || n == 0x060 || n == 0x061 ||
  (0x100 ≤ n && n ≤ 0x104) || (0x200 ≤ n && n ≤ 0x204) || n == 0x300 || n == 0x301

/-- The mask-class registers %exec, %live and %tmask (R79). -/
def srMask (n : Nat) : Bool := n == 0x010 || n == 0x011 || n == 0x044

/-- Rank of a mode, USER lowest (R186). -/
def modeRank : Mode → Nat
  | .user => 0 | .guest => 1 | .host => 2 | .fw => 3

/-- The mode of a rank. -/
def modeOfRank : Nat → Mode
  | 0 => .user | 1 => .guest | 2 => .host | _ => .fw

/-- The rank a special register needs for any access (R77). -/
def srRank (n : Nat) : Nat := n / 256

/-- The kind of an operand. -/
def kindOf : Operand → Kind
  | .none => .none | .s .. => .s | .v .. => .v | .k .. => .k | .sr _ => .sr | .imm _ => .imm | .acc _ => .acc
  | .chk _ => .chk | .bar _ => .bar | .tag _ => .tag | .spa _ => .spa | .wide _ => .wide

/-- Whether an operand is a mask: a k register or a mask-class register (R79, R173). -/
def isMaskOp : Operand → Bool
  | .k .. => true
  | .sr n => srMask n.toNat
  | _ => false

/-- Register number of an S or V operand. -/
def regOf : Operand → Nat
  | .s r _ _ => r.toNat
  | .v r _ _ => r.toNat
  | .k r _ => r.toNat
  | _ => 0

/-- Modifier bits of an S or V operand. -/
def modOf : Operand → Nat
  | .s _ _ m => m.toNat
  | .v _ _ m => m.toNat
  | _ => 0

/-- The E bit of an operand (R30). -/
def eOf : Operand → Bool
  | .s _ e _ => e
  | .v _ e _ => e
  | .k _ e => e
  | _ => false

/-- Whether the operand is a register pair (R32). -/
def isPair : Operand → Bool
  | .s _ _ m => m == 1
  | _ => false

/-- The value of an IMM operand, sign-extended (R29). -/
def immInt : Operand → Int
  | .imm i => i.toInt
  | .wide i => i.toInt
  | _ => 0

/-- A form is per-lane when D is V or a mask, or a source is V (R85, R244). AMAX and VTOS compute one value from
all members (R153, R179) and are told apart where it matters. -/
def perLane (x : Args) : Bool :=
  kindOf x.d == .v || kindOf x.a == .v || kindOf x.b == .v || isMaskOp x.d

/-- Check 3: SUB legal for the form (R45, R148). -/
def checkSub (o : Op) (x : Args) : Bool :=
  o.row.subs.contains x.sub.toNat && (o != .cvt || x.sub.toNat != tyCode x.ty)

/-- Check 4: T legal for the form and with this SUB (R45, R261). -/
def checkTy (o : Op) (x : Args) : Bool :=
  o.row.tys.contains x.ty &&
  (match o with
   | .lred | .scan => !(x.sub.toNat % 8 ≥ 3 && tFp.contains x.ty)
   | .krec => if x.sub == 0 || x.sub == 4 || x.sub == 5 then x.ty == .b64 else x.ty == .i64 || x.ty == .n64
   | .amo => x.ty != .f32 || modOf x.b % 16 == 0
   | .mdrn => !x.sub.getLsbD 2 || x.ty == .f32
   | _ => true)

/-- Check 5: RM legal for the form (R38). -/
def checkRm (o : Op) (x : Args) : Bool :=
  match o.row.rm with
  | .zero => x.rm == 0
  | .rnd => x.rm.toNat ≤ 6
  | .scope => x.rm.toNat ≤ 4
  | .scopeHome => x.rm == 3 || x.rm == 4

/-- Check 6: the guard (R35, R157, R330). -/
def checkGuard (o : Op) (x : Args) : Bool :=
  !(x.g == 0 && x.neg) && (!o.row.g0 || x.g == 0)

/-- Whether an operand's kind is accepted by a slot: a mask-class register stands only where K may (R79). A slot that
the form does not use fails here on WIDE and on a mask-class register; any other value in it fails check 8 (R33). -/
def kindFits (al : List Kind) (o : Operand) : Bool :=
  match al, o with
  | [], .wide _ => false
  | [], .sr n => !srMask n.toNat
  | [], _ => true
  | al, .sr n => if srMask n.toNat then al.contains .k else al.contains .sr
  | al, o => al.contains (kindOf o)

/-- `%lane` stands only as a source of a per-lane form (R79). -/
def laneFits (o : Op) (x : Args) : Bool :=
  let isLane (y : Operand) := y == .sr 0
  !isLane x.d && !((isLane x.a || isLane x.b) && (!perLane x || o == .srr || o == .srw)) &&
  !(isLane x.a && o.row.a == []) && !(isLane x.b && o.row.b == [])

/-- Kind rules of single forms that a table of kinds cannot say (R84, R85, R132, R153, R173, R241, R244, R304, R411, R436). -/
def kindRule (o : Op) (x : Args) : Bool :=
  let vsrc := kindOf x.a == .v || kindOf x.b == .v
  let sD := kindOf x.d == .s
  match o with
  | .kmov =>
    if isMaskOp x.d && isMaskOp x.a then x.b == .none
    else isMaskOp x.d != isMaskOp x.a && (kindOf x.b == .imm || kindOf x.b == .s)
  | .tlbi => if x.sub == 2 then x.a == .none && x.b == .none
    else if x.sub == 0 then kindOf x.a == .s else x.a == .none
  | .krec => if x.sub == 0 then kindOf x.b == .s else x.b == .none
  | .kvx => kindOf x.b == .k
  | .ld | .st =>
    !(kindOf x.b == .spa && x.sub.toNat % 4 != 1) && !(kindOf x.a == .v && x.sub.toNat % 4 != 0) &&
    !(o == .ld && sD && vsrc)
  | .lds | .ldp | .ldacc => !(sD && vsrc)
  | .amo | .cas => !(sD && vsrc && regOf x.d != 0)
  | .amax | .vote | .lred | .vtos => true
  | .cmp | .fcmp => !(sD && vsrc) && kindOf x.d != .sr
  | .add | .sub | .mul | .mulh | .mad | .div | .rem | .min | .max | .abs | .lea | .sel | .mov
  | .and | .or | .xor | .andn | .not | .shl | .shr | .sra | .rol | .clz | .ctz | .popc | .brev
  | .bfx | .bfi | .prmb | .fadd | .fsub | .fmul | .ffma | .fmin | .fmax | .fabs | .fneg | .fclass
  | .fdiv | .fsqrt | .frnd | .fscl | .frcp | .frsq | .fexp2 | .flog2 | .fsin | .fcos | .ftanh | .cvt =>
    !(sD && vsrc)
  | _ => true

/-- Check 7 on decoded fields: kinds permitted in their slots. A WIDE A leaves field B to the immediate (R34). -/
def checkKinds (o : Op) (x : Args) : Bool :=
  kindFits o.row.d x.d && kindFits o.row.a x.a &&
  (if kindOf x.a == .wide then x.b == .none else kindFits o.row.b x.b) && laneFits o x && kindRule o x

/-- The modifier bits of an operand in its role (R32, R241). -/
def roleFits (r : Role) (o : Operand) : Bool :=
  match kindOf o with
  | .s =>
    match r with
    | .plain => modOf o == 0
    | .base => true
    | .index => modOf o ≤ 4
    | .pair => modOf o == 0 || (modOf o == 1 && regOf o % 2 == 0 && regOf o ≥ 2)
    | .pairMust => modOf o == 1 && regOf o % 2 == 0 && regOf o ≥ 2
    | .atom => modOf o ≤ 6
  | .v =>
    match r with
    | .base => modOf o == 0 && regOf o % 2 == 0
    | .index => modOf o ≤ 4
    | .atom => modOf o ≤ 6
    | _ => modOf o == 0
  | _ => true

/-- The value range of an operand by its kind (R29, R77): scalar registers end at 127, barriers at 95. -/
def valueFits : Operand → Bool
  | .s r _ _ => r.toNat ≤ 127
  | .sr n => srAssigned n.toNat
  | .bar n => n.toNat ≤ 95
  | _ => true

/-- Whether a V operand that carries 64-bit values names an even register (R31). -/
def evenFits (t : Ty) (o : Operand) : Bool :=
  !(tyBits t == 64 && kindOf o == .v && regOf o % 2 == 1)

/-- The slots whose V operand carries a value of type T (R31, R148, R242). -/
def pairsEven (o : Op) (x : Args) : Bool :=
  match o with
  | .ld | .st | .lds | .sts | .ldp | .ldacc | .stacc => evenFits x.ty x.d
  | .amo | .cas | .redu => evenFits x.ty x.d && evenFits x.ty x.b
  | .cvt => evenFits x.ty x.d && (match tyOfCode x.sub.toNat with | some t => evenFits t x.a | none => true)
  | _ => evenFits x.ty x.d && evenFits x.ty x.a && evenFits x.ty x.b

/-- Value rules of single forms (R100, R150, R158, R175, R241, R261, R304, R343, R436, R467). -/
def valueRule (o : Op) (x : Args) : Bool :=
  match o with
  | .movh => match x.a with | .wide i => i.toNat < 2 ^ 32 | _ => true
  | .cvtp => (if x.sub == 0 then regOf x.a else regOf x.d) + packCount x.ty ≤ 256
  | .gtrn => regOf x.d ≤ 248
  | .loop => -63 ≤ immInt x.b && immInt x.b ≤ -1
  | .lds | .sts => !isPair x.d || x.ty == .b64
  | .cas => isPair x.d == isPair x.b && (!isPair x.d || x.ty == .b64)
  | .redu => modOf x.b ≤ 5
  | .kld => 1 ≤ regOf x.d && regOf x.d ≤ 125
  | .ksib => 1 ≤ regOf x.d && regOf x.d ≤ 126
  | .mclr => kindOf x.b != .imm || (1 ≤ immInt x.b && immInt x.b ≤ 16)
  | .binit => kindOf x.a != .imm || 0 ≤ immInt x.a
  | .bqry => kindOf x.b != .imm || (0 ≤ immInt x.b && immInt x.b ≤ 1)
  | .kvx => regOf x.d % 2 == 0 && regOf x.a ≤ 254
  | _ => true

/-- Check 8 on decoded fields (R29, R30, R31, R32, R33). B of KVX, which KVX writes and does not read, may carry E (log entry 85). -/
def checkValues (o : Op) (x : Args) : Bool :=
  (o.row.d != [] || x.d == .none) && (o.row.a != [] || x.a == .none) &&
  (o.row.b != [] || x.b == .none) &&
  !eOf x.d && valueFits x.d && valueFits x.a && valueFits x.b &&
  roleFits o.row.dr x.d && roleFits o.row.ar x.a && roleFits o.row.br x.b && pairsEven o x && valueRule o x

/-- The first of the checks 3 to 8 that decoded fields break (R43). -/
def checkArgs (o : Op) (x : Args) : Option Nat :=
  if !checkSub o x then some 3
  else if !checkTy o x then some 4
  else if !checkRm o x then some 5
  else if !checkGuard o x then some 6
  else if !checkKinds o x then some 7
  else if !checkValues o x then some 8
  else none

/-- The operand kinds of TLBI that depend on the mode (R411): GUEST, or HOST and above. -/
def tlbiKinds (mode : Mode) (x : Args) : Bool :=
  let guest := if mode == .guest then x.b == .none else kindOf x.b == .s || kindOf x.b == .imm
  match x.sub.toNat with
  | 0 => kindOf x.a == .s && guest
  | 1 => x.a == .none && guest
  | _ => x.a == .none && x.b == .none

/-- The first check an MBR breaks (R39): G from 1 to 12 and some offset not 0. -/
def checkMbr (x : MbrArgs) : Option Nat :=
  if x.g == 0 || x.g.toNat > 12 || (x.o0 == 0 && x.o1 == 0 && x.o2 == 0 && x.o3 == 0) then some 6 else none

end Sys2Proof.Machine
end

