-- ==== Sys2Proof/WellFormed.lean ====
section
/-! DEFINITION. When an instruction is well formed: its fields pass the decode checks of R43 that do not depend on
the core and mode that run it. -/
namespace Sys2Proof

/-- An instruction is well formed when checks 3 to 8 of R43 find nothing; a step of the hardware itself always is. -/
def Instr.wellFormed : Instr → Bool
  | .mbr x => Machine.checkMbr x == none
  | i =>
    match Machine.Instr.form? i with
    | some (o, x) => Machine.checkArgs o x == none
    | none => true

/-- Whether an instruction has an encoding: an instruction row does, a step of the hardware itself does not. -/
def Instr.encodable : Instr → Bool
  | .mbr _ => true
  | i => (Machine.Instr.form? i).isSome

end Sys2Proof
end

