-- ==== Sys2Proof/Decode.lean ====
section
/-! DEFINITION. The decoder of the 96-bit word (R26, R27, R29, R39, R43), total on any word and rejecting by the
number of the check, and the encoder written from the same layout. -/
namespace Sys2Proof

open Machine

/-- The raw fields of a word of format N or W (R27); for MBR the operand fields overlap its offsets (R39). -/
structure Fields where
  op : Nat
  sub : Nat
  g : Nat
  h : Nat
  t : Nat
  d : Nat
  a : Nat
  b : Nat
  rm : Nat
  top : Nat
  deriving DecidableEq, Repr

/-- Cut a word into its fields (R27). -/
def Fields.ofWord (w : Nat) : Fields :=
  ⟨bits w 0 10, bits w 10 4, bits w 14 5, bits w 19 8, bits w 27 5, bits w 32 20, bits w 52 20, bits w 72 20,
   bits w 92 3, bits w 95 1⟩

/-- Join fields into a word (R27). -/
def Fields.toWord (f : Fields) : Nat :=
  f.op + f.sub * 2 ^ 10 + f.g * 2 ^ 14 + f.h * 2 ^ 19 + f.t * 2 ^ 27 + f.d * 2 ^ 32 + f.a * 2 ^ 52 +
  f.b * 2 ^ 72 + f.rm * 2 ^ 92 + f.top * 2 ^ 95

/-- An operand field as data (R29). A reserved kind reads as `none` here, and `operandKindBad` reports it. -/
def operandOf (f : Nat) : Operand :=
  match bits f 16 4 with
  | 1 => .s (BitVec.ofNat 8 f) (bit f 15) (BitVec.ofNat 7 (bits f 8 7))
  | 2 => .v (BitVec.ofNat 8 f) (bit f 15) (BitVec.ofNat 7 (bits f 8 7))
  | 3 => .k (BitVec.ofNat 4 f) (bit f 15)
  | 4 => .sr (BitVec.ofNat 10 f)
  | 5 => .imm (BitVec.ofNat 16 f)
  | 6 => .acc (BitVec.ofNat 4 f)
  | 7 => .chk (BitVec.ofNat 5 f)
  | 8 => .bar (BitVec.ofNat 7 f)
  | 9 => .tag (BitVec.ofNat 6 f)
  | 10 => .spa (BitVec.ofNat 16 f)
  | _ => .none

/-- Kinds 0xB to 0xE are reserved, and WIDE stands only in A (R29, R34). -/
def operandKindBad (f : Nat) : Bool := 11 ≤ bits f 16 4

/-- Bits of an operand field that its kind wants 0 (R29), the E bit of every kind but S, V and K among them. -/
def operandRestBad (f : Nat) : Bool :=
  match bits f 16 4 with
  | 0 => bits f 0 16 != 0
  | 3 => bits f 4 11 != 0
  | 4 => bits f 10 6 != 0
  | 6 => bits f 4 12 != 0
  | 7 => bits f 5 11 != 0
  | 8 => bits f 7 9 != 0
  | 9 => bits f 6 10 != 0
  | _ => false

/-- The operand field of an operand (R29); of a WIDE operand, the A field (R34). -/
def fieldOf : Operand → Nat
  | .none => 0
  | .s r e m => 1 * 2 ^ 16 + b2n e * 2 ^ 15 + m.toNat * 2 ^ 8 + r.toNat
  | .v r e m => 2 * 2 ^ 16 + b2n e * 2 ^ 15 + m.toNat * 2 ^ 8 + r.toNat
  | .k r e => 3 * 2 ^ 16 + b2n e * 2 ^ 15 + r.toNat
  | .sr n => 4 * 2 ^ 16 + n.toNat
  | .imm i => 5 * 2 ^ 16 + i.toNat
  | .acc n => 6 * 2 ^ 16 + n.toNat
  | .chk n => 7 * 2 ^ 16 + n.toNat
  | .bar n => 8 * 2 ^ 16 + n.toNat
  | .tag n => 9 * 2 ^ 16 + n.toNat
  | .spa n => 10 * 2 ^ 16 + n.toNat
  | .wide i => 15 * 2 ^ 16 + i.toNat / 2 ^ 20

/-- Whether field A is WIDE (R29, R34). -/
def Fields.isWide (f : Fields) : Bool := bits f.a 16 4 == 15

/-- The decoded fields of a word of format N or W; a reserved type code reads as `none` (R27, R34). -/
def Fields.args (f : Fields) : Args where
  sub := BitVec.ofNat 4 f.sub
  g := BitVec.ofNat 4 f.g
  neg := bit f.g 4
  h := BitVec.ofNat 8 f.h
  ty := (tyOfCode f.t).getD .none
  d := operandOf f.d
  a := if f.isWide then .wide (BitVec.ofNat 36 (bits f.a 0 16 * 2 ^ 20 + f.b)) else operandOf f.a
  b := if f.isWide then .none else operandOf f.b
  rm := BitVec.ofNat 3 f.rm

/-- The first of the checks 1 to 8 that a word of format N or W breaks (R43), in their order. -/
def Fields.check (f : Fields) (o : Op) : Option Nat :=
  let c := checkArgs o f.args
  if f.top != 0 then some 1
  else if c == some 3 then some 3
  else if (tyOfCode f.t).isNone then some 4
  else if c == some 4 || c == some 5 || c == some 6 then c
  else if operandKindBad f.d || (!f.isWide && (operandKindBad f.a || operandKindBad f.b)) then some 7
  else if c == some 7 then some 7
  else if operandRestBad f.d || (!f.isWide && (operandRestBad f.a || operandRestBad f.b)) then some 8
  else c

/-- The fields of an MBR word (R39). -/
def mbrOf (w : Nat) : MbrArgs :=
  ⟨BitVec.ofNat 4 (bits w 14 4), BitVec.ofNat 8 (bits w 19 8), BitVec.ofNat 16 (bits w 32 16),
   BitVec.ofNat 16 (bits w 48 16), BitVec.ofNat 16 (bits w 64 16), BitVec.ofNat 16 (bits w 80 16)⟩

/-- The decoder: the instruction of a 96-bit word, or the number of the first check of R43 that it breaks. -/
def decodeWord (w : Nat) : Except Nat Instr :=
  let f := Fields.ofWord w
  if f.op == 0x144 then
    if f.sub != 0 then .error 3
    else if f.t != 0x1F then .error 4
    else if f.g ≥ 16 then .error 6
    else match checkMbr (mbrOf w) with
      | some c => .error c
      | none => .ok (.mbr (mbrOf w))
  else if f.top != 0 then .error 1
  else match Op.ofCode f.op f.sub with
    | none => .error 2
    | some o =>
      match f.check o with
      | some c => .error c
      | none => .ok (Machine.Instr.ofArgs o f.args)

/-- The decoder on bytes: twelve bytes give an instruction and the rest; fewer are no instruction (R26). -/
def decode (bs : List Byte) : Except Nat (Instr × List Byte) :=
  if bs.length < 12 then .error 0
  else (decodeWord (ofBytes (bs.take 12))).map (fun i => (i, bs.drop 12))

/-- The fields of an instruction of format N or W (R27, R34). -/
def fieldsOfArgs (o : Op) (x : Args) : Fields :=
  ⟨o.row.opc, x.sub.toNat, b2n x.neg * 16 + x.g.toNat, x.h.toNat, tyCode x.ty, fieldOf x.d, fieldOf x.a,
   (match x.a with | .wide i => i.toNat % 2 ^ 20 | _ => fieldOf x.b), x.rm.toNat, 0⟩

/-- The word of an MBR (R39). -/
def mbrWord (x : MbrArgs) : Nat :=
  0x144 + x.g.toNat * 2 ^ 14 + x.h.toNat * 2 ^ 19 + 0x1F * 2 ^ 27 + x.o0.toNat * 2 ^ 32 + x.o1.toNat * 2 ^ 48 +
  x.o2.toNat * 2 ^ 64 + x.o3.toNat * 2 ^ 80

/-- The encoder: the 96-bit word of an instruction; a step of the hardware itself has none. -/
def encode : Instr → Option Nat
  | .mbr x => some (mbrWord x)
  | i => (Machine.Instr.form? i).map (fun p => (fieldsOfArgs p.1 p.2).toWord)

/-- The instruction this decoder reads from an instruction whose bits are w, every bit at or above nbits 0. -/
def decodeTableWord (nbits w : Nat) : Option Instr :=
  match decode (toBytes 12 (w % 2 ^ nbits)) with
  | .ok (i, _) => some i
  | .error _ => none

end Sys2Proof
end

