-- ==== Sys2Proof/Config.lean ====
section
/-! DEFINITION. What one part fixes and the spec does not state: free values without a body, so that no
statement can rest on one. Log entries 4, 6, 8, 9, 12, 13, 16 to 20, 52, 65, 66, 70, 76, 77 and 82 name them. -/
namespace Sys2Proof.Config

/-- Which of the enabled steps comes next, at tick t, when the schedule of the state is used up (log entry 4). -/
opaque choose : Nat → Nat

/-- How many cycles of the package timebase the step at tick t takes beyond one (R516; log entry 4). -/
opaque elapsed : Nat → Nat

/-- The vendor key fused in the part, a point of the curve (R490; log entry 6). -/
opaque vendorKey : Nat × Nat

/-- The identity key that the fused secret and a value of measurement register 0 give (R491; log entry 6). -/
opaque identityKey : BitVec 384 → Nat

/-- The nonce of the signature made at tick t (R491; log entry 6). -/
opaque signNonce : Nat → Nat

/-- Module power in milliwatts as the power controller samples it at tick t (R22; log entry 76). -/
opaque milliwatts : Nat → Nat

/-- The store block at which a checkpoint written at tick t begins (R492; log entry 52). -/
opaque ckptFirst : Nat → Nat

/-- The 64 bytes of a checkpoint's closing record, from the package, `%cycles`, the measurement and the digest, which together are longer
(R492; log entry 52). -/
opaque closingRecord : Nat → Nat → BitVec 384 → BitVec 384 → BitVec 512

/-- At every how many ticks, less one, the step that has waited longest comes next (R381; log entry 77). -/
opaque patience : Nat

/-- The serial number of the part (R491; log entry 6). -/
opaque serial : List Byte

/-- Whether the home package of a peer frame accepts the mapping notice sent at tick t (R424; log entry 8). -/
opaque peerAccepts : Nat → Bool

/-- Whether a read of a chuck fails its check at tick t (R346; log entry 9). -/
opaque chuckSoft : Nat → Nat → Bool

/-- Whether an accumulator cell read or written at tick t is uncorrectable (R346; log entry 9). -/
opaque accSoft : Nat → Nat → Nat → Bool

/-- Bytes of the firmware image digest order that a checkpoint closes with (R492; log entry 6). -/
opaque frameOrder : Nat → List Byte

/-- Whether a read that a home serves at tick t is corrected by its memory (R239; log entry 65). -/
opaque corrected : Nat → Bool

/-- Whether an operation that completes at tick t found the block of 128 operand elements at a scratchpad offset as it was before
a write that came while it was in flight (R288; log entry 70). -/
opaque operandOld : Nat → Nat → Bool

/-- How many single-bit errors of accumulator cells are corrected at tick t (R346; log entry 65). -/
opaque accCorrected : Nat → Nat

/-- The stamp at which the SYSTEM sequencer of another package stands at tick t (R285; log entry 66). -/
opaque remoteStamp : Nat → Nat

/-- The bytes that another package which holds a line in M writes back when a home recalls it at tick t, by address (R459; log
entry 82). -/
opaque peerByte : Nat → Nat → Byte

/-- What a read of an MMIO register gives at tick t where no rule states a value: below the mode that its Access
entry names, or of a register that is only written (log entry 12). -/
opaque openRead : Nat → Nat

/-- A byte, by tick and address, that a fetch or a refill of the split stack finds uncorrectable or is refused by its home (R72, R517;
log entry 88). -/
opaque openByte : Nat → Nat → Byte

/-- The generation that a newly allocated extended record starts from at tick t (R301; log entry 13). -/
opaque openGen : Nat → Nat

/-- The unit, with its CHK bit above it, that MATRIX-STATE reason 8 names at tick t (R347; log entry 16). -/
opaque openUnit : Nat → Nat

/-- Whether a command to a drive of the PARK store fails at tick t (R488; log entry 17). -/
opaque storeFails : Nat → Bool

/-- What another package's home answers to a PGCNT at tick t (R474; log entry 18). -/
opaque peerReport : Nat → Nat

/-- Which of the calendars that R16 lets a flit go on to takes one that arrives on a link at tick t, with its pseudo-channel
(R16, R240, R489; log entry 19). -/
opaque nextStage : Nat → Nat → Nat

/-- Whether a launch had work on an HBM stack that failed at tick t (R214; log entry 20). -/
opaque hadWork : Nat → Nat → Bool

end Sys2Proof.Config
end

