-- ==== Sys2Proof/Machine/State.lean ====
section
/-! DEFINITION. The state of one Ailith package as plain data: its teams and threads (R62, R78, R80), cores,
crews, caches, memory, engines, queues, tables that firmware owns, and the state after reset. Tables whose address a
register or a system-block word gives are bytes of `mem`. -/
namespace Sys2Proof.Machine

/-- The state of a register or lane (R68). `future` is EMPTY with a pending handle in the value bits (R388). -/
inductive RegSt where
  | full | empty | future | poison
  deriving DecidableEq, Repr

/-- A scalar register (R62, R68). -/
structure SReg where
  st : RegSt
  v : Word
  deriving DecidableEq, Repr

/-- One lane of a vector register (R62, R68). -/
structure VLane where
  st : RegSt
  v : Lane
  deriving DecidableEq, Repr

/-- A predicate register (R62, R68). -/
structure KReg where
  empty : Bool
  v : Mask
  deriving DecidableEq, Repr

/-- What an unwritten scalar register reads as: FULL, 0 (R65). -/
def SReg.zero : SReg := ⟨.full, 0⟩
/-- What an unwritten lane reads as: FULL, 0 (R65). -/
def VLane.zero : VLane := ⟨.full, 0⟩
/-- What an unwritten predicate register reads as: FULL, 0 (R65). -/
def KReg.zero : KReg := ⟨false, 0⟩

/-- A split-stack entry (R161): a PATH entry when `path`, otherwise a RECONV entry. -/
structure SEntry where
  path : Bool
  pc : Word
  mask : Mask
  deriving DecidableEq, Repr

/-- A store-buffer entry (R205, R248): a line of the virtual address space, its written bytes by offset, whether
each is from a POISON lane (R74), and for a strong entry its order and scope. `priv` marks a PRIVATE store, `io` one to
selector 0xE (R234), `nol1` one with the hint NOL1 and `stream` one with STREAM (R249); `mode` is the mode it was made in and `id`
its place in the team's program order. -/
structure SbEntry where
  line : Nat
  priv : Bool
  strong : Bool
  order : Nat
  scope : Nat
  bytes : List (Nat × Byte)
  poison : List Nat
  mode : Mode
  io : Bool
  nol1 : Bool
  stream : Bool
  id : Nat
  deriving DecidableEq, Repr

/-- Why a team does not issue (R373). A wait on barrier `b` ends with a flip of its phase; `past` tells a BARW, whose
arrival has been made, from a BWAIT (R469). A wait for operands names the pending handles in the registers that the held
instruction reads (R402); `store` waits for room in the store buffer (R248). -/
inductive Wait where
  | none
  | operands
  | future (handles : List Word)
  | awaitOp (handle : Word)
  | tags (mask : Nat)
  | barrier (b : Nat) (past : Bool)
  | acq
  | refill
  | store
  | form
  deriving DecidableEq, Repr

/-- Instructions a pipe's loop buffer holds, by address, as fetched (R170). -/
structure LoopBody where
  launch : Nat
  words : List (Nat × Nat)
  deriving DecidableEq, Repr

/-- What placement gives a team: its place and the registers of R78 reset by `launch`. -/
structure Place where
  team : Nat
  crew : Nat
  crewx : Nat
  crewy : Nat
  crewz : Nat
  core : Nat
  width : Nat
  params : Word
  rcb : Word
  save : Word
  wake : Word
  sslimit : Nat
  pbase : Nat
  priv : Nat
  codeStart : Nat
  codeLen : Nat
  preemptAt : Nat
  crewKey : Nat
  launch : Nat
  sAllot : Nat
  vAllot : Nat
  acqDone : Bool
  deriving DecidableEq, Repr

/-- The trap registers (R78, R187). -/
structure TrapRegs where
  tcause : BitVec 8
  tpc : Word
  taddr : Word
  tinfo : Word
  tmask : Mask
  tvec : Word
  tstatus : Word
  deriving DecidableEq, Repr

/-- The supervisor registers (R80). -/
structure SupRegs where
  gtvec : Word
  gdeleg : BitVec 32
  gepc : Word
  gscratch : Word
  s1ptb : Word
  htvec : Word
  hdeleg : BitVec 32
  hepc : Word
  hscratch : Word
  s2ptb : Word
  fwtvec : Word
  fwscratch : Word
  deriving DecidableEq, Repr

/-- What the issue logic keeps beside a team (R172, R190, R192, R199, R201, R373). `hold` names the POOL page whose
ownership an access waits for, with 2^60 added once the wait has ended without a GRANT (R429). `demote` holds the
group of a CAS or LDP whose reply may demote the path, and `arrived` whether one of its lanes succeeded (R167). -/
structure Sched where
  wait : Wait
  waitTick : Nat
  lastIssue : Nat
  yielded : Bool
  preempt : Option Bool
  wfi : Bool
  halted : Bool
  stopped : Bool
  inReset : Bool
  exited : Bool
  body : Option LoopBody
  arrived : Option Bool
  hold : Option Nat
  demote : Option (List Nat)
  deriving DecidableEq, Repr

/-- A compute team, a host-die thread, a service core or the security processor. `stack` holds the uppermost
split-stack entries, top first, and `spilled` counts those below them in PRIVATE memory (R162). `amax`, `prefetch` and
`fetched` serve a thread that runs no crew (R475; log entry 11). -/
structure Hart where
  pc : Word
  s : Sparse SReg
  v : Sparse (Sparse VLane)
  k : Sparse KReg
  exec : Mask
  live : Mask
  stack : List SEntry
  spilled : Nat
  sb : List SbEntry
  uasc : Nat
  ctx : Nat
  mode : Mode
  guest : Nat
  fpm : BitVec 7
  fflags : BitVec 5
  place : Place
  trap : TrapRegs
  sup : SupRegs
  sched : Sched
  amax : Sparse Lane
  prefetch : Sparse Word
  fetched : List Nat
  deriving DecidableEq, Repr

/-- A byte in a scoped cache (R228), with the guest whose store made it, which its write-back carries (R449). -/
structure CByte where
  b : Byte
  dirty : Bool
  guest : Nat
  deriving DecidableEq, Repr

/-- An L1 or cluster cache (R227, R228): its bytes by physical address, the 32-byte sectors it holds a mark of
uncorrectable data for (R74), and the lines that STREAM brought in (R249). -/
structure Cache where
  bytes : Sparse (Option CByte)
  marks : List Nat
  low : List Nat
  deriving DecidableEq, Repr

/-- A line that a cache of a coherent agent holds, and whether it holds it modified (R227, R452). -/
structure CohLine where
  line : Nat
  dirty : Bool
  deriving DecidableEq, Repr

/-- A cached translation with the effective values of R408 and the keys of R410. `size` is the page size in
bytes; `frame` its first physical address, or for an interleaved page the address of the descriptor. -/
structure Trans where
  guest : Nat
  asid : Option Nat
  va : Nat
  gpa : Nat
  size : Nat
  frame : Nat
  r : Bool
  w : Bool
  x : Bool
  usr : Bool
  d : Bool
  upin1 : Bool
  upin2 : Bool
  pcls : Nat
  taff : Nat
  taff1 : Nat
  ntfy : Bool
  nc : Bool
  ru : Bool
  shr : Bool
  r1 : Bool
  w1 : Bool
  x1 : Bool
  inter : List (Nat × Nat)
  stage2 : Bool
  gsize : Nat
  leaf : Nat
  leaf1 : Nat
  deriving DecidableEq, Repr

/-- A performance counter with its configuration (R475). -/
structure Pmc where
  cfg : Word
  count : Word
  owner : Nat
  deriving DecidableEq, Repr

/-- What one core holds besides its teams. -/
structure Core where
  lamport : Word
  l1 : Cache
  icache : Sparse (Option Byte)
  loops : Sparse (Option LoopBody)
  pmc : Sparse Pmc
  fenced : Bool
  acqs : List Nat
  deriving DecidableEq, Repr


/-- An ACC128 cell: a 128-bit two's-complement X in units of 2^-64 and a tag (R117). -/
structure Cell where
  x : BitVec 128
  tag : BitVec 2
  deriving DecidableEq, Repr

/-- The row state of one row of a tile (R350); its reserved word reads 0 (R8). -/
structure RowState where
  m : Lane
  l : Lane
  c : Lane
  deriving DecidableEq, Repr

/-- A cleared cell (R226). -/
def Cell.zero : Cell := ⟨0, 0⟩
/-- The row state at placement (R350). -/
def RowState.init : RowState := ⟨0xFF800000, 0, 0x3F800000⟩

/-- An accumulator tile of a crew (R226, R327) with the shadow that a redundant chain linked to it (R333, R345). -/
structure Tile where
  cells : Sparse Cell
  rows : Sparse RowState
  shadow : Option Nat
  deriving DecidableEq, Repr

/-- A chuck (R321). -/
structure Chuck where
  cells : Sparse (BitVec 12)
  state : BitVec 2
  fmt : BitVec 4
  nancol : BitVec 128
  exps : Sparse (BitVec 12)
  deriving DecidableEq, Repr

/-- The fields of a kernel header that the launch unit holds (R57, R59). -/
structure Kernel where
  base : Nat
  width : Nat
  crew : Nat
  psreg : Nat
  fsreg : Nat
  pvreg : Nat
  fvreg : Nat
  scratch : Nat
  acc : Nat
  chucks : Nat
  barriers : Nat
  tags : Nat
  priv : Nat
  codeLen : Nat
  entry : Nat
  preempt : Nat
  resume : Nat
  paramSz : Nat
  deriving DecidableEq, Repr

/-- A format block as MCB read it (R328). -/
structure FmtBlock where
  afmt : Nat
  aplanes : Nat
  bfmt : Nat
  block : Nat
  kclg : Nat
  red : Bool
  ascale : Nat
  bscale : Nat
  deriving DecidableEq, Repr

/-- A queued MMA (R334): its number in the chain, the offset of A, TRANSA, and the scratchpad as its team's operand fence left
it (R288, R344). -/
structure QMma where
  m : Nat
  off : Nat
  transposed : Bool
  seen : Sparse Byte
  deriving DecidableEq, Repr

/-- A matrix chain (R333 to R335): its tile, format, barrier, number of MMAs issued, the MMAs still queued, and its status word
with FIRST (R336). -/
structure Chain where
  tile : Nat
  fmt : FmtBlock
  bar : Nat
  m : Nat
  queue : List QMma
  status : Nat
  closed : Bool
  deriving DecidableEq, Repr

/-- A copy command as its engine holds it (R385, R388). -/
structure CopyCmd where
  kind : Nat
  src : Nat
  dst : Nat
  xn : Nat
  yn : Nat
  zn : Nat
  sys : Int
  szs : Int
  dys : Int
  dzs : Int
  esz : Nat
  ssp : Bool
  dsp : Bool
  scope : Nat
  conv : Nat
  crnd : Nat
  sat8 : Bool
  idx : Nat
  bad : Bool
  deriving DecidableEq, Repr

/-- The control block of an MSMX as it was read (R351). -/
structure MsmxBlock where
  pdst : Nat
  pfmt : Nat
  otile : Nat
  ncol : Nat
  sscale : Lane
  prow : Nat
  sctab : Nat
  score : Bool
  deriving DecidableEq, Repr

/-- What an uncompleted asynchronous operation does (R331, R338, R352, R356, R387). -/
inductive AKind where
  | copy (engine : Nat) (c : CopyCmd)
  | chuckLoad (chuck : Nat) (src : Nat) (ty : Ty) (transposed : Bool) (seen : Sparse Byte)
  | drain (tile : Nat) (ty : Ty) (transposed clear addst amax : Bool) (rnd : Nat) (fpm : BitVec 7) (dst ctl : Nat)
  | msmx (tile bar : Nat) (blk : MsmxBlock)
  | mscl (tile bar : Nat)
  | finished (kind : Nat)
  deriving DecidableEq, Repr

/-- An uncompleted asynchronous operation: its handle and the register that holds it (R391, R393), its crew and
tag, the translation and scope it works under, the Lamport clock of its issue, the first number given after its issue
(what came before is waited for, R286), whether it is cancelled, whether its failure goes unreported (R403), its status
once its work is done with the address of a failure; `hold` as in `Sched`. -/
structure AOp where
  id : Nat
  kind : AKind
  handle : Word
  hart : Nat
  dreg : Option Nat
  crew : Nat
  core : Nat
  guest : Nat
  mode : Mode
  s1ptb : Nat
  s2ptb : Nat
  tag : Option Nat
  scope : Nat
  clock : Nat
  before : Nat
  cancelled : Bool
  silent : Bool
  status : Option Nat
  addr : Nat
  hold : Option Nat
  deriving DecidableEq, Repr

/-- A crew that is placed, or draining after its last team exited (R370, R403). Ranges are core numbers of the
first unit granted; `reserved` counts the vector units reserved on each pipe by an ACQ (R371, R372); `fetched` lists the sectors a PREF
brought in that no demand access has hit yet (R475); `tagSeen` holds, by tag, 1 more than the widest scope of the
operations that completed under it since its bit was last cleared (R398); `operands` is, by team, the scratchpad as it was at
the team's latest MORF or MCB (R344). -/
structure Crew where
  key : Nat
  launch : Nat
  index : Nat
  core : Nat
  p0 : Nat
  kernel : Kernel
  guest : Nat
  harts : List Nat
  tileBase : Nat
  chuckBase : Nat
  barBase : Nat
  tagBase : Nat
  scratchBase : Nat
  unreserved : Bool
  draining : Bool
  discarded : Bool
  preemptTaken : Bool
  parkTaken : Bool
  raised : Option Nat
  placedAt : Nat
  saveFlag : Bool
  scratch : Sparse Byte
  smarks : List Nat
  amax : Sparse Lane
  tagmap : Word
  tagCount : Sparse Nat
  tagSeen : Sparse Nat
  tiles : Sparse Tile
  chucks : Sparse Chuck
  chains : List Chain
  operands : Sparse (Sparse Byte)
  mlink : Nat
  prefetch : Sparse Word
  fetched : List Nat
  lineage : List Nat
  deriving DecidableEq, Repr

/-- The effective values of a region control block held for a launch (R363, R364). -/
structure Eff where
  prio : Nat
  weight : Nat
  cores : Nat
  accb : Nat
  chkb : Nat
  barb : Nat
  tagb : Nat
  vub : Nat
  scrb : Nat
  fdom : Nat
  frq : Nat
  frqlg : Nat
  save : Nat
  savestr : Nat
  ladder : Nat
  wakew : Nat
  seq : Nat
  seqv : Bool
  parena : Nat
  sslimit : Nat
  guest : Nat
  retire : Bool
  path : List Nat
  budgets : List (List Nat)
  deriving DecidableEq, Repr

/-- A fault record's fields (R401). -/
structure FaultRec where
  cause : Nat
  hv : Bool
  restart : Bool
  fdom : Nat
  team : Nat
  crew : Nat
  hpc : Nat
  addr : Nat
  deriving DecidableEq, Repr

/-- A launch from its start to its completion (R361, R367, R379). `saved` lists its saved crews, each with 0 for a plain
pre-emption, 1 for a park and 2 once woken; `wakes` is the value that `%wake` reads by crew (R78, R378). `since` is the cycle of its start, from which the crews of its grid wait (R374); `s1ptb`, `s2ptb` and `die` are those of the crew saved last
(R431, R447). `clock`, `exits` and `endClock` are the Lamport clocks that its LNCH, the exits of its saved crews and its
completion carry (R280, R283); `sinces` is, for a saved crew, the cycle from which it waits for admission (R374). -/
structure Launch where
  id : Nat
  queue : Nat
  number : Nat
  kobj : Nat
  params : Nat
  rcb : Nat
  rcbPa : Nat
  gx : Nat
  gy : Nat
  gz : Nat
  restart : Bool
  gmode : Bool
  bad : Bool
  depFailed : Bool
  guest : Nat
  eff : Option Eff
  kernel : Option Kernel
  patches : List (Nat × Nat × Int)
  next : Nat
  saved : List (Nat × Nat)
  retired : Nat
  first : Bool
  wakes : Sparse Word
  since : Nat
  ended : Bool
  handle : Nat
  s1ptb : Nat
  s2ptb : Nat
  die : Nat
  clock : Nat
  endClock : Nat
  exits : Sparse Nat
  sinces : Sparse Nat
  deriving DecidableEq, Repr

/-- A launch record from its LNCH until its future completes: the number that its launch takes when it starts, its
handle, the register that waits for it, and the Lamport clock of its issuer (R366). -/
structure LaunchWait where
  id : Nat
  queue : Nat
  number : Nat
  handle : Nat
  hart : Nat
  dreg : Option Nat
  cancelled : Bool
  clock : Nat
  deriving DecidableEq, Repr

/-- What a completion window records of an operation (R393): its guest, the scope and Lamport clock that its completion
carries (R280, R283), and its status once complete. -/
structure WinRec where
  guest : Nat
  scope : Nat
  clock : Nat
  status : Option Nat
  deriving DecidableEq, Repr

/-- The numbers an issuing agent has given and what it has recorded for each (R393). -/
structure Window where
  cur : Nat
  recs : Sparse (Option WinRec)
  deriving DecidableEq, Repr

/-- One piece of a vector load: the bytes that fill one lane of one register. A byte is taken from `fwd` when the
store buffer supplied it (R246), otherwise from its address. -/
structure Piece where
  reg : Nat
  lane : Nat
  bytes : List (Nat × Option Byte)
  signed : Bool
  deriving DecidableEq, Repr

/-- A sector that a load waits for (R72): its address in units of 32 bytes and as a virtual one, whether it lies in scratchpad, whether the
lanes' page bypasses the scoped caches or is read at the home (R230), and the pieces it fills. -/
structure Sector where
  addr : Nat
  va : Nat
  scratch : Bool
  bypass : Bool
  home : Bool
  pieces : List Piece
  deriving DecidableEq, Repr

/-- An outstanding weak load (R69, R72): its sectors not yet returned, and the (register, lane) pairs it fills and
those found to be uncorrectable. A scalar load fills its S register by a reply, from its pieces in order. One that fills nothing is a
prefetch (R255). -/
structure Load where
  id : Nat
  hart : Nat
  guest : Nat
  mode : Mode
  scalar : Bool
  nol1 : Bool
  stream : Bool
  sectors : List Sector
  poisoned : List (Nat × Nat)
  fills : List (Nat × Nat)
  deriving DecidableEq, Repr

/-- What a home, cache level or device does for a request (R250, R262, R263, R304, R413). -/
inductive ReqKind where
  | load
  | store (data : List (Nat × Byte)) (marks : List Nat)
  | amo (op : Nat) (ty : Ty) (b : Nat)
  | cas (expect new : Nat)
  | ldp (expect : Nat)
  | redu (op : Nat) (ty : Ty) (b : Nat)
  | kld
  | ksib (i : Nat)
  | kst (info v ctx : Word)
  | krec (sub : Nat) (ty : Ty) (info v ctx : Word)
  deriving DecidableEq, Repr

/-- A request of a team that waits at the point that performs it (R250, R277): `level` is 0 L1, 1 cluster cache,
2 coherent level, 3 home or device; a weak scalar load carries `load` at level 0. `parked` marks an LDP that its level
holds and `released` one that a write to its line ended (R254); `keep` a page of class KEEPING; `weak` a store of ST, which
carries no Lamport clock (R283). `lane` is the lane it serves, `reg` the register its reply fills, or none when the
reply is dropped; `tag` is the context tag its acknowledgement counts for. -/
structure Req where
  id : Nat
  hart : Nat
  core : Nat
  crew : Nat
  guest : Nat
  mode : Mode
  tag : Nat
  level : Nat
  pa : Nat
  va : Nat
  size : Nat
  kind : ReqKind
  lane : Option Nat
  reg : Option Nat
  order : Nat
  scope : Nat
  ty : Ty
  clock : Nat
  since : Nat
  ru : Bool
  group : Nat
  parked : Bool
  released : Bool
  keep : Bool
  weak : Bool
  deriving DecidableEq, Repr

/-- What a reply brings to a register (R69): the register or lane pair, the value, whether it is uncorrectable. `special` marks the
result of a long-latency computation, which sets flags (R127). -/
structure Reply where
  id : Nat
  hart : Nat
  regs : List (Bool × Nat × Nat × Word × Bool)
  flags : BitVec 5
  stamp : Nat
  order : Nat
  scope : Nat
  counts : Option Nat
  group : Nat
  ok : Bool
  dem : Bool
  special : Bool
  tile : Option Nat
  deriving DecidableEq, Repr

/-- An acknowledgement on its way to the holder of a context tag (R248, R206), with the order and scope of a strong
store. `dem` is the hart, the group and the success of a CAS whose reply is dropped (R167). -/
structure Ack where
  id : Nat
  tag : Nat
  core : Nat
  stamp : Nat
  line : Nat
  order : Nat
  scope : Nat
  dem : Option (Nat × Nat × Bool)
  deriving DecidableEq, Repr

/-- A context tag that SVSB bound to a record (R206): the record's physical address by 8-byte word. -/
structure Bound where
  tag : Nat
  recVa : Nat
  recPa : Nat
  crew : Nat
  launch : Nat
  index : Nat
  team : Nat
  deriving DecidableEq, Repr

/-- A partial of a commutative update that an agent keeps for an element: its op and type with its value (R267). -/
structure Partial where
  agent : Nat
  pa : Nat
  size : Nat
  op : Nat
  ty : Ty
  value : Nat
  deriving DecidableEq, Repr

/-- A directory entry (R450); `state` is 0 I, 1 S, 2 E, 3 M, 4 U. -/
structure DirEntry where
  state : Nat
  size : Nat
  hold : List Nat
  owner : Nat
  guest : Nat
  base : Nat
  last : Nat
  deriving DecidableEq, Repr

/-- A peer entry (R458); `state` is 0 I, 1 S, 2 M. -/
structure PeerEntry where
  mask : List Nat
  state : Nat
  owner : Nat
  base : Nat
  deriving DecidableEq, Repr

/-- A home agent (R426, R449, R456, R462). -/
structure HomeSt where
  dir : List DirEntry
  peers : List PeerEntry
  mquiet : Nat
  merge : Bool
  plog : Nat
  plogPos : Nat
  rejections : Word
  mrate : Nat
  period : Nat
  started : Nat
  failed : Bool
  deriving DecidableEq, Repr

/-- A placement record of one frame (R412). `kept` says that firmware has given the frame its region and region page. -/
structure FrameRec where
  pin : Nat
  mstate : Nat
  nsent : Bool
  guest : Nat
  pguest : Nat
  hintv : Nat
  ntfy : Bool
  multi : Bool
  peer : Bool
  region : Nat
  rpage : Nat
  kept : Bool
  rd : Nat
  wr : Nat
  base : Nat
  gpn : Nat
  ptea : Nat
  deriving DecidableEq, Repr

/-- The record of a frame that nothing has touched (R412). -/
def FrameRec.zero : FrameRec := ⟨0, 0, false, 0, 0, 0, false, false, false, 0, 0, false, 0, 0, 0, 0, 0⟩

/-- Where a migration stands (R419). -/
inductive MState where
  | queued | moving | shootdown | aborting
  deriving DecidableEq, Repr

/-- A command in the migration command queue (R417): the 64 bytes as a number, and the handle it completes. `clock` is the Lamport
clock of its issue, and `before` the first number given after it: what its issuer did before is performed first (R279, R280). -/
structure MigCmd where
  cmd : Nat
  handle : Word
  hart : Option Nat
  dreg : Option Nat
  taff1 : Nat
  block : Option Nat
  walk : Option Nat
  clock : Nat
  before : Nat
  deriving DecidableEq, Repr

/-- A migration from its checks to its end (R419 to R421). `frames` counts 4 KiB frames and `src` and `dest` number the
first ones; `leaf` is the address of the leaf that maps them, `held` the stalled-write window as numbers of requests, and
`notices` the mapping notices of packages that wait for their reply (R424). -/
structure Mig where
  id : Nat
  cmd : MigCmd
  tier : Nat
  guest : Nat
  frames : Nat
  src : Nat
  dest : Nat
  leaf : Nat
  cursor : Nat
  st : MState
  held : List Nat
  status : Nat
  notices : List (Nat × Nat)
  deriving DecidableEq, Repr

/-- The metadata of a keeping cell (R300); the vector is kept as its context word. `bad` marks a record whose sector is
uncorrectable (R310). -/
structure CellRec where
  vec : Word
  count : Nat
  ovf : Bool
  esc : Bool
  dot0 : Nat
  sibrec : Nat
  bad : Bool
  deriving DecidableEq, Repr

/-- The record of a cell no keeping write has touched (R300). -/
def CellRec.init : CellRec := ⟨0, 1, false, false, 0, 0, false⟩

/-- An update record of an outbound queue, with its slot, the members it has not been sent to, those still to
acknowledge it and the cycle it was appended (R313, R315, R317). -/
structure OutRec where
  upd : Update
  slot : Nat
  unsent : List Nat
  unacked : List Nat
  since : Nat
  deriving DecidableEq, Repr

/-- A record of a hold queue (R316): a plain store of one cell, with whether its data is uncorrectable (R74), or an
incoming update. -/
inductive Held where
  | store (region cell : Nat) (value : Word) (poison : Bool)
  | update (u : Update)
  deriving DecidableEq, Repr

/-- A block of a sequence that is queued to move or moving (R445, R447): whether its promotion is meant, its target tier
and die, the pages still to be sent to the migration engine and the number under way, whether a page was refused, whether
the move has started, whether it belongs to stage 1, and whether PARK is to be cleared (R443). -/
structure BlockMove where
  id : Nat
  cont : Nat
  block : Nat
  up : Bool
  tier : Nat
  die : Nat
  pages : List Nat
  moving : Nat
  failed : Bool
  started : Bool
  stage1 : Bool
  clearPark : Bool
  deriving DecidableEq, Repr

/-- The tag record of a KV block in the PARK store (R435), with the translation and table by which its entry is
found, and the store blocks that hold its pages. -/
structure StoreTag where
  guest : Nat
  seq : Nat
  block : Nat
  off : Nat
  pages : Nat
  s1ptb : Nat
  s2ptb : Nat
  desc : Nat
  blocks : List Nat
  deriving DecidableEq, Repr

/-- A continuation the hub works on (R442, R443): the sequence, what the hub holds of its descriptor, and the
translation and ladder of the crew that parked. `pstate` is 0 for work on a sequence that is ACTIVE, `die` is 2 where no
die is meant (R437), and `tried` lists the blocks that stage 1 takes. -/
structure Cont where
  id : Nat
  launch : Nat
  guest : Nat
  s1ptb : Nat
  s2ptb : Nat
  desc : Nat
  seq : Nat
  btab : Nat
  nblk : Nat
  s1 : Nat
  arena : Nat
  rowb : Nat
  die : Nat
  ladder : Nat
  rung : Nat
  rungAt : Nat
  pstate : Nat
  tried : List Nat
  deriving DecidableEq, Repr

/-- What a KVX has decided of a lane (R437). -/
inductive KvxRes where
  | waits
  | recorded
  | addr (a : Nat)
  | poison
  deriving DecidableEq, Repr

/-- A member lane of a KVX: the virtual address of its entry, the row part's address less the block's offset, and the
values its register pair held at issue. -/
structure KvxLane where
  lane : Nat
  entry : Nat
  part : Nat
  old0 : VLane
  old1 : VLane
  res : KvxRes
  deriving DecidableEq, Repr

/-- A KVX that has issued and not completed (R436, R437): its destination pair, its replay register, its lanes, and the
stamp its reads returned. -/
structure KvxOp where
  id : Nat
  hart : Nat
  guest : Nat
  mode : Mode
  d : Nat
  k : Nat
  stamp : Nat
  lanes : List KvxLane
  deriving DecidableEq, Repr

/-- A promotion that walks of a park entry wait for (R425): the leaf, the status it ended with when that was a failure, and the
harts whose accesses wait for it. -/
structure Promo where
  leaf : Nat
  status : Option Nat
  waits : List Nat
  deriving DecidableEq, Repr

/-- A request for a POOL page that waits for its owner, or that this package has sent (R429). -/
structure OwnReq where
  page : Nat
  dest : Nat
  at_ : Nat
  waited : Bool
  deriving DecidableEq, Repr

/-- A change of an ownership word that this package has sent to the metadata package and that has not been answered: what it found
there and what it writes (R487). -/
structure OwnChange where
  page : Nat
  old : Nat
  new : Nat
  deriving DecidableEq, Repr

/-- A calendar (R380, R485) with the flits or commands ready at it, oldest first, each with its guest, the link whose receiving
queue it stands in and its pseudo-channel (R240). -/
structure Calendar where
  slot : Nat
  owners : List Nat
  ready : List (Nat × Nat × Nat)
  deriving DecidableEq, Repr

/-- A link direction or fabric port (R17, R489). `late` counts the flits that have come since HOLD was raised, which were on the wire
(R17, R18). -/
structure LinkSt where
  occupancy : Nat
  hold : Bool
  retries : Nat
  down : Bool
  late : Nat
  deriving DecidableEq, Repr

/-- The system block (R483). -/
structure SysBlock where
  lqt : Nat
  cwin : Nat
  rdt : Nat
  pdt : Nat
  poolmeta : Nat
  cal : Nat
  metapkg : Nat
  gct : Nat
  winpages : Nat
  deriving DecidableEq, Repr

/-- Where the boot and a checkpoint stand (R490, R492); `ckptAt` is the first block of the store that a checkpoint writes. -/
structure BootSt where
  step : Nat
  failure : Nat
  measurement : BitVec 384
  rollback : Nat
  ckpt : Nat
  ckptAt : Nat
  deriving DecidableEq, Repr

/-- What the package sends out or reports (R171, R313, R411, R429, R459, R480, R488, R491,
R492). -/
inductive Msg where
  | update (member : Nat) (u : Update)
  | updateAck (member region dot : Nat)
  | ownReq (page pkg : Nat)
  | wait (page pkg : Nat)
  | grant (page pkg : Nat)
  | redirect (page pkg owner : Nat)
  | ownerUpdate (page : Nat) (old new : Word)
  | ownerReply (page pkg : Nat) (word : Word)
  | mappingNotice (pkg pa frames : Nat)
  | mappingReply (pkg pa : Nat) (ok : Bool)
  | peerInvalidate (pkg pa : Nat) (recalled : Bool)
  | peerReply (pkg pa : Nat) (data : List Byte)
  | peerAccess (pkg pa : Nat)
  | countRequest (pkg pa guest : Nat)
  | sweep (region member : Nat)
  | sweepShare (region member : Nat) (share : SweepShare)
  | ras (event : Nat) (detail : Nat)
  | storeBlock (block pa : Nat)
  | attestation (reply : List Byte)
  | closingRecord (pkg cycles : Nat) (measurement digest : BitVec 384)
  | forwarded (link guest : Nat)
  | iflush
  | tlbi (sub a b guest : Nat) (low : Bool)
  deriving DecidableEq, Repr

/-- Which step comes next: an issue of the current hart, a step of the hardware itself, or none. -/
inductive Turn where
  | hart
  | event (e : Instr)
  | idle
  deriving DecidableEq, Repr

/-- Why the machine itself stops. -/
inductive Fault where
  /-- An access reached an MMIO address whose device the spec does not describe. Raised by the step that performs
  the access; safe, since nothing is claimed about what such a device does. -/
  | unknownDevice (pa : Nat)
  deriving DecidableEq, Repr

/-- Why a step has no meaning here. -/
inductive Refusal where
  /-- Raised by an arm of `exec` whose instruction has no meaning in this model; safe. -/
  | notModelled (mnemonic : String)
  deriving DecidableEq, Repr

/-- The memory system: bytes by host physical address, sectors marked uncorrectable (R74), the lines that the caches of the coherent
agents hold (R227), scoped caches of the clusters, translation caches by number, and what is on its way between teams and memory. -/
structure MemSys where
  cells : List Host.Cell
  marks : List Nat
  copies : Sparse (List CohLine)
  clusters : Sparse Cache
  tlbs : Sparse (List Trans)
  loads : List Load
  replies : List Reply
  reqs : List Req
  acks : List Ack
  bound : List Bound
  partials : List Partial
  stamps : Sparse Nat
  seqStamps : Sparse Nat
  homes : Sparse HomeSt
  frames : Sparse FrameRec
  lost : List (Nat × Nat)
  deriving DecidableEq, Repr

/-- Launching: crews, launches, queue mapper and completion windows. `rcbs` and `frqs` are the physical addresses of the RCBs
and of the fault report queue headers that Ailith has read, whose HW and W1C fields stores leave to Ailith (R6). `faults` are the
fault records whose queue a promotion holds (R425). `devFaults` are those of the RCBs that a device-level fault made FAULTED, whose records are held (R214). -/
structure LaunchSys where
  crews : List Crew
  launches : List Launch
  waits : List LaunchWait
  slots : Sparse Nat
  lastBound : Nat
  served : Nat
  turnLeft : Nat
  windows : Sparse Window
  ops : List AOp
  engines : Sparse (List Nat)
  distThreads : List Nat
  pending : List (Nat × Nat × Nat)
  rcbs : List Nat
  frqs : List Nat
  devFaults : List Nat
  faults : List (Eff × FaultRec)
  deriving DecidableEq, Repr

/-- The migration engine, the pool, keeping and KV state of the hub and homes. `stalled` is the keeping updates that stand in the
receiving queues of the fabric ports, in arrival order, for want of room in a hold queue (R316). `shares` is what the other members of a
region have given to a sweep, `shared` what this one has sent them last, and `rebased` the regions whose cells it has rebased (R319). -/
structure HubSys where
  migQueue : List MigCmd
  migs : List Mig
  free : Sparse (List Nat)
  windows : Sparse (List Byte)
  handles : Sparse Word
  cells : Sparse CellRec
  poolUsed : List (Nat × Nat)
  outq : Sparse (List OutRec)
  holdq : Sparse (List Held)
  stalled : List Update
  sweeps : List (Nat × MigCmd)
  shares : List (Nat × SweepShare)
  shared : List (Nat × SweepShare)
  rebased : List Nat
  conts : List Cont
  moves : List BlockMove
  ownWait : List OwnReq
  ownSent : List OwnReq
  gained : Sparse Nat
  changing : List OwnChange
  promos : List Promo
  counters : Sparse Word
  kvdir : Sparse Word
  store : List StoreTag
  kvx : List KvxOp
  deriving DecidableEq, Repr

/-- The package controllers: events, links, power, boot. `routes` is the fabric port of each package (R18), `members` the
packages that share the pool (R487), and `sampled` the period
of 4,096 cycles that the power controller sampled last (R22). `shot` numbers what is lost and whose shootdown is over: a home h as h, a package p as
4 + p (R463, R489). -/
structure PkgSys where
  pkg : Nat
  packages : Nat
  routes : List Nat
  members : List Nat
  sampled : Nat
  unreachable : List Nat
  shot : List Nat
  seqPkg : Nat
  sys : SysBlock
  lpmBytes : Nat
  events : Sparse Word
  calendars : Sparse Calendar
  links : Sparse LinkSt
  power : Nat
  coolant : Bool
  refresh : Sparse Nat
  failedDies : List Nat
  boot : BootSt
  deriving DecidableEq, Repr

/-- What may come next: an issue, a step of the hardware, or the oldest outside event. -/
inductive Choice where
  | issue (h : Nat)
  | event (e : Instr)
  | input (e : Instr)
  deriving DecidableEq, Repr

/-- One package. `cycles` is the timebase (R19). `tick`, `schedule`, `cur`, `turn`, `inputs`, `outbox`, `progress`, `nextId`
and `waiting` are the model's own: the count of steps that feeds the free values, the choices of next steps still to
be used, the hart whose instruction runs, the next step, outside events not yet taken, what the package has sent, the
tick of the last step that was no wait, the next number for records of work under way, and the next steps that were possible and
not chosen, the longest waiting first (R381). -/
structure State where
  cycles : Word
  harts : Sparse Hart
  cores : Sparse Core
  mem : MemSys
  run : LaunchSys
  hub : HubSys
  pkg : PkgSys
  tick : Nat
  schedule : List Nat
  cur : Nat
  turn : Turn
  inputs : List Instr
  outbox : List Msg
  progress : Nat
  nextId : Nat
  waiting : List Choice
  deriving DecidableEq, Repr

/-- The trap registers at placement (R78). -/
def TrapRegs.init : TrapRegs := ⟨0, 0, 0, 0, 0, 0, 0⟩

/-- Supervisor registers before firmware or the guest context table sets them (log entry 2). -/
def SupRegs.init : SupRegs := ⟨0, 0, 0, 0, 0, 0, 0, 0, 0, 0, 0, 0⟩

/-- Issue state of a hart that cold reset holds in reset (R490). -/
def Sched.init : Sched :=
  ⟨.none, 0, 0, false, none, false, false, false, true, false, none, none, none, none⟩

/-- The place of a hart that runs no crew: width 1, no kernel, the whole register set of R62 (R63). -/
def Place.init : Place :=
  ⟨0, 0, 0, 0, 0, 0, 1, 0, 0, 0, 0, 16, 0, 0, 0, 0, 0, 0, 0, 128, 256, true⟩

/-- A hart that nothing has written: every register FULL at 0, one lane active (R63, R65, R78; log entry 2). -/
def Hart.init : Hart :=
  { pc := 0, s := [], v := [], k := [], exec := 1, live := 1, stack := [], spilled := 0, sb := [], uasc := 0,
    ctx := 0, mode := .host, guest := 0, fpm := 1, fflags := 0, place := .init, trap := .init, sup := .init,
    sched := .init, amax := [], prefetch := [], fetched := [] }

/-- An empty scoped cache (R227). -/
def Cache.init : Cache := ⟨[], [], []⟩

/-- A performance counter at reset (R475). -/
def Pmc.init : Pmc := ⟨0, 0, 0⟩

/-- A core after reset. -/
def Core.init : Core := ⟨0, .init, [], [], [], false, []⟩

/-- A home agent after reset; the firmware registers hold 0 until boot writes them (log entry 2). -/
def HomeSt.init : HomeSt := ⟨[], [], 10, false, 0, 0, 0, 1, 0, 0, false⟩

/-- An issuing agent that has numbered nothing (R393). -/
def Window.init : Window := ⟨0, []⟩

/-- A calendar whose slots are all FREE (R380). -/
def Calendar.init : Calendar := ⟨0, [], []⟩

/-- A link that is up and empty (R17). -/
def LinkSt.init : LinkSt := ⟨0, false, 0, false, 0⟩

/-- A tile at placement (R226). -/
def Tile.init : Tile := ⟨[], [], none⟩

/-- A chuck that holds no block (R226, R321). -/
def Chuck.init : Chuck := ⟨[], 0, 0, 0, []⟩

/-- The machine right after cold reset, before boot: every core in reset (R490), power step 0 (R22), memory listing
nothing (log entry 1), firmware values 0 (log entry 2). -/
def State.reset : State :=
  { cycles := 0, harts := [], cores := [],
    mem := ⟨[], [], [], [], [], [], [], [], [], [], [], [], [], [], [], []⟩,
    run := ⟨[], [], [], [], 1023, 0, 0, [], [], [], [], [], [], [], [], []⟩,
    hub := ⟨[], [], [], [], [], [], [], [], [], [], [], [], [], [], [], [], [], [], [], [], [], [], [], [], []⟩,
    pkg := ⟨0, 1, [], [], 0, [], [], 0, ⟨0, 0, 0, 0, 0, 0, 0, 0, 0⟩, 2 ^ 40, [], [], [], 0, false, [], [], ⟨0, 0, 0, 0, 0, 0⟩⟩,
    tick := 0, schedule := [], cur := 0, turn := .idle, inputs := [], outbox := [], progress := 0, nextId := 1, waiting := [] }

end Sys2Proof.Machine
end

