-- ==== Sys2Proof/Machine/Regs.lean ====
section
/-! DEFINITION. Access to harts, cores and crews, to every register of a hart by its operand form, and to the special
registers (04_registers). -/
namespace Sys2Proof.Machine

/-- What a meaning answers. -/
abbrev Out := Host.Outcome State Fault Refusal

/-- A hart by its number: host threads 0 to 127, service cores 128 to 131, the security processor 132, and slot n of
compute core c at 256 + 64 c + n (R11, R14, R479). -/
def State.hart (s : State) (h : Nat) : Hart := sget Hart.init s.harts h

/-- Write a hart. -/
def State.setHart (s : State) (h : Nat) (t : Hart) : State := { s with harts := sset Hart.init s.harts h t }

/-- The hart whose instruction runs. -/
def State.now (s : State) : Hart := s.hart s.cur

/-- Change the hart whose instruction runs. -/
def State.modNow (s : State) (f : Hart → Hart) : State := s.setHart s.cur (f s.now)

/-- Change one hart. -/
def State.modHart (s : State) (h : Nat) (f : Hart → Hart) : State := s.setHart h (f (s.hart h))

/-- A core by its number (R14). -/
def State.core (s : State) (c : Nat) : Core := sget Core.init s.cores c

/-- Write a core. -/
def State.setCore (s : State) (c : Nat) (k : Core) : State := { s with cores := sset Core.init s.cores c k }

/-- Change one core. -/
def State.modCore (s : State) (c : Nat) (f : Core → Core) : State := s.setCore c (f (s.core c))

/-- Whether a hart is a compute team. -/
def isCompute (h : Nat) : Bool := 256 ≤ h

/-- Whether a hart is a host-die thread (R479). -/
def isHostThread (h : Nat) : Bool := h < 128

/-- Whether a hart runs FW mode on the hub (R184). -/
def isService (h : Nat) : Bool := 128 ≤ h && h < 256

/-- The core number that %core reads (R14). -/
def coreOf (h : Nat) : Nat :=
  if isCompute h then (h - 256) / 64 else if isHostThread h then 192 + h / 2 else 256 + (h - 128)

/-- The cluster number that %cluster reads (R14). -/
def clusterOf (c : Nat) : Nat := if c < 192 then c / 96 * 12 + c % 96 / 8 else 0x3F

/-- The die of a core (R13). -/
def dieOf (c : Nat) : Nat := if c < 192 then c / 96 else if c < 256 then 3 else 2

/-- The pipe of a compute team on its core (R11). -/
def pipeOf (h : Nat) : Nat := (h - 256) % 64 / 16

/-- The coherent agent of a core's die (R449). -/
def agentOf (c : Nat) : Nat := match dieOf c with | 0 => 0 | 1 => 1 | 3 => 2 | _ => 3

/-- A crew by its key. -/
def State.crew? (s : State) (key : Nat) : Option Crew := s.run.crews.find? (fun c => c.key == key)

/-- Whether a hart has been given to the distributor, or is a compute team (R192, R193). -/
def State.crewed (s : State) (h : Nat) : Bool := isCompute h || s.run.distThreads.contains h

/-- Change one crew. -/
def State.modCrew (s : State) (key : Nat) (f : Crew → Crew) : State :=
  { s with run := { s.run with crews := updWhere (fun c => c.key == key) f s.run.crews } }

/-- The kernel header of a crew, or one of a single lane and no share for a thread that runs no crew. -/
def Kernel.none : Kernel := ⟨0, 1, 1, 128, 128, 256, 256, 0, 0, 0, 0, 0, 0, 0, 0, 0, 0, 0⟩

/-- The crew a hart belongs to. -/
def State.crewOf (s : State) (h : Nat) : Option Crew :=
  if s.crewed h then s.crew? (s.hart h).place.crewKey else none

/-- The kernel of a hart. -/
def State.kernelOf (s : State) (h : Nat) : Kernel := ((s.crewOf h).map Crew.kernel).getD Kernel.none

/-- A launch by its number. -/
def State.launch? (s : State) (id : Nat) : Option Launch := s.run.launches.find? (fun l => l.id == id)

/-- Change one launch. -/
def State.modLaunch (s : State) (id : Nat) (f : Launch → Launch) : State :=
  { s with run := { s.run with launches := updWhere (fun l => l.id == id) f s.run.launches } }

/-- A fresh number for a record of work under way, and the state that has used it. -/
def State.fresh (s : State) : Nat × State := (s.nextId, { s with nextId := s.nextId + 1 })

/-- Append a message to what the package has sent. -/
def State.send (s : State) (m : Msg) : State := { s with outbox := s.outbox ++ [m] }

/-- Amax tracker n of a hart's crew, or of the thread itself when it runs no crew (R78; log entry 11). -/
def State.amaxOf (s : State) (h n : Nat) : Lane :=
  match s.crewOf h with
  | some c => sget 0 c.amax n
  | none => sget 0 (s.hart h).amax n

/-- Write an amax tracker. -/
def State.setAmax (s : State) (h n : Nat) (v : Lane) : State :=
  match s.crewOf h with
  | some c => s.modCrew c.key (fun k => { k with amax := sset 0 k.amax n v })
  | none => s.modHart h (fun t => { t with amax := sset 0 t.amax n v })

/-- Add 1 to a prefetch counter of a hart's crew, or of the thread: 0 PFISSUE, 1 PFUSED, 2 PFLATE, 3 PFEVICT, 4 PFDROP
(R475). -/
def State.pfAdd (s : State) (h n : Nat) : State :=
  match s.crewOf h with
  | some c => s.modCrew c.key (fun k => { k with prefetch := sset 0 k.prefetch n (sget 0 k.prefetch n + 1) })
  | none => s.modHart h (fun t => { t with prefetch := sset 0 t.prefetch n (sget 0 t.prefetch n + 1) })

/-- The sectors that a hart's crew, or the thread, has prefetched and not yet used (R475). -/
def State.fetchedOf (s : State) (h : Nat) : List Nat :=
  match s.crewOf h with | some c => c.fetched | none => (s.hart h).fetched

/-- Replace those sectors. -/
def State.setFetched (s : State) (h : Nat) (l : List Nat) : State :=
  match s.crewOf h with
  | some c => s.modCrew c.key (fun k => { k with fetched := l })
  | none => s.modHart h (fun t => { t with fetched := l })

/-- Team width W (R62). -/
def Hart.W (t : Hart) : Nat := t.place.width

/-- A scalar register; s0 reads 0 and is FULL (R62, R63). -/
def Hart.getS (t : Hart) (r : Nat) : SReg := if r = 0 then SReg.zero else sget SReg.zero t.s r

/-- Write a scalar register with its state; a write to s0 is discarded (R63). -/
def Hart.putS (t : Hart) (r : Nat) (v : SReg) : Hart := if r = 0 then t else { t with s := sset SReg.zero t.s r v }

/-- Write a scalar register FULL (R69). -/
def Hart.setS (t : Hart) (r : Nat) (v : Word) : Hart := t.putS r ⟨.full, v⟩

/-- One lane of a vector register (R62). -/
def Hart.getV (t : Hart) (r l : Nat) : VLane := sget VLane.zero (sget [] t.v r) l

/-- Write one lane of a vector register with its state. -/
def Hart.putV (t : Hart) (r l : Nat) (x : VLane) : Hart :=
  { t with v := sset [] t.v r (sset VLane.zero (sget [] t.v r) l x) }

/-- A predicate register; k0 reads all ones and is FULL (R62, R63). -/
def Hart.getK (t : Hart) (r : Nat) : KReg :=
  if r = 0 then ⟨false, allLanes t.W⟩ else sget KReg.zero t.k r

/-- Write a predicate register with its state; a write to k0 is discarded (R63). -/
def Hart.putK (t : Hart) (r : Nat) (v : KReg) : Hart := if r = 0 then t else { t with k := sset KReg.zero t.k r v }

/-- Write a predicate register FULL, bits at or above W dropped (R62, R69). -/
def Hart.setK (t : Hart) (r : Nat) (m : Mask) : Hart := t.putK r ⟨false, m &&& allLanes t.W⟩

/-- Write %exec: the value narrowed to the live lanes (R76). -/
def Hart.setExec (t : Hart) (m : Mask) : Hart := { t with exec := m &&& t.live }

/-- Write %live: it only narrows, and takes what it removes out of %exec. A hart whose live lanes are all gone has exited
(R76). -/
def Hart.setLive (t : Hart) (m : Mask) : Hart :=
  { t with
    live := m &&& t.live, exec := t.exec &&& (m &&& t.live)
    sched := if m &&& t.live == 0 then { t.sched with exited := true } else t.sched }

/-- Move a hart's pc to the next instruction (R26). -/
def Hart.advance (t : Hart) : Hart := { t with pc := t.pc + 12 }

/-- Split-stack depth (R161). -/
def Hart.depth (t : Hart) : Nat := t.stack.length + t.spilled

/-- The special register value of R78 and R80, zero-extended, reserved bits 0 (R8, R407); the mask-class registers and %lane are
read elsewhere (R79). -/
def State.readSr (s : State) (h n : Nat) : Word :=
  let t := s.hart h
  let p := t.place
  let c := s.crewOf h
  let nat (k : Nat) : Word := BitVec.ofNat 64 k
  match n with
  | 0x001 => nat p.team
  | 0x002 => nat p.crew
  | 0x003 => nat p.crewx
  | 0x004 => nat p.crewy
  | 0x005 => nat p.crewz
  | 0x006 => nat p.width
  | 0x007 => nat (coreOf h)
  | 0x008 => nat (clusterOf (coreOf h))
  | 0x009 => nat (dieOf (coreOf h))
  | 0x00A => nat s.pkg.pkg
  | 0x00B => p.params
  | 0x00C => p.rcb
  | 0x00D => p.save
  | 0x00E => p.wake
  | 0x012 => nat t.fpm.toNat
  | 0x013 => nat t.fflags.toNat
  | 0x014 => (c.map Crew.tagmap).getD 0
  | 0x015 => nat t.uasc
  | 0x016 => nat t.depth
  | 0x017 => nat p.sslimit
  | 0x030 => s.cycles
  | 0x031 => (s.core (coreOf h)).lamport
  | 0x040 => nat t.trap.tcause.toNat
  | 0x041 => t.trap.tpc
  | 0x042 => t.trap.taddr
  | 0x043 => t.trap.tinfo
  | 0x045 => t.trap.tvec
  | 0x046 => t.trap.tstatus
  | 0x050 => sget 0 s.hub.kvdir t.guest
  | 0x060 => nat (modeRank t.mode)
  | 0x061 => nat t.guest
  | 0x100 => t.sup.gtvec
  | 0x101 => nat t.sup.gdeleg.toNat
  | 0x102 => t.sup.gepc
  | 0x103 => t.sup.gscratch
  | 0x104 => nat (bits t.sup.s1ptb.toNat 0 52)
  | 0x200 => t.sup.htvec
  | 0x201 => nat t.sup.hdeleg.toNat
  | 0x202 => t.sup.hepc
  | 0x203 => t.sup.hscratch
  | 0x204 => nat (bits t.sup.s2ptb.toNat 12 40 * 4096)
  | 0x300 => t.sup.fwtvec
  | 0x301 => t.sup.fwscratch
  | n => if 0x020 ≤ n && n ≤ 0x027 then nat (s.amaxOf h (n - 0x20)).toNat else 0

/-- The value of a mask operand: a k register, %exec, %live or %tmask (R79, R173). -/
def Hart.readMask (t : Hart) : Operand → Mask
  | .k r _ => (t.getK r.toNat).v
  | .sr n => if n == 0x010 then t.exec else if n == 0x011 then t.live else if n == 0x044 then t.trap.tmask else 0
  | _ => 0

/-- Write a mask operand: k registers become FULL, %exec and %live follow R76, %tmask ignores the write (R77, R173). -/
def Hart.writeMask (t : Hart) (o : Operand) (m : Mask) : Hart :=
  match o with
  | .k r _ => t.setK r.toNat m
  | .sr n => if n == 0x010 then t.setExec m else if n == 0x011 then t.setLive m else t
  | _ => t

/-- The guard lanes, after negation; all lanes when unguarded (R35). -/
def Hart.guardLanes (t : Hart) (x : Args) : Mask :=
  let g := if x.g == 0 then allLanes t.W else (t.getK x.g.toNat).v
  if x.neg then allLanes t.W &&& ~~~g else g

/-- The member set of R35: %exec restricted by the guard. -/
def Hart.members (t : Hart) (x : Args) : Mask := t.exec &&& t.guardLanes x

end Sys2Proof.Machine
end

