-- ==== Sys2Proof/Machine/Mem.lean ====
section
/-! DEFINITION. Memory below translation: bytes by host physical address, uncorrectable marks, forwarding of frames
that migrate, directories of the home agents, commutative partials, page counters and notifications, scoped caches
(10_spaces, 12_ordering, 18_translation, 20_directories, 21_counters). -/
namespace Sys2Proof.Machine

/-- What a byte of memory that no step has written reads as (log entry 1). -/
def unlistedByte : Byte := 0

/-- The canonical form of a memory: addresses strictly rising, no entry at the unlisted value. -/
def Memory.wf (m : List Host.Cell) : Bool := swf unlistedByte m

/-- One byte of a memory. -/
def Memory.get (m : List Host.Cell) (a : Nat) : Byte := sget unlistedByte m a

/-- Write one byte of a memory, keeping the canonical form. -/
def Memory.set (m : List Host.Cell) (a : Nat) (b : Byte) : List Host.Cell := sset unlistedByte m a b

/-- Write bytes at given addresses, the later of two to one address last. -/
def Memory.setAll (m : List Host.Cell) (l : List (Nat × Byte)) : List Host.Cell :=
  l.foldl (fun acc p => Memory.set acc p.1 p.2) m

/-- The byte at a host physical address. -/
def State.byte (s : State) (a : Nat) : Byte := Memory.get s.mem.cells a

/-- n bytes from an address. -/
def State.bytesAt (s : State) (a n : Nat) : List Byte := (List.range n).map (fun i => s.byte (a + i))

/-- n bytes from an address as a little-endian number (R3). -/
def State.natAt (s : State) (a n : Nat) : Nat := ofBytes (s.bytesAt a n)

/-- Change the memory system. -/
def State.modMem (s : State) (f : MemSys → MemSys) : State := { s with mem := f s.mem }

/-- Whether a checkpoint holds the launch queues and the migration queue (R492). -/
def State.quiesced (s : State) : Bool := s.pkg.boot.ckpt != 0

/-- Change the hub. -/
def State.modHub (s : State) (f : HubSys → HubSys) : State := { s with hub := f s.hub }

/-- Change the launch unit. -/
def State.modRun (s : State) (f : LaunchSys → LaunchSys) : State := { s with run := f s.run }

/-- Change the package controllers. -/
def State.modPkg (s : State) (f : PkgSys → PkgSys) : State := { s with pkg := f s.pkg }

/-- Write bytes at host physical addresses. -/
def State.pokeAll (s : State) (l : List (Nat × Byte)) : State :=
  s.modMem (fun m => { m with cells := Memory.setAll m.cells l })

/-- Bytes with the addresses they go to. -/
def placed (a : Nat) (bs : List Byte) : List (Nat × Byte) := (List.range bs.length).zip bs |>.map (fun p => (a + p.1, p.2))

/-- Write a number of n bytes at a host physical address (R3). -/
def State.pokeNat (s : State) (a n v : Nat) : State := s.pokeAll (placed a (toBytes n v))

/-- Selector PA[51:48] of an address (R232). -/
def selector (pa : Nat) : Nat := bits pa 48 4

/-- A peer address that names the local package is the local address (R232). -/
def State.normPa (s : State) (pa : Nat) : Nat :=
  if selector pa == 3 && bits pa 39 6 == s.pkg.pkg then bits pa 38 1 * 2 ^ 48 + bits pa 0 38 else pa

/-- Number of a home agent: 0 HA-H0, 1 HA-H1, 2 HA-L, 3 HA-P (R449). -/
def homeNo : Home → Nat
  | .h0 => 0 | .h1 => 1 | .l => 2 | .p => 3

/-- The home of a normalised address (R232); a peer's HBM has its home in that package. -/
def homeOf (pa : Nat) : Option Nat :=
  match selector pa with
  | 0 => some 0 | 1 => some 1 | 2 => some 2 | 4 => some 3 | 5 => some 3 | 6 => some 3 | 7 => some 3 | _ => none

/-- The tier of an address: 0 HBM, 1 LPM, 2 POOL (R417, R427). -/
def tierOf (pa : Nat) : Nat :=
  match selector pa with
  | 2 => 1 | 4 => 2 | 5 => 2 | 6 => 2 | 7 => 2 | _ => 0

/-- Whether an address lies in installed memory (R232, R233). -/
def State.paValid (s : State) (pa : Nat) : Bool :=
  match selector pa with
  | 0 => bits pa 38 10 == 0
  | 1 => bits pa 38 10 == 0
  | 2 => bits pa 40 8 == 0 && bits pa 0 40 < s.pkg.lpmBytes
  | 3 => bits pa 45 3 == 0 && bits pa 39 6 < s.pkg.packages
  | 14 => true
  | 15 => true
  | n => 4 ≤ n && n ≤ 7 && bits pa 0 50 < s.pkg.sys.winpages * 4096

/-- A home agent. -/
def State.home (s : State) (h : Nat) : HomeSt := sget HomeSt.init s.mem.homes h

/-- Change a home agent. -/
def State.modHome (s : State) (h : Nat) (f : HomeSt → HomeSt) : State :=
  s.modMem (fun m => { m with homes := sset HomeSt.init m.homes h (f (sget HomeSt.init m.homes h)) })

/-- The placement record of a frame number (R412). -/
def State.frame (s : State) (f : Nat) : FrameRec := sget FrameRec.zero s.mem.frames f

/-- Change a placement record. -/
def State.modFrame (s : State) (f : Nat) (g : FrameRec → FrameRec) : State :=
  s.modMem (fun m => { m with frames := sset FrameRec.zero m.frames f (g (sget FrameRec.zero m.frames f)) })

/-- Add n to a counter of R471, modulo 2^64. -/
def State.bumpBy (s : State) (key n : Nat) : State :=
  s.modHub (fun u => { u with counters := sset 0 u.counters key (sget 0 u.counters key + BitVec.ofNat 64 n) })

/-- Add 1 to a counter of R471. -/
def State.bump (s : State) (key : Nat) : State := s.bumpBy key 1

/-- Key of a guest's migration counter (R475, R476). -/
def migKey (guest num : Nat) : Nat := (guest + 1) * 0x1000 + num

/-- Raise an event: its PEND is set (R480, R481). -/
def State.raiseEvent (s : State) (n : Nat) : State :=
  s.modPkg (fun p => { p with events := sset 0 p.events n (sget 0 p.events n ||| 0x4000) })

/-- Report a RAS condition to firmware, which logs it as event 0x002 (R480). -/
def State.ras (s : State) (detail : Nat) : State := (s.raiseEvent 2).send (.ras 2 detail)

/-- Add n to the performance counters of a core whose configuration selects an event (R475, R476). Events 2 to 6, 10,
13 and 14 count a team's guest and pipe; the others count while a crew of the owner is placed on the core. -/
def State.pmcAdd (s : State) (core ev n : Nat) (guest : Nat) (pipe : Option Nat) : State :=
  let team := [2, 3, 4, 5, 6, 10, 13, 14].contains ev
  let host := core ≥ 192
  if host && [6, 7, 9, 12, 13, 14].contains ev then s
  else s.modCore core (fun c => { c with pmc := c.pmc.map (fun p =>
    let q := p.2
    let pipes := bits q.cfg.toNat 8 4
    let pipeOk := match pipe with | some k => pipes == 0 || bit pipes k | none => true
    let ownOk := if team then q.owner == guest
      else host || s.run.crews.any (fun k => k.core == core && k.guest == q.owner && !k.draining)
    if bits q.cfg.toNat 0 8 == ev && pipeOk && ownOk then (p.1, { q with count := q.count + BitVec.ofNat 64 n })
    else p) })

/-! ### Migration forwarding (R420 to R422) -/

/-- The migration that has a forwarding entry for a frame (R419). -/
def State.migOf (s : State) (pa : Nat) : Option Mig :=
  s.hub.migs.find? (fun m => m.st != .queued && m.src ≤ pa / 4096 && pa / 4096 < m.src + m.frames)

/-- Line number of an address within the page a migration moves. -/
def Mig.line (m : Mig) (pa : Nat) : Nat := (pa - m.src * 4096) / 128

/-- Whether a line has been copied to the new frame (R420); while ABORTING none counts (R421). -/
def Mig.copied (m : Mig) (pa : Nat) : Bool := m.st != .aborting && m.line pa < m.cursor

/-- The address of the new frame that an address of the old frame moves to. -/
def Mig.toNew (m : Mig) (pa : Nat) : Nat := pa - m.src * 4096 + m.dest * 4096

/-- Where a read of an address is served (R420). -/
def State.readAddr (s : State) (pa : Nat) : Nat :=
  match s.migOf pa with
  | some m => if m.copied pa then m.toNew pa else pa
  | none => pa

/-- Where a write of an address is applied: below the cursor, both frames as one step (R420). -/
def State.writeAddrs (s : State) (pa : Nat) : List Nat :=
  match s.migOf pa with
  | some m => if m.copied pa then [pa, m.toNew pa] else [pa]
  | none => [pa]

/-- The migration whose cursor stands at the line of an address, so that writes to it are held (R420). -/
def State.cursorMig (s : State) (pa : Nat) : Option Mig :=
  match s.migOf pa with
  | some m => if m.st == .moving && m.line pa == m.cursor then some m else none
  | none => none

/-- The frame whose placement record stands for a frame: a frame that a migration fills has that of the frame it replaces, which
carries over at the commit (R419). -/
def State.recFrame (s : State) (f : Nat) : Nat :=
  match s.hub.migs.find? (fun m => m.st != .queued && m.tier != 3 && m.dest ≤ f && f < m.dest + m.frames) with
  | some m => f - m.dest + m.src
  | none => f

/-- The address that an access uses: that of the local package where a peer address names it (R232), and of the new frame once a
migration has rewritten the leaves (R419, R420; log entry 91). -/
def State.canonPa (s : State) (pa : Nat) : Nat :=
  let p := s.normPa pa
  match s.migOf p with
  | some m => if m.st == .shootdown && m.tier != 3 then m.toNew p else p
  | none => p

/-! ### Uncorrectable marks (R74, R239) -/

/-- Whether the sector of an address is marked uncorrectable. -/
def State.marked (s : State) (pa : Nat) : Bool := s.mem.marks.contains (s.readAddr pa / 32)

/-- Marks after one write: a sector that receives a byte from a POISON lane is marked; a write of all 32 bytes from
no POISON lane clears the mark (R74). -/
def marksAfter (marks : List Nat) (addrs poison : List Nat) : List Nat :=
  let secs := (addrs.map (· / 32)).eraseDups
  secs.foldl (fun ms k =>
    if poison.any (fun a => a / 32 == k) then (if ms.contains k then ms else ms ++ [k])
    else if ((List.range 32).all (fun i => addrs.contains (32 * k + i))) then ms.filter (· != k) else ms) marks

/-- Note a write to some lines, by another hart, for the LDP requests that the levels chosen by `at_` hold (R254). -/
def releaseLdp (by_ : Nat) (at_ : Req → Bool) (lines : List Nat) (rs : List Req) : List Req :=
  rs.map (fun r =>
    if r.parked && r.hart != by_ && at_ r && lines.contains (r.pa / 128) then { r with released := true } else r)

/-- A number that no hart has, for writes that no team makes. -/
def noHart : Nat := 2 ^ 20

/-- Whether the home of an address has failed, or its package is unreachable (R463, R489). -/
def State.homeFailed (s : State) (pa : Nat) : Bool :=
  match homeOf pa with
  | some h => (s.home h).failed
  | none => selector pa == 3 && s.pkg.unreachable.contains (bits pa 39 6)

/-- Whether an address lies in a lost range whose leaves firmware has rewritten, so that an access raises TRANSLATION (R463, R489). -/
def State.shotDown (s : State) (pa : Nat) : Bool :=
  match homeOf (s.normPa pa) with
  | some h => s.pkg.shot.contains h
  | none => selector pa == 3 && s.pkg.shot.contains (4 + bits pa 39 6)

/-! ### Links (R16 to R18) -/

/-- The state of a link direction: 0 and 1 join compute dies 0 and 1, 2 and 3 compute die 0 and the hub, 4 and 5 compute die 1 and the
hub, 6 and 7 the host die and the hub, there and back; from 8 on come the 16 fabric ports, out and in (log entry 19). -/
def State.link (s : State) (n : Nat) : LinkSt := sget LinkSt.init s.pkg.links n

/-- The outward direction of a fabric port. -/
def portOut (p : Nat) : Nat := 8 + 2 * p

/-- The direction opposite to one. -/
def reverseOf (d : Nat) : Nat := if d % 2 == 0 then d + 1 else d - 1

/-- The direction from a die to the hub. -/
def toHub : Nat → Nat
  | 0 => 2
  | 1 => 4
  | _ => 6

/-- The port that the routing table gives a package (R18, R489). -/
def State.portOf (s : State) (pkg : Nat) : Nat := s.pkg.routes.getD pkg 0 % 16

/-- The directions that an access of a requester on a die to an address crosses, by the table of R16; its reply crosses the
opposite ones. -/
def State.route (s : State) (die pa : Nat) : List Nat :=
  let sel := selector (s.normPa pa)
  if sel ≤ 1 then
    if die == sel then []
    else if die == 0 then [0]
    else if die == 1 then [1]
    else (if die == 3 then [toHub 3] else []) ++ [reverseOf (toHub sel)]
  else (if die == 2 then [] else [toHub die]) ++ (if sel == 3 then [portOut (s.portOf (bits pa 39 6))] else [])

/-- Whether a link direction takes flits: it is up, and its receiver does not hold it back (R17). -/
def State.linkFree (s : State) (d : Nat) : Bool := !(s.link d).down && !(s.link d).hold

/-- Change a link direction. -/
def State.modLink (s : State) (n : Nat) (f : LinkSt → LinkSt) : State :=
  s.modPkg (fun p => { p with links := sset LinkSt.init p.links n (f (sget LinkSt.init p.links n)) })

/-- Set the occupancy of a link's receiving queue: HOLD rises at 384 and falls at 256 (R17). Flits that come while HOLD stands were
on the wire. -/
def LinkSt.setOccupancy (l : LinkSt) (n : Nat) : LinkSt :=
  let hold := if n ≥ 384 then true else if n ≤ 256 then false else l.hold
  { l with occupancy := n, hold := hold, late := if !hold then 0 else if l.hold && l.occupancy < n then l.late + 1 else l.late }

/-- A flit enters a receiving queue. -/
def State.queueFlit (s : State) (d : Nat) : State := s.modLink d (fun l => l.setOccupancy (l.occupancy + 1))

/-- A flit leaves a receiving queue. -/
def State.unqueueFlit (s : State) (d : Nat) : State := s.modLink d (fun l => l.setOccupancy (l.occupancy - 1))

/-- Whether an access and its reply can cross the links of its route; one to an unreachable package waits for none (R463). -/
def State.routeOpen (s : State) (core pa : Nat) : Bool :=
  s.homeFailed pa || (s.route (dieOf core) pa).all (fun d => s.linkFree d && s.linkFree (reverseOf d))

/-- Who may change a field of a structure that stands in memory (R6). `state` is the STATE of an RCB (R379). -/
inductive FieldAcc where
  | rw | hw | host | fw | w1c | state
  deriving DecidableEq, Repr

/-- The first bit, the width and the access of the fields of a structure that are not plain RW. -/
abbrev FieldMap := List (Nat × Nat × FieldAcc)

/-- A region control block (R363). -/
def rcbFields : FieldMap := [(1, 3, .state), (768, 192, .hw)]
/-- The header of a fault report queue (R400). -/
def frqFields : FieldMap := [(0, 32, .hw), (64, 1, .w1c), (96, 32, .hw)]
/-- A placement descriptor (R427). -/
def pdFields : FieldMap := [(0, 127, .host), (127, 1, .w1c), (160, 32, .hw), (192, 64, .host)]
/-- A launch queue descriptor (R360). -/
def lqFields : FieldMap := [(0, 192, .host), (192, 64, .hw)]
/-- A guest context (R484). -/
def gctFields : FieldMap := [(0, 512, .host)]
/-- A keeping region descriptor (R296). -/
def rdFields : FieldMap := [(0, 32, .fw), (32, 12, .hw), (44, 468, .fw)]
/-- An ownership word (R428). -/
def ownFields : FieldMap := [(0, 14, .hw), (14, 1, .fw), (15, 49, .hw)]

/-- A bit that software of a mode writes to a field, given what stands there. -/
def FieldAcc.write (mode : Mode) (old new : Bool) : FieldAcc → Bool
  | .rw => new
  | .hw => old
  | .host => if 2 ≤ modeRank mode then new else old
  | .fw => if mode == .fw then new else old
  | .w1c => old && !new
  | .state => old

/-- A byte that software of a mode writes to byte `o` of a structure, given what stands there: HW fields stay, W1C bits are cleared
by a 1, and fields of a mode above stay (R6). An RCB that is FAULTED or RETIRED takes IDLE from HOST (R379). -/
def guardedByte (f : FieldMap) (mode : Mode) (o : Nat) (old new : Byte) : Byte :=
  let st := bits old.toNat 1 3
  let idle := o == 0 && decide (2 ≤ modeRank mode) && bits new.toNat 1 3 == 0 && (st == 6 || st == 7)
  BitVec.ofNat 8 (sumN ((List.range 8).map (fun i =>
    let acc := ((f.find? (fun q => q.1 ≤ 8 * o + i && 8 * o + i < q.1 + q.2.1)).map (fun q => q.2.2)).getD .rw
    2 ^ i * b2n (if acc == .state && idle then bit new.toNat i else acc.write mode (bit old.toNat i) (bit new.toNat i)))))

/-- The structure that an address lies in, with the offset: an RCB while its V is 1, a queue header, or an entry of a table that
firmware has placed. -/
def State.structAt (s : State) (a : Nat) : Option (FieldMap × Nat) :=
  let table (base size n : Nat) : Option Nat := if base != 0 && base ≤ a && a < base + size then some ((a - base) % n) else none
  let y := s.pkg.sys
  match s.run.rcbs.find? (fun b => b ≤ a && a < b + 256 && bit (s.byte (s.readAddr b)).toNat 0),
      s.run.frqs.find? (fun b => b ≤ a && a < b + 64) with
  | some b, _ => some (rcbFields, a - b)
  | none, some b => some (frqFields, a - b)
  | none, none =>
    ((table y.pdt 2048 32).map (fun o => (pdFields, o))).orElse fun _ =>
    ((table y.lqt 32768 32).map (fun o => (lqFields, o))).orElse fun _ =>
    ((table y.gct 4096 64).map (fun o => (gctFields, o))).orElse fun _ =>
    ((table y.rdt 16384 64).map (fun o => (rdFields, o))).orElse fun _ =>
    (table y.poolmeta (8 * y.winpages) 8).map (fun o => (ownFields, o))

/-- What the stores of software of a mode leave of the bytes it writes (R6). -/
def State.guarded (s : State) (mode : Mode) (l : List (Nat × Byte)) : List (Nat × Byte) :=
  l.map (fun p => match s.structAt p.1 with
    | some (f, o) => (p.1, guardedByte f mode o (s.byte (s.readAddr p.1)) p.2)
    | none => p)

/-- A write to memory at coherent points, as one write of the bytes given: both frames while a line is forwarded,
marks kept, held LDP requests of the lines released. `by_` is the hart that writes. A failed home discards it (R463). -/
def State.cohPoke (s : State) (by_ : Nat) (l : List (Nat × Byte)) (poison : List Nat) : State :=
  let ok := l.filter (fun p => !s.homeFailed p.1)
  let l' := (ok.map (fun p => (s.writeAddrs p.1).map (fun a => (a, p.2)))).flatten
  let ps := (poison.map (fun a => s.writeAddrs a)).flatten
  let s1 := s.pokeAll l'
  s1.modMem (fun m => { m with
    marks := marksAfter m.marks (l'.map Prod.fst) ps
    reqs := releaseLdp by_ (fun r => r.level ≥ 2) ((ok.map (fun p => p.1 / 128)).eraseDups) m.reqs })

/-- Bytes at coherent points, and whether any lies in a marked sector or a failed home (R72, R463). -/
def State.cohPeek (s : State) (pa n : Nat) : List Byte × Bool :=
  ((List.range n).map (fun i => s.byte (s.readAddr (pa + i))),
   (List.range n).any (fun i => s.marked (pa + i) || s.homeFailed (pa + i)))

/-! ### Partials (R267, R268) -/

/-- old op b on w-bit values: 0 ADD, 1 MIN, 2 MAX, 3 AND, 4 OR, 5 XOR, 6 SWAP (R262). -/
def combine (op : Nat) (signed : Bool) (w old b : Nat) : Nat :=
  let lt (x y : Nat) : Bool := if signed then toSigned w x < toSigned w y else x < y
  match op with
  | 0 => (old + b) % 2 ^ w
  | 1 => if lt b old then b else old
  | 2 => if lt old b then b else old
  | 3 => old &&& b
  | 4 => old ||| b
  | 5 => old ^^^ b
  | _ => b

/-- The identity of an operation on w-bit values (R178, R267). -/
def identityOf (op : Nat) (signed : Bool) (w : Nat) : Nat :=
  match op with
  | 1 => if signed then 2 ^ (w - 1) - 1 else 2 ^ w - 1
  | 2 => if signed then 2 ^ (w - 1) else 0
  | 3 => 2 ^ w - 1
  | _ => 0

/-- Merge one partial into memory; onto uncorrectable bytes it is discarded and counted (R268). -/
def State.mergePartial (s : State) (p : Partial) : State :=
  let (bs, bad) := s.cohPeek p.pa p.size
  if bad then s.bump 0x49
  else s.cohPoke noHart (placed p.pa (toBytes p.size (combine p.op (tySigned p.ty) (8 * p.size) (ofBytes bs) p.value))) []

/-- Merge every partial whose line lies in a range of lines, and forget them (R268, R457). -/
def State.mergeLines (s : State) (line n : Nat) : State :=
  let hit (p : Partial) : Bool := line ≤ p.pa / 128 && p.pa / 128 < line + n
  let s1 := (s.mem.partials.filter hit).foldl State.mergePartial s
  s1.modMem (fun m => { m with partials := m.partials.filter (fun p => !hit p) })

/-! ### Prefetched lines (R475) -/

/-- Whether a prefetch brought a line in of which no sector has been used. -/
def unused (fetched : List Nat) (line : Nat) : Bool := (List.range 4).all (fun i => fetched.contains (4 * line + i))

/-- A cache of some cores gives a line up: the eviction of a prefetched line of which no sector was used counts in the crew, or in
the thread that runs no crew (R475). -/
def State.countEvicted (s : State) (of_ : Nat → Bool) (line : Nat) : State :=
  let drop (l : List Nat) : List Nat := l.filter (fun k => k / 4 != line)
  let more (m : Sparse Word) : Sparse Word := sset 0 m 3 (sget 0 m 3 + 1)
  let hit (c : Crew) : Bool := of_ c.core && unused c.fetched line
  let hs := (s.harts.filter (fun p => of_ (coreOf p.1) && unused p.2.fetched line)).map Prod.fst
  let s1 := if s.run.crews.any hit then s.modRun (fun r => { r with
    crews := updWhere hit (fun c => { c with prefetch := more c.prefetch, fetched := drop c.fetched }) r.crews }) else s
  hs.foldl (fun st h => st.modHart h (fun t => { t with prefetch := more t.prefetch, fetched := drop t.fetched })) s1

/-! ### Directories (R450 to R461) -/

/-- A request as the directory table of R452 sorts it. -/
inductive DReq where
  | rd | rdx | hread | hwrite | redu
  deriving DecidableEq, Repr

/-- Lines of a unit (R450). -/
def DirEntry.lines (e : DirEntry) : Nat := 2 ^ e.size

/-- Whether an entry covers a line. -/
def DirEntry.covers (e : DirEntry) (line : Nat) : Bool := e.base ≤ line && line < e.base + e.lines

/-- Entries of a home by number (R451). -/
def dirCapacity (h : Nat) : Nat := if h == 3 then 131072 else 262144

/-- The size of the unit that a request on an uncovered line takes: the largest aligned unit that overlaps no
entry (log entry 7). -/
def freshSize (dir : List DirEntry) (line : Nat) : Nat → Nat
  | 0 => 0
  | n + 1 =>
    let b := line / 2 ^ (n + 1) * 2 ^ (n + 1)
    if dir.any (fun e => e.base < b + 2 ^ (n + 1) && b < e.base + e.lines) then freshSize dir line n else n + 1

/-- %cycles[41:10], the stamp of an entry (R450). -/
def State.lastStamp (s : State) : Nat := bits s.cycles.toNat 10 32

/-- Ask every package of a granule's MASK but one to give its copies up, the one that has it in M to write them back first; what it
writes back, of the lines that the home's entries let it hold modified, is free, and has arrived when the home goes on (R459; log entry 82). -/
def State.probePeers (s : State) (h : Nat) (p : PeerEntry) (asker : Option Nat) : State :=
  let owns (k : Nat) : Bool := p.state == 2 && p.owner == k
  let ks := p.mask.filter (fun k => some k != asker)
  let s1 := ks.foldl (fun st k => st.send (.peerInvalidate k (p.base * 2048) (owns k))) s
  if !ks.any owns then s1
  else
    let dirty (line : Nat) : Bool := (s.home h).dir.any (fun e => e.covers line && e.state == 3 && e.owner == 4)
    let lines := ((List.range 16).map (fun i => p.base * 16 + i)).filter dirty
    s1.cohPoke noHart ((lines.map (fun k => (List.range 128).map (fun i => (128 * k + i, Config.peerByte s.tick (128 * k + i))))).flatten) []

/-- Recall a range of lines from the peers that hold them: for a reader the one that has a granule in M keeps a clean copy, and
otherwise no peer keeps any (R452, R459). -/
def State.recallPeers (s : State) (h line n : Nat) (reader : Bool) : State :=
  let hit (p : PeerEntry) : Bool := p.base * 16 < line + n && line < p.base * 16 + 16 && (!reader || p.state == 2)
  let s1 := ((s.home h).peers.filter hit).foldl (fun st p => st.probePeers h p none) s
  let left (ps : List PeerEntry) : List PeerEntry :=
    if reader then updWhere hit (fun p => ⟨[p.owner], 1, 0, p.base⟩) ps else ps.filter (fun p => !hit p)
  s1.modHome h (fun m => { m with peers := left m.peers })

/-- The caches of the coherent agents (R227): the die L2 and the remote data cache of compute die 0, then those of die 1, the remote
data cache of the host die, the hub cache and the caches of the hub's service cores. The caches of a host core hold what the
host die's holds (log entry 83). -/
def cacheOf (agent home : Nat) : Nat :=
  match agent with
  | 2 => 4
  | 3 => if home ≥ 2 then 6 else 7
  | a => 2 * a + b2n (home != a)

/-- Lines of a cache of a coherent agent; none is stated for the service cores' caches (R227; log entry 83). -/
def cacheLines : Nat → Option Nat
  | 0 => some (2 ^ 20)
  | 2 => some (2 ^ 20)
  | 6 => some (2 ^ 21)
  | 7 => none
  | _ => some (2 ^ 19)

/-- Change what the caches of the agents chosen hold of some lines; none drops the line. -/
def State.modCopies (s : State) (agents : Nat → Bool) (line n : Nat) (f : CohLine → Option CohLine) : State :=
  let g (l : List CohLine) : List CohLine := l.filterMap (fun c => if line ≤ c.line && c.line < line + n then f c else some c)
  s.modMem (fun m => { m with copies := (List.range 8).foldl (fun cs k =>
    if agents (k / 2) then sset [] cs k (g (sget [] cs k)) else cs) m.copies })

/-- Probe some lines: the agents chosen write back what they hold modified, and keep clean copies or none (R452). -/
def State.probe (s : State) (agents : Nat → Bool) (line n : Nat) (keep : Bool) : State :=
  s.modCopies agents line n (fun c => if keep then some { c with dirty := false } else none)

/-- Take an entry out of a directory, its copies and partials recalled (R451). -/
def State.dropEntry (s : State) (h : Nat) (e : DirEntry) : State :=
  let s1 := if e.state == 4 then s.mergeLines e.base e.lines else s
  let s2 := if e.hold.contains 4 then s1.recallPeers h e.base e.lines false else s1
  (s2.probe (fun _ => true) e.base e.lines false).modHome h (fun m => { m with
    dir := m.dir.filter (fun d => !(d.base == e.base && d.size == e.size)) })

/-- Put an entry into a directory, evicting the entry with the least LAST when none is free (R451). -/
def State.addEntry (s : State) (h : Nat) (e : DirEntry) : State :=
  let d := (s.home h).dir
  let s1 := if d.length ≥ dirCapacity h then
      (match leastBy DirEntry.last d with | some v => s.dropEntry h v | none => s) else s
  s1.modHome h (fun m => { m with dir := m.dir ++ [e] })

/-- Whether a request conflicts with an entry under R452. -/
def conflicts (e : DirEntry) (a : Nat) : DReq → Bool
  | .rd => (e.state == 2 || e.state == 3) && e.owner != a
  | .rdx => (e.state == 1 && e.hold.any (· != a)) || ((e.state == 2 || e.state == 3) && e.owner != a)
  | .hread => e.state == 3
  | .hwrite => e.state != 0 && e.state != 4
  | .redu => e.state != 0 && e.state != 4

/-- The entry after a request, for states S, E and M (R452); none when the unit reaches I. -/
def nextEntry (e : DirEntry) (a : Nat) : DReq → Option DirEntry
  | .rd =>
    if e.state == 1 then some { e with hold := if e.hold.contains a then e.hold else e.hold ++ [a] }
    else if e.owner == a then some e
    else some { e with state := 1, hold := [e.owner, a], owner := 0 }
  | .rdx => some { e with state := 3, hold := [a], owner := a }
  | .hread => if e.state == 3 then some { e with state := 1, hold := [e.owner], owner := 0 } else some e
  | .hwrite => none
  | .redu => some { e with state := 4, hold := [a], owner := 0 }

/-- The entry that a request on a line in I opens (R452); home accesses open none. -/
def openEntry (line size a guest stamp : Nat) : DReq → Option DirEntry
  | .rd => some ⟨2, size, [a], a, guest, line / 2 ^ size * 2 ^ size, stamp⟩
  | .rdx => some ⟨3, size, [a], a, guest, line / 2 ^ size * 2 ^ size, stamp⟩
  | .redu => some ⟨4, size, [a], 0, guest, line / 2 ^ size * 2 ^ size, stamp⟩
  | _ => none

/-- Serve a request from a line in I. -/
def State.serveFree (s : State) (h line a guest : Nat) (k : DReq) : State :=
  match openEntry line (freshSize (s.home h).dir line 9) a guest s.lastStamp k with
  | some e => s.addEntry h e
  | none => s

/-- Whether a unit keeps a guest out: both are guests, and not one (R461). -/
def DirEntry.partitioned (e : DirEntry) (g : Nat) (fw : Bool) : Bool := e.guest != g && g != 0 && !fw && e.guest != 0

/-- Log a rejection of guest `g` at a unit of guest `u`, count it and raise its event (R462, R480). -/
def State.logPartition (s : State) (h line a g u : Nat) : State :=
  let hm := s.home h
  let at_ := hm.plog + 16 * (hm.plogPos % 64)
  let s1 := s.cohPoke noHart (placed at_ (toBytes 8 (line % 2 ^ 45 + g * 2 ^ 45 + u * 2 ^ 51 + a * 2 ^ 57) ++ toBytes 8 s.cycles.toNat)) []
  (s1.modHome h (fun m => { m with plogPos := m.plogPos + 1, rejections := m.rejections + 1 })).raiseEvent 3

/-- A request of agent `a` for guest `g` that takes no copy reaches the home of a line: the state once it is rejected, or none
(R461). -/
def State.rejected (s : State) (pa a g : Nat) (fw : Bool) : Option State :=
  match homeOf pa with
  | none => none
  | some h =>
    match (s.home h).dir.find? (fun e => e.covers (pa / 128)) with
    | some e => if e.partitioned g fw then some (s.logPartition h (pa / 128) a g e.guest) else none
    | none => none

/-- How a home answers a request: it rejects it, serves it at the home, or grants a copy (R452, R461). -/
inductive Grant where
  | no | home | copy
  deriving DecidableEq, Repr

/-- What a request that nothing stands against is granted. -/
def DReq.grant : DReq → Grant
  | .rd => .copy
  | .rdx => .copy
  | _ => .home

/-- Whether a request that conflicts leaves the holders clean copies (R452). -/
def DReq.reads (k : DReq) : Bool := k == .rd || k == .hread

/-- Serve a request that conflicts with an entry: it is split, and what the half with the line's holders have is recalled (R452,
R454). -/
def State.dirSplit (s : State) (h line a : Nat) (e : DirEntry) (k : DReq) : State :=
  let half := e.lines / 2
  let (base, n) := if e.size == 0 then (e.base, 1) else if line < e.base + half then (e.base, half) else (e.base + half, half)
  let mine : DirEntry := { e with size := e.size - 1, base := base }
  let other : DirEntry := { e with size := e.size - 1, base := if base == e.base then e.base + half else e.base }
  let s0 := if e.hold.contains 4 && !(a == 4 && k.grant == .copy) then s.recallPeers h base n k.reads else s
  let s1 := (s0.probe (fun b => b != a || k.grant != .copy) base n k.reads).modHome h (fun m => { m with
    dir := m.dir.filter (fun d => !(d == e)) })
  let s2 := if e.size == 0 then s1 else s1.addEntry h other
  match nextEntry mine a k with
  | some n => s2.addEntry h { n with last := s.lastStamp }
  | none => s2

/-- Serve a request of agent `a` for guest `g` on a line (R452, R454, R461). -/
def State.dirServe (s : State) (h line a g : Nat) (fw : Bool) (k : DReq) : State × Grant :=
  match (s.home h).dir.find? (fun e => e.covers line) with
  | none => (s.serveFree h line a g k, k.grant)
  | some e =>
    let put (e' : DirEntry) : State := s.modHome h (fun m => { m with
      dir := m.dir.map (fun d => if d == e then { e' with last := s.lastStamp } else d) })
    if e.partitioned g fw then (s.logPartition h line a g e.guest, .no)
    else if e.guest != g && (g == 0 || fw) then (s.dropEntry h e, .home)
    else if e.guest != g || (e.state == 4 && k != .redu) then ((s.dropEntry h e).serveFree h line a g k, k.grant)
    else if e.state == 4 then (put { e with hold := if e.hold.contains a then e.hold else e.hold ++ [a] }, k.grant)
    else if conflicts e a k then (s.dirSplit h line a e k, k.grant)
    else
      (match nextEntry e a k with
       | some n => put n
       | none => s.dropEntry h e, k.grant)

/-! ### Page counters and notifications (R412, R427, R472) -/

/-- First frame and number of frames of the page that holds a frame: a 64 KiB page has the record of its first frame, whose
leaf still maps it (R412); while a migration commits, that leaf names the new frame. -/
def State.pageOf (s : State) (f : Nat) : Nat × Nat :=
  let f0 := f / 16 * 16
  let leaf := s.natAt (s.frame f0).ptea 8
  if (s.frame f0).ptea != 0 && bits leaf 8 2 == 1 && s.recFrame (s.normPa (bits leaf 12 40 * 4096) / 4096) == f0 then (f0, 16) else (f, 1)

/-- Whether the leaf that a frame's record names still maps the frame's page, with class KEEPING (R412). -/
def State.isKeeping (s : State) (f : Nat) : Bool :=
  let f0 := (s.pageOf (s.recFrame f)).1
  let ptea := (s.frame f0).ptea
  let leaf := s.natAt (s.readAddr ptea) 8
  ptea != 0 && bit leaf 0 && bits leaf 10 2 == 3 && s.recFrame (s.normPa (bits leaf 12 40 * 4096) / 4096) == f0

/-- Forget the cell records of some frames, and free the pool records that they name (R300, R301). -/
def State.dropCells (s : State) (f n : Nat) : State :=
  let gone (p : Nat × CellRec) : Bool := f ≤ p.1 * 8 / 4096 && p.1 * 8 / 4096 < f + n
  let freed := ((s.hub.cells.filter gone).map (fun p =>
    let r := (s.frame (p.1 * 8 / 4096)).region
    (if p.2.sibrec != 0 then [(r, p.2.sibrec)] else []) ++ (if p.2.esc then [(r, bits p.2.vec.toNat 32 32)] else []))).flatten
  s.modHub (fun u => { u with
    cells := u.cells.filter (fun p => !gone p)
    poolUsed := u.poolUsed.filter (fun q => !freed.contains q) })

/-- Frames that firmware has not given a region page, and that no KEEPING leaf maps any longer, have no cell records, so that one
that becomes KEEPING again starts with one sibling in each cell (R300; log entry 92). -/
def State.endKeeping (s : State) : State :=
  (((s.hub.cells.map (fun p => p.1 * 8 / 4096)).eraseDups).filter (fun f => !(s.frame (s.recFrame f)).kept && !s.isKeeping f)).foldl
    (fun st f => st.dropCells f 1) s

/-- Total of a page's counts, each frame's less its BASE (R474). -/
def FrameRec.total (r : FrameRec) : Nat := r.rd + r.wr - r.base

/-- A home writes a number for itself, as a write at SYSTEM scope (R504). -/
def State.homeWrite (s : State) (pa n v : Nat) : State :=
  let s1 := match homeOf pa with
    | some h => (s.dirServe h (pa / 128) 3 0 true .hwrite).1
    | none => s
  (s1.mergeLines (pa / 128) 1).cohPoke noHart (placed pa (toBytes n v)) []

/-- Write a notification record to a guest's ring, or drop it when the ring is full or notifications are off (R427): the record is
performed before NTAIL (R504). -/
def State.notify (s : State) (guest gpn reason tier : Nat) : State :=
  let d := s.pkg.sys.pdt + 32 * guest
  let w0 := s.natAt d 8
  let w1 := s.natAt (d + 8) 8
  let head := s.natAt (d + 16) 4
  let tail := s.natAt (d + 20) 4
  let lg := bits w1 52 4
  if !bit w0 0 then s
  else if (tail + 2 ^ 32 - head) % 2 ^ 32 ≥ 2 ^ lg then
    (s.homeWrite (d + 8) 8 (putBits w1 63 1 1)).bump (migKey guest 0x27)
  else
    let slot := bits w1 0 52 + 16 * (tail % 2 ^ lg)
    (((s.homeWrite slot 8 (gpn % 2 ^ 40 + reason * 2 ^ 40 + tier * 2 ^ 44)).homeWrite (slot + 8) 8 s.cycles.toNat).homeWrite
      (d + 20) 4 ((tail + 1) % 2 ^ 32)).bump (migKey guest 0x26)

/-- Count a request that a home serves on a line of a frame, and notify at the threshold (R427, R472). A read that HBM or
LPM corrects counts in its RAS counter (R239). -/
def State.count (s : State) (pa : Nat) (write : Bool) : State :=
  let f := s.recFrame (pa / 4096)
  let s1 := (if write || tierOf pa == 2 then s else s.bumpBy (0x40 + 2 * tierOf pa) (b2n (Config.corrected s.tick))).modFrame f (fun r =>
    if write then { r with wr := min (r.wr + 1) (2 ^ 20 - 1) } else { r with rd := min (r.rd + 1) (2 ^ 20 - 1) })
  let (f0, n) := s1.pageOf f
  let r := s1.frame f0
  let total := sumN ((List.range n).map (fun i => (s1.frame (f0 + i)).rd + (s1.frame (f0 + i)).wr))
  let thresh := bits (s1.natAt (s1.pkg.sys.pdt + 32 * r.guest) 8) 8 24
  if r.ntfy && !r.nsent && thresh ≤ total && bit (s1.natAt (s1.pkg.sys.pdt + 32 * r.guest) 8) 0 then
    (s1.notify r.guest r.gpn 1 (tierOf pa)).modFrame f0 (fun q => { q with nsent := true })
  else s1

/-- Whether an agent's cache has a line well enough for a read or a write, so that no request reaches the home. -/
def State.holds (s : State) (h line a : Nat) (write : Bool) : Bool :=
  (s.home h).dir.any (fun e => e.covers line && e.hold.contains a && (e.state == 3 || (!write && e.state != 4))) &&
  (sget [] s.mem.copies (cacheOf a h)).any (fun c => c.line == line && (c.dirty || !write))

/-- A line that an agent gives up to make room leaves its cache: written back when it holds it modified (R452, R472). -/
def State.evictCopy (s : State) (key : Nat) (c : CohLine) : State :=
  let s1 := (s.modMem (fun m => { m with
    copies := sset [] m.copies key ((sget [] m.copies key).filter (fun d => d.line != c.line)) })).countEvicted
      (fun k => decide (192 ≤ k) && agentOf k == key / 2) c.line
  if !c.dirty then s1
  else
    let s2 := s1.count (c.line * 128) true
    match homeOf (c.line * 128) with
    | some h => s2.modHome h (fun m => { m with dir := m.dir.map (fun e => if e.covers c.line then { e with last := s.lastStamp } else e) })
    | none => s2

/-- An agent's cache takes the copy of a line that its home granted, giving up the line that it has had longest when it is full
(R227; log entry 83). The peers' caches are no part of this package. -/
def State.keepCopy (s : State) (h line a : Nat) (write : Bool) : State :=
  if a == 4 then s
  else
    let key := cacheOf a h
    let l := (sget [] s.mem.copies key).filter (fun c => c.line != line)
    let had := (sget [] s.mem.copies key).any (fun c => c.line == line && c.dirty)
    let s1 := s.modMem (fun m => { m with copies := sset [] m.copies key (l ++ [⟨line, write || had⟩]) })
    match cacheLines key, l with
    | some cap, c :: _ => if l.length ≥ cap then s1.evictCopy key c else s1
    | _, _ => s1

/-- An agent's access to a line at a coherent level: it asks the home when its cache does not hold the line, which merges
partials, counts the request and may reject it (R268, R452, R461, R472). `home` marks one performed at the home, which takes no
copy (R449, R460). -/
def State.cohTouch (s : State) (a g : Nat) (fw : Bool) (line : Nat) (write home : Bool) : State × Bool :=
  match homeOf (line * 128) with
  | none => (s.mergeLines line 1, true)
  | some h =>
    if !home && s.holds h line a write then (s, true)
    else
      let (s1, got) := s.dirServe h line a g fw
        (if home then (if write then .hwrite else .hread) else if write then .rdx else .rd)
      let s2 := (s1.mergeLines line 1).count (line * 128) write
      match got with
      | .no => (s1, false)
      | .home => (s2, true)
      | .copy => (s2.keepCopy h line a write, true)

/-! ### Scoped caches (R227 to R229) -/

/-- The cluster cache of a cluster. -/
def State.cluster (s : State) (c : Nat) : Cache := sget Cache.init s.mem.clusters c

/-- Write a cluster cache. -/
def State.setCluster (s : State) (c : Nat) (k : Cache) : State :=
  s.modMem (fun m => { m with clusters := sset Cache.init m.clusters c k })

/-- Write a core's L1. -/
def State.setL1 (s : State) (c : Nat) (k : Cache) : State := s.modCore c (fun q => { q with l1 := k })

/-- A byte of a cache. -/
def Cache.get (c : Cache) (a : Nat) : Option CByte := sget none c.bytes a

/-- Note that STREAM brings a line in that the cache does not hold yet (R249). -/
def Cache.streamed (c : Cache) (stream : Bool) (line : Nat) : Cache :=
  if stream && !(c.bytes.any (fun p => p.1 / 128 == line) || c.low.contains line) then { c with low := c.low ++ [line] } else c

/-- Put clean bytes into a cache, leaving those that it has alone. -/
def Cache.fill (c : Cache) (l : List (Nat × Byte)) (mark : Bool) : Cache :=
  { c with
    bytes := l.foldl (fun m p => if (sget none m p.1).isSome then m else sset none m p.1 (some ⟨p.2, false, 0⟩)) c.bytes
    marks := if mark then (l.map (fun p => p.1 / 32)).foldl (fun ms k => if ms.contains k then ms else ms ++ [k]) c.marks
      else c.marks }

/-- Write bytes into a cache, each with its guest, as one write (R74, R228). -/
def Cache.put (c : Cache) (l : List (Nat × CByte)) (poison : List Nat) : Cache :=
  { c with
    bytes := l.foldl (fun m p => sset none m p.1 (some p.2)) c.bytes
    marks := marksAfter c.marks (l.map Prod.fst) poison }

/-- Write bytes of a guest into a cache as dirty (R228). -/
def Cache.store (c : Cache) (guest : Nat) (l : List (Nat × Byte)) (poison : List Nat) : Cache :=
  c.put (l.map (fun p => (p.1, ⟨p.2, true, guest⟩))) poison

/-- Whether a cache holds a sector whole: validity is tracked per sector (R227). -/
def Cache.whole (c : Cache) (sec : Nat) : Bool := (List.range 32).all (fun i => (c.get (32 * sec + i)).isSome)

/-- Marks left once a cache holds only the bytes given. -/
def keepMarks (bytes : Sparse (Option CByte)) (marks : List Nat) : List Nat :=
  marks.filter (fun k => bytes.any (fun p => p.1 / 32 == k))

/-- A cache that holds only some bytes of what it held. -/
def Cache.only (c : Cache) (b : Sparse (Option CByte)) : Cache :=
  ⟨b, keepMarks b c.marks, c.low.filter (fun k => b.any (fun p => p.1 / 128 == k))⟩

/-- Update the bytes of a store that a cache already holds, which are written below it in the same step: they are Clean, and leave a
sector that the cache does not hold whole, where no clean byte is valid (R227, R275, R276). -/
def Cache.refresh (c : Cache) (l : List (Nat × Byte)) (poison : List Nat) : Cache :=
  let have_ := l.filter (fun p => (c.get p.1).isSome)
  if have_.isEmpty then c
  else
    let c1 := c.put (have_.map (fun p => (p.1, ⟨p.2, false, 0⟩))) (poison.filter (fun a => have_.any (fun p => p.1 == a)))
    c1.only (c1.bytes.filter (fun p => match p.2 with | some b => b.dirty || c.whole (p.1 / 32) | none => false))

/-- The dirty bytes of a cache within a set of addresses. -/
def Cache.dirty (c : Cache) (sel : Nat → Bool) : List (Nat × CByte) :=
  (c.bytes.filterMap (fun p => match p.2 with
    | some b => if b.dirty && sel p.1 then some (p.1, b) else none
    | none => none))

/-- Invalidate the clean bytes of a cache within a set of addresses (R229). -/
def Cache.dropClean (c : Cache) (sel : Nat → Bool) : Cache :=
  c.only (c.bytes.filter (fun p => match p.2 with | some q => q.dirty || !sel p.1 | none => false))

/-- Invalidate every byte of a cache within a set of addresses. -/
def Cache.dropAll (c : Cache) (sel : Nat → Bool) : Cache := c.only (c.bytes.filter (fun p => !sel p.1))

/-- The dirty bytes of a cache within a set of addresses have been written back: in a sector that the cache holds whole they are
clean, elsewhere they leave it (R227, R276). -/
def Cache.clean (c : Cache) (sel : Nat → Bool) : Cache :=
  c.only (c.bytes.filterMap (fun p => match p.2 with
    | some q =>
      if !(q.dirty && sel p.1) then some p
      else if c.whole (p.1 / 32) then some (p.1, some { q with dirty := false, guest := 0 }) else none
    | none => none))

/-- Addresses among some bytes whose sector a cache marks. -/
def Cache.poisoned (c : Cache) (l : List (Nat × CByte)) : List Nat :=
  (l.map Prod.fst).filter (fun a => c.marks.contains (a / 32))

/-- A write-back from a scoped cache reaches the coherent level: the die's agent takes each line exclusively for the guest whose
stores it carries, and a line its home rejects is discarded (R228, R271, R449, R452, R517). -/
def State.writeBack (s : State) (agent : Nat) (l : List (Nat × CByte)) (poison : List Nat) : State :=
  ((l.map (fun p => (p.1 / 128, p.2.guest))).eraseDups).foldl (fun st k =>
    let (s1, ok) := st.cohTouch agent k.2 false k.1 true false
    let bytes := (l.filter (fun p => p.1 / 128 == k.1 && p.2.guest == k.2)).map (fun p => (p.1, p.2.b))
    if ok then s1.cohPoke noHart (s1.guarded .user bytes) (poison.filter (fun a => bytes.any (fun p => p.1 == a))) else s1) s

/-! ### Lamport stamps of lines (R283) -/

/-- The number of a point that keeps stamps: 0 the coherent points, 1 + c the L1 of core c, 1000 + k cluster cache k. -/
def pointNo (level core : Nat) : Nat := if level == 0 then 1 + core else if level == 1 then 1000 + clusterOf core else 0

/-- The key of a line's stamp at a point: at the coherent points the stamp is with the bytes, in the frame that serves reads of
the line (R420). -/
def State.stampKey (s : State) (p line : Nat) : Nat := p * 2 ^ 46 + (if p == 0 then s.readAddr (128 * line) / 128 else line)

/-- The stamp of a line at a point. -/
def State.stampAt (s : State) (p line : Nat) : Nat := sget 0 s.mem.stamps (s.stampKey p line)

/-- Raise a stamp by its key. -/
def State.raiseStamp (s : State) (key ts : Nat) : State :=
  s.modMem (fun m => { m with stamps := sset 0 m.stamps key (max ts (sget 0 m.stamps key)) })

/-- Raise the stamp of a line at a point. -/
def State.setStamp (s : State) (p line ts : Nat) : State := s.raiseStamp (s.stampKey p line) ts

/-- A line carries its stamp from one point to another. -/
def State.carryStamp (s : State) (p q line : Nat) : State := s.setStamp q line (s.stampAt p line)

/-- Lines carry their stamps from one point to another. -/
def State.carryStamps (s : State) (p q : Nat) (l : List (Nat × CByte)) : State :=
  ((l.map (fun b => b.1 / 128)).eraseDups).foldl (fun st k => st.carryStamp p q k) s

/-- Release the held LDP requests of a level (0 L1, 1 cluster cache) on a core's path to some lines, for a write by hart `h`
(R254). -/
def State.releaseAt (s : State) (h level core : Nat) (lines : List Nat) : State :=
  s.modMem (fun m => { m with reqs := releaseLdp h (fun r =>
    r.level == level && (if level == 0 then r.core == core else clusterOf r.core == clusterOf core)) lines m.reqs })

/-- The lines that a cache holds any byte of. -/
def lineNos : Sparse (Option CByte) → List Nat
  | [] => []
  | p :: r =>
    match lineNos r with
    | k :: l => if k == p.1 / 128 then k :: l else p.1 / 128 :: k :: l
    | [] => [p.1 / 128]

/-- The lines that a cache of `cap` lines gives up to keep within it, those that STREAM brought in first, the line just used and those
that may not move left alone (R227, R249; log entry 67). -/
def Cache.victims (c : Cache) (cap keep : Nat) (stay : Nat → Bool) : List Nat :=
  if c.bytes.length ≤ cap then []
  else
    let ls := (lineNos c.bytes).filter (fun k => k != keep && !stay k)
    (ls.filter (fun k => c.low.contains k) ++ ls.filter (fun k => !c.low.contains k)).take ((lineNos c.bytes).length - cap)

/-- Lines of an L1 of 256 KiB (R227). -/
def l1Lines : Nat := 2048
/-- Lines of a cluster cache of 8 MiB (R227). -/
def clusterLines : Nat := 65536

/-- Write the dirty bytes of a cluster cache within a set of addresses back to the coherent level. -/
def State.clusterBack (s : State) (cl : Nat) (sel : Nat → Bool) : State :=
  let c := s.cluster cl
  let d := c.dirty sel
  if d.isEmpty then s
  else ((s.writeBack (cl / 12) d (c.poisoned d)).setCluster cl (c.clean sel)).carryStamps (1000 + cl) 0 d

/-- Keep a cluster cache within its size: lines leave it as in an eviction (R227, R228). -/
def State.fitCluster (s : State) (cl keep : Nat) : State :=
  ((s.cluster cl).victims clusterLines keep (fun k => (s.cursorMig (128 * k)).isSome || !s.routeOpen (8 * cl) (128 * k))).foldl (fun st k =>
    let s1 := st.clusterBack cl (fun a => a / 128 == k)
    (s1.setCluster cl ((s1.cluster cl).dropAll (fun a => a / 128 == k))).countEvicted (fun c => decide (c < 192) && clusterOf c == cl) k) s

/-- Write the dirty bytes of a core's L1 within a set of addresses back to its cluster cache, as writes of another agent to
what waits there (R254). -/
def State.l1Back (s : State) (core : Nat) (sel : Nat → Bool) : State :=
  let c := (s.core core).l1
  let d := c.dirty sel
  if d.isEmpty then s
  else
    let k := clusterOf core
    let s1 := (s.setCluster k ((s.cluster k).put d (c.poisoned d))).releaseAt noHart 1 core ((d.map (fun p => p.1 / 128)).eraseDups)
    ((s1.setL1 core (c.clean sel)).carryStamps (1 + core) (1000 + k) d).fitCluster k ((d.map Prod.fst).headD 0 / 128)

/-- Keep a core's L1 within its size (R227, R228). -/
def State.fitL1 (s : State) (core keep : Nat) : State :=
  ((s.core core).l1.victims l1Lines keep (fun k => (s.cursorMig (128 * k)).isSome)).foldl (fun st k =>
    let s1 := st.l1Back core (fun a => a / 128 == k)
    (s1.setL1 core ((s1.core core).l1.dropAll (fun a => a / 128 == k))).countEvicted (· == core) k) s

/-- Write bytes of one line into a core's L1 as dirty (R228). -/
def State.storeL1 (s : State) (core guest : Nat) (stream : Bool) (l : List (Nat × Byte)) (poison : List Nat) : State :=
  let line := (l.headD (0, 0)).1 / 128
  (s.setL1 core (((s.core core).l1.streamed stream line).store guest l poison)).fitL1 core line

/-- Write bytes of one line into a cluster cache as dirty (R228). -/
def State.storeCluster (s : State) (cl guest : Nat) (stream : Bool) (l : List (Nat × Byte)) (poison : List Nat) : State :=
  let line := (l.headD (0, 0)).1 / 128
  (s.setCluster cl (((s.cluster cl).streamed stream line).store guest l poison)).fitCluster cl line

/-- The release actions of a scope on a core's path (R229); a host-die or hub core has none to do (R231). -/
def State.release (s : State) (core scope : Nat) : State :=
  if core ≥ 192 || scope == 0 then s
  else
    let s1 := s.l1Back core (fun _ => true)
    if scope == 1 then s1 else s1.clusterBack (clusterOf core) (fun _ => true)

/-- The acquire actions of a scope on a core's path (R229). -/
def State.acquire (s : State) (core scope : Nat) : State :=
  if core ≥ 192 || scope == 0 then s
  else
    let s1 := s.setL1 core ((s.core core).l1.dropClean (fun _ => true))
    if scope == 1 then s1
    else s1.setCluster (clusterOf core) ((s1.cluster (clusterOf core)).dropClean (fun _ => true))

/-- Bring the sectors of a range into a core's cluster cache (and its L1 unless bypassed) as a weak load does, each
sector once; false where a home rejects the request (R227, R229, R452). -/
def State.fetchSector (s : State) (core guest : Nat) (fw nol1 stream : Bool) (sec : Nat) : State × Bool :=
  let cl := clusterOf core
  let line := sec / 4
  if (s.core core).l1.whole sec then (s, true)
  else
    let s := s.pmcAdd core 8 1 guest none
    let (s1, ok) :=
      if (s.cluster cl).whole sec then (s, true)
      else
        let (t, ok) := (s.pmcAdd core 9 1 guest none).cohTouch (agentOf core) guest fw line false false
        if ok then
          let (bs, bad) := t.cohPeek (32 * sec) 32
          let c := ((t.cluster cl).streamed stream line).fill (placed (32 * sec) bs) bad
          (((t.setCluster cl c).carryStamp 0 (1000 + cl) line).fitCluster cl line, true)
        else (t, false)
    if !ok then (s1, false)
    else if nol1 then (s1, true)
    else
      let c := s1.cluster cl
      let bs := (List.range 32).map (fun i => (32 * sec + i, ((c.get (32 * sec + i)).map CByte.b).getD 0))
      let l1 := ((s1.core core).l1.streamed stream line).fill bs (c.marks.contains sec)
      (((s1.setL1 core l1).carryStamp (1000 + cl) (1 + core) line).fitL1 core line, true)

/-- Whether an access of a core at a level ends at a cache that holds its sector, so that it crosses no link (R16, R227, R250). -/
def State.servedBelow (s : State) (core level pa : Nat) (write : Bool) : Bool :=
  (decide (core < 192) && ((level == 0 && (s.core core).l1.whole (pa / 32)) || (level ≤ 1 && (s.cluster (clusterOf core)).whole (pa / 32)))) ||
  (level ≤ 2 && ((homeOf pa).map (fun h => s.holds h (pa / 128) (agentOf core) write)).getD false)

/-- Whether an access of a core can reach the point that serves it: below the home, or over the links of its route (R16). -/
def State.reachable (s : State) (core level pa : Nat) (write : Bool) : Bool :=
  s.servedBelow core level pa write || s.routeOpen core pa

/-- A byte as a core's weak load finds it once its sector is fetched: L1 first, then the cluster cache. -/
def State.scopedByte (s : State) (core a : Nat) : Byte × Bool :=
  match (s.core core).l1.get a with
  | some b => (b.b, (s.core core).l1.marks.contains (a / 32))
  | none =>
    match (s.cluster (clusterOf core)).get a with
    | some b => (b.b, (s.cluster (clusterOf core)).marks.contains (a / 32))
    | none => (s.byte (s.readAddr a), s.marked a)

/-- Requests that homes have rejected so far, to notice a new one (R462). -/
def State.rejCount (s : State) : Nat := sumN ((List.range 4).map (fun h => (s.home h).rejections.toNat))

/-- A weak read of bytes of one sector by a hart: through the scoped caches on a compute core, at the coherent level
otherwise or where the page bypasses them, at the home for pages that are cached nowhere (R230, R248). Answers the
bytes, whether they are uncorrectable, and the state; a rejected request gives uncorrectable data (R517). -/
def State.weakRead (s : State) (core guest : Nat) (fw bypass home nol1 stream : Bool) (a n : Nat) : List Byte × Bool × State :=
  if core ≥ 192 || bypass || home then
    let miss := decide (core ≥ 192) && !home && !(((homeOf a).map (fun h => s.holds h (a / 128) (agentOf core) false)).getD true)
    let s0 := if miss then s.pmcAdd core 8 1 guest none else s
    let (s1, ok) := s0.cohTouch (agentOf core) guest fw (a / 128) false home
    let (bs, bad) := s1.cohPeek a n
    (bs, bad || !ok, s1)
  else
    let (s1, ok) := s.fetchSector core guest fw nol1 stream (a / 32)
    let l := (List.range n).map (fun i => s1.scopedByte core (a + i))
    (l.map Prod.fst, l.any Prod.snd || !ok, s1)

end Sys2Proof.Machine
end

