-- ==== Sys2Proof/Machine/Translate.lean ====
section
/-! DEFINITION. Address translation: the page tables of both stages, the checks of a walk, accessed and dirty bits, the
translation caches, interleaved pages, placement records, mapping notices and park entries (10_spaces R218, R232 to
R237; 18_translation R404 to R412, R424, R425). -/
namespace Sys2Proof.Machine

/-- Whose address is translated: the core, guest and mode, the table bases in force (R407), and who asks: a hart by its number, an
asynchronous operation, or the hub. -/
structure XCtx where
  core : Nat
  guest : Nat
  mode : Mode
  s1ptb : Nat
  s2ptb : Nat
  who : Nat
  deriving DecidableEq, Repr

/-- The translation that the hub and the launch unit work under. -/
def hubCtx (guest s1ptb s2ptb : Nat) : XCtx := ⟨256, guest, .host, s1ptb, s2ptb, noHart⟩

/-- The translation of a running hart. -/
def State.xctx (s : State) (h : Nat) : XCtx :=
  let t := s.hart h
  ⟨coreOf h, t.guest, t.mode, t.sup.s1ptb.toNat, t.sup.s2ptb.toNat, h⟩

/-- What a walk of one table finds: a leaf with its address and the leaves that gave the addresses of its tables, a park entry
(R425), or a fault. -/
inductive Walk where
  | leaf (pte at_ : Nat) (via : List Nat)
  | park (pte at_ : Nat)
  | bad (stage : Nat)
  deriving DecidableEq, Repr

/-- The answer of a translation: the effective values and the host physical address, a fault with its cause and
stage (R189), or a hold until a promotion ends (R425). -/
inductive XRes where
  | ok (t : Trans) (pa : Nat)
  | fault (cause stage : Nat)
  | hold
  deriving DecidableEq, Repr

/-- What a two-stage walk finds: the effective translation and address with the stage-2 leaves that gave the addresses of stage-1
tables, a fault, or a park entry with its value and address (R425). -/
inductive WalkRes where
  | found (t : Trans) (pa : Nat) (via : List Nat)
  | fault (cause stage : Nat)
  | parked (pte leaf : Nat)
  deriving DecidableEq, Repr

/-- Whether an entry is a pointer (R405). -/
def pteIsPointer (p : Nat) : Bool := bit p 0 && bits p 1 3 == 0

/-- The checks of a valid entry at a level (R405, R406). -/
def pteOk (p level : Nat) : Bool :=
  if pteIsPointer p then level != 0 && bits p 4 8 == 0 && bits p 52 12 == 0
  else bits p 60 4 == 0 && !(bit p 2 && !bit p 1) &&
    (match bits p 8 2 with
     | 0 => level == 0
     | 1 => level == 0 && bits p 12 40 % 16 == 0
     | 2 => level == 1
     | _ => level == 2)

/-- Walk a table from a level down (R404). `xl` translates the address of an entry, naming the leaf it uses, or gives how its own walk
fails; `parks` says that the table may hold park entries (R425), and `via` are the leaves used so far. -/
def walkFrom (s : State) (stage : Nat) (parks : Bool) (xl : Nat → Except Walk (Nat × List Nat)) (input : Nat) :
    Nat → Nat → List Nat → Walk
  | level, table, via =>
    match xl (table + 8 * bits input (12 + 9 * level) 9) with
    | .error w => w
    | .ok (gpa, used) =>
      let pa := s.normPa gpa
      let p := s.natAt (s.readAddr pa) 8
      if !s.paValid pa then .bad 1
      else if !bit p 0 then (if parks && bits p 60 4 == 0xA then .park p pa else .bad stage)
      else if !pteOk p level then .bad stage
      else if pteIsPointer p then
        match level with
        | 0 => .bad stage
        | n + 1 => walkFrom s stage parks xl input n (bits p 12 40 * 4096) (via ++ used)
      else .leaf p pa (via ++ used)

/-- Page size in bytes of a leaf (R405). -/
def pteSize (p : Nat) : Nat :=
  match bits p 8 2 with
  | 0 => 4096 | 1 => 65536 | 2 => 2 ^ 21 | _ => 2 ^ 30

/-- What a translation of an address by a leaf covers: its page, but only the 4 KiB of its own entry where the entries of a 64 KiB page
differ in more than A and D (R406). -/
def State.leafSpan (s : State) (p at_ : Nat) : Nat :=
  let plain (e : Nat) : Nat := putBits e 6 2 0
  if bits p 8 2 == 1 &&
      (List.range 16).any (fun i => plain (s.natAt (s.readAddr (at_ / 128 * 128 + 8 * i)) 8) != plain p) then 4096
  else pteSize p

/-- The class must allow the page size (R235). -/
def pteClassOk (p : Nat) : Bool :=
  match bits p 10 2 with
  | 1 => true
  | 2 => bits p 8 2 == 2
  | _ => bits p 8 2 ≤ 1

/-- The address that a leaf of any class but INTERLEAVED gives an input address. -/
def pteAddr (p input : Nat) : Nat := bits p 12 40 * 4096 + input % pteSize p

/-- Targets of an interleave descriptor as (first frame, weight), or none where it breaks R236 or R237. -/
def interleave (s : State) (at_ : Nat) : Option (List (Nat × Nat)) :=
  let desc := s.readAddr (s.normPa at_)
  let ws := (List.range 4).map (fun j => s.natAt (desc + 8 * j) 8)
  let tg := ws.map (fun w => (bits w 12 40, bits w 52 4))
  let p := sumN (tg.map Prod.snd)
  let resOk := ws.all (fun w => bits w 0 12 == 0 && bits w 56 8 == 0) && s.natAt (desc + 32) 8 == 1 &&
    s.natAt (desc + 40) 8 == 0 && s.natAt (desc + 48) 8 == 0 && s.natAt (desc + 56) 8 == 0
  let ok (j : Nat) : Bool :=
    match tg[j]? with
    | some (b, w) =>
      let before := sumN ((tg.take j).map Prod.snd)
      let n := 512 / p * w + min (512 % p - before) w
      w == 0 || (selector (b * 4096) ≤ 3 && s.paValid (b * 4096) && s.paValid ((b + n - 1) * 4096) &&
        selector (b * 4096) == selector ((b + n - 1) * 4096) &&
        (selector (b * 4096) != 3 || bits (b * 4096) 38 7 == bits ((b + n - 1) * 4096) 38 7))
    | none => true
  if resOk && p != 0 && (List.range 4).all ok then some tg else none

/-- The runs of frames of an interleaved page, as (first frame, number) (R237). -/
def interRuns (tg : List (Nat × Nat)) : List (Nat × Nat) :=
  let p := sumN (tg.map Prod.snd)
  (List.range tg.length).filterMap (fun j => tg[j]?.bind (fun q =>
    if q.2 == 0 then none else some (q.1, 512 / p * q.2 + min (512 % p - sumN ((tg.take j).map Prod.snd)) q.2)))

/-- The address that an interleaved page gives its input address (R237). -/
def interAddr (tg : List (Nat × Nat)) (va : Nat) : Nat :=
  let p := sumN (tg.map Prod.snd)
  let st := bits va 12 9
  let q := st / p
  let r := st % p
  let pick := (List.range 4).find? (fun j =>
    let c := sumN ((tg.take j).map Prod.snd)
    c ≤ r && r < c + ((tg[j]?.map Prod.snd).getD 0))
  match pick with
  | some j =>
    let c := sumN ((tg.take j).map Prod.snd)
    match tg[j]? with
    | some (b, w) => b * 4096 + (q * w + r - c) * 4096 + va % 4096
    | none => 0
  | none => 0

/-- Set the accessed bit of a leaf, and the dirty bit for a store, with an indivisible OR (R409). -/
def State.setAD (s : State) (at_ : Nat) (dirty : Bool) : State :=
  let b := s.natAt (s.readAddr at_) 1
  let b' := b ||| 0x40 ||| (if dirty then 0x80 else 0)
  if b' == b then s else s.cohPoke noHart (placed at_ (toBytes 1 b')) []

/-- The frames that a translation reaches, as runs (R237, R408). -/
def Trans.runs (t : Trans) : List (Nat × Nat) := if t.inter.isEmpty then [(t.frame / 4096, t.size / 4096)] else interRuns t.inter

/-- The frame record that a walk updates when it installs a translation (R412, R472). Frames that are not KEEPING, or that nothing
maps as KEEPING any longer, have no cell records, so that each cell of one that becomes KEEPING starts with one sibling (R300). A 64 KiB page uses the record of its
first frame, with the first of its sixteen entries as the leaf, and the counts of all. -/
def State.noteWalk (s0 : State) (t : Trans) (pa gpn : Nat) : State :=
  if (homeOf pa).isNone then s0
  else
    let s := if t.pcls == 3 then s0.endKeeping else t.runs.foldl (fun st r => st.dropCells r.1 r.2) s0
    let big := t.gsize == 65536
    let f := s.recFrame (if big then pa / 65536 * 16 else pa / 4096)
    let leaf := if big then t.leaf / 128 * 128 else t.leaf
    let r := s.frame f
    if r.ptea != 0 && r.ptea != leaf then s.modFrame f (fun q => { q with multi := true })
    else
      let s1 := if r.guest == t.guest then s
        else (List.range (if big then 16 else 1)).foldl (fun st i =>
          st.modFrame (f + i) (fun q => { q with base := min (q.rd + q.wr) (2 ^ 20 - 1) })) s
      s1.modFrame f (fun q => { q with guest := t.guest, gpn := gpn, ntfy := t.ntfy, ptea := leaf })

/-- The translation caches that serve a core, nearest first, with their sizes (R410): core TLBs by core number,
cluster TLBs at 1000, die caches at 2000, the hub cache at 2003. -/
def tlbPath (core : Nat) : List (Nat × Nat) :=
  if core < 192 then [(core, 256), (1000 + clusterOf core, 4096), (2000 + dieOf core, 65536)]
  else if core < 256 then [(core, 2048), (2003, 16384)]
  else [(2003, 16384)]

/-- Whether a cached entry serves an address (R410). -/
def Trans.matches (t : Trans) (cx : XCtx) (va : Nat) : Bool :=
  t.guest == cx.guest && (match t.asid with | some a => a == cx.s1ptb % 4096 | none => true) &&
  t.va ≤ va && va < t.va + t.size

/-- Install an entry in the caches of a path, the oldest making room (log entry 10). -/
def State.install (s : State) (core : Nat) (t : Trans) : State :=
  (tlbPath core).foldl (fun st p => st.modMem (fun m => { m with
    tlbs := sset [] m.tlbs p.1 ((t :: (sget [] m.tlbs p.1).filter (fun u =>
      !(u.guest == t.guest && u.asid == t.asid && u.va == t.va && u.size == t.size))).take p.2) })) s

/-- A cached translation for an address. -/
def State.cached (s : State) (cx : XCtx) (va : Nat) : Option Trans :=
  (tlbPath cx.core).findSome? (fun p => (sget [] s.mem.tlbs p.1).find? (fun t => t.matches cx va))

/-- The host physical address of an address within a cached page. -/
def Trans.addr (t : Trans) (va : Nat) : Nat :=
  if t.inter.isEmpty then t.frame + (va - t.va) else interAddr t.inter (if t.stage2 then t.gpa + (va - t.va) else va)

/-- The size that a cached translation covers: the smaller of the two stages' (R408), halved down to a frame until the two
addresses stand alike in it. -/
def congruentSize (va gpa size : Nat) : Nat :=
  ([2 ^ 30, 2 ^ 21, 65536].find? (fun n => n ≤ size && va % n == gpa % n)).getD 4096

/-- Two-stage walk of a virtual address; nothing is installed (R404 to R408). -/
def State.walk (s : State) (cx : XCtx) (va : Nat) : WalkRes :=
  let two := bits cx.s2ptb 12 40 != 0
  let s2 (gpa : Nat) : Walk := walkFrom s 1 true (fun a => .ok (a, [])) (gpa % 2 ^ 52) 4 (bits cx.s2ptb 12 40 * 4096) []
  let xl (gpa : Nat) : Except Walk (Nat × List Nat) :=
    if !two then .ok (gpa, [])
    else match s2 gpa with
      | .leaf p a _ =>
        if !pteClassOk p then .error (.bad 1)
        else if bits p 10 2 == 2 then
          (match interleave s (bits p 12 40 * 4096) with
           | some tg => .ok (interAddr tg gpa, [a])
           | none => .error (.bad 1))
        else .ok (pteAddr p gpa, [a])
      | w => .error w
  match walkFrom s 0 (!two) xl (va % 2 ^ 57) 4 (bits cx.s1ptb 12 40 * 4096) [] with
  | .bad st => (.fault 5 st)
  | .park p a => .parked p a
  | .leaf p1 a1 via =>
    let asid := if bit p1 5 then none else some (cx.s1ptb % 4096)
    let gpa := pteAddr p1 va % 2 ^ 52
    let mk (pc : Nat) (a2 : Nat) (size frame : Nat) (inter : List (Nat × Nat)) : Trans :=
      { guest := cx.guest, asid := asid, va := va % 2 ^ 64 / size * size, gpa := gpa / size * size, size := size
        frame := frame
        r := bit p1 1 && bit pc 1, w := bit p1 2 && bit pc 2, x := bit p1 3 && bit pc 3, usr := bit p1 4
        d := bit p1 7 && bit pc 7, upin1 := bit p1 56, upin2 := bit pc 56, pcls := bits pc 10 2, taff := bits pc 52 3
        taff1 := bits p1 52 3, ntfy := bit pc 55, nc := bit p1 57 || bit pc 57 || bit pc 59
        ru := bit p1 58 && bit pc 58, shr := bit pc 59, r1 := bit p1 1, w1 := bit p1 2, x1 := bit p1 3
        inter := inter, stage2 := two, gsize := pteSize pc, leaf := a2, leaf1 := a1 }
    let size1 := s.leafSpan p1 a1
    if !two then
      if !pteClassOk p1 then (.fault 5 0)
      else if bits p1 10 2 == 2 then
        match interleave s (bits p1 12 40 * 4096) with
        | none => (.fault 5 1)
        | some tg => .found (mk p1 a1 size1 (bits p1 12 40 * 4096) tg) (interAddr tg va) via
      else .found (mk p1 a1 size1 (pteAddr p1 (va / size1 * size1) % 2 ^ 52) []) gpa via
    else
      match s2 gpa with
      | .bad st => (.fault 5 st)
      | .park p a => .parked p a
      | .leaf p2 a2 _ =>
        let size := congruentSize va gpa (min size1 (s.leafSpan p2 a2))
        if !pteClassOk p2 then (.fault 5 1)
        else if bits p2 10 2 == 2 then
          match interleave s (bits p2 12 40 * 4096) with
          | none => (.fault 5 1)
          | some tg => .found (mk p2 a2 size (bits p2 12 40 * 4096) tg) (interAddr tg gpa) via
        else .found (mk p2 a2 size (pteAddr p2 (gpa / size * size)) []) (pteAddr p2 gpa) via

/-- Permission of an access (R405, R408): none when allowed, otherwise the stage that lacks it. -/
def Trans.deny (t : Trans) (mode : Mode) (acc : AccessKind) (write : Bool) : Option Nat :=
  if mode == .user && !t.usr then some 0
  else match acc with
    | .fetch => if mode == .guest && t.usr then some 0 else if t.x then none else some (if t.x1 then 1 else 0)
    | _ => if write then (if t.w then none else some (if t.w1 then 1 else 0))
      else if t.r then none else some (if t.r1 then 1 else 0)

/-- The leaf that a promotion of a park entry rewrites: the first of the sixteen of a 64 KiB page. -/
def parkLeaf (pte leaf : Nat) : Nat := if bits pte 8 2 == 1 then leaf / 128 * 128 else leaf

/-- A promotion that a walk sends for a park entry (R425): a MOVE to the first tier that the entry allows, on HBM to the requester's
die; one from outside the compute dies goes to the die that R417 chooses (log entry 81). -/
def promoCmd (pte leaf guest die : Nat) : MigCmd :=
  let taff := bits pte 52 3
  let tier := if bit taff 0 then 0 else if bit taff 1 then 1 else 2
  ⟨tier * 16 + (if die < 2 then 64 + die * 128 else 0) + guest * 256, 0, none, none, 0, none, some (parkLeaf pte leaf), 0, 0⟩

/-- An access that meets a park entry (R425): it faults when the promotion that it waited for has failed, and otherwise waits for the
promotion under way, or for one that it sends (log entry 81). -/
def State.meetPark (s : State) (cx : XCtx) (pte leaf : Nat) : XRes × State :=
  let at_ := parkLeaf pte leaf
  let failed (q : Promo) : Bool := q.leaf == at_ && q.status.isSome && q.waits.contains cx.who
  let running (q : Promo) : Bool := q.leaf == at_ && q.status.isNone
  if s.hub.promos.any failed then
    (.fault 5 1, s.modHub (fun u => { u with
      promos := (updWhere failed (fun q => { q with waits := q.waits.filter (· != cx.who) }) u.promos).filter (fun q => !q.waits.isEmpty) }))
  else if s.hub.promos.any running then
    (.hold, s.modHub (fun u => { u with promos := updWhere running (fun q => { q with
      waits := if q.waits.contains cx.who then q.waits else q.waits ++ [cx.who] }) u.promos }))
  else (.hold, s.modHub (fun u => { u with
    promos := u.promos ++ [⟨at_, none, [cx.who]⟩]
    migQueue := u.migQueue ++ [promoCmd pte leaf cx.guest (dieOf cx.core)] }))

/-- A state whose walks wait for the promotions that another waits for (R425). -/
def State.keepPromos (s w : State) : State :=
  s.modHub (fun u => { u with promos := w.hub.promos, migQueue := w.hub.migQueue })

/-- The final checks of an address: installed memory that is not lost, and the firmware selector (R233, R463). -/
def State.paFault (s : State) (mode : Mode) (pa : Nat) : Option XRes :=
  if !s.paValid pa || s.shotDown pa then some (.fault 5 1)
  else if selector pa == 15 && mode != .fw then some (.fault 6 1)
  else none

/-- The checks of a translation that a walk or a cache gives: installed memory first, then the permissions (R191, R233). -/
def State.transFault (s : State) (cx : XCtx) (t : Trans) (pa : Nat) (acc : AccessKind) (write : Bool) : Option XRes :=
  match s.paFault cx.mode pa with
  | some f => some f
  | none => (t.deny cx.mode acc write).map (fun st => XRes.fault 6 st)

/-- A walk that finds a leaf: the mapping notices of a peer's frames (R424), accessed and dirty bits (R409), the frame record and
the translation caches (R410, R412), then the access. A store that the translation permits leaves the entry dirty. -/
def State.walked (s : State) (cx : XCtx) (va : Nat) (acc : AccessKind) (write : Bool) (t : Trans) (pa : Nat) (via : List Nat) :
    XRes × State :=
  match s.paFault cx.mode pa with
  | some f => (f, s)
  | none =>
    let far := t.runs.filter (fun r => selector (r.1 * 4096) == 3 && bits (r.1 * 4096) 39 6 != s.pkg.pkg)
    let s0 := far.foldl (fun st r => st.send (.mappingNotice (bits (r.1 * 4096) 39 6) (r.1 * 4096) r.2)) s
    if !far.isEmpty && !Config.peerAccepts s.tick then (.fault 5 1, s0)
    else
      let denied := t.deny cx.mode acc write
      let dirty := write && acc != .load && denied.isNone
      let s1 := ((via.foldl (fun st a => st.setAD a false) s0).setAD t.leaf1 dirty).setAD t.leaf dirty
      let s2 := (s1.noteWalk t (s1.canonPa pa) (t.gpa / 4096 + va % t.size / 4096)).install cx.core { t with d := t.d || dirty }
      match denied with
      | some st => (.fault 6 st, s2)
      | none => (.ok t (s2.canonPa pa), s2)

/-- Walk the tables for an access (R404, R425). -/
def State.walkFor (s : State) (cx : XCtx) (va : Nat) (acc : AccessKind) (write : Bool) : XRes × State :=
  match s.walk cx va with
  | .parked pte leaf => s.meetPark cx pte leaf
  | .fault c st => (.fault c st, s)
  | .found t pa via => s.walked cx va acc write t pa via

/-- Translate an address for an access: canonical form (R218), then the translation caches, else a walk. `write` asks for W; a load
that asks for it stores nothing and sets no D. The first store through a cached entry whose pages are not dirty walks again (R409). -/
def State.translate (s : State) (cx : XCtx) (va : Nat) (acc : AccessKind) (write : Bool) : XRes × State :=
  if !(bits va 57 7 == (if bit va 56 then 127 else 0)) then (.fault 5 0, s)
  else
    match s.cached cx va with
    | some t =>
      (match s.transFault cx t (t.addr va) acc write with
       | some f => (f, s)
       | none => if write && acc != .load && !t.d then s.walkFor cx va acc write else (.ok t (s.canonPa (t.addr va)), s))
    | none => (s.pmcAdd cx.core 11 1 cx.guest none).walkFor cx va acc write

end Sys2Proof.Machine
end

