-- ==== Sys2Proof/Machine/Owner.lean ====
section
/-! DEFINITION. Ownership of POOL pages as an access meets it: the ownership words, their change at the metadata package, and the
wait for a page that another package owns (18_translation R428, R429; 22_system R487). -/
namespace Sys2Proof.Machine

/-- Page offset of a POOL address in the window. -/
def poolPage (pa : Nat) : Nat := bits pa 0 50 / 4096

/-- The host physical address of a POOL page. -/
def poolAddr (page : Nat) : Nat := 4 * 2 ^ 48 + page * 4096

/-- The ownership word of a page (R428). -/
def State.ownWord (s : State) (page : Nat) : Nat := s.natAt (s.pkg.sys.poolmeta + 8 * page) 8

/-- OWNER of an ownership word (R428). -/
def ownOwner (w : Nat) : Nat := bits w 0 6
/-- STATE of an ownership word: 0 FREE, 1 OWNED, 2 HANDOVER (R428). -/
def ownState (w : Nat) : Nat := bits w 6 2
/-- TO of an ownership word (R428). -/
def ownTo (w : Nat) : Nat := bits w 8 6
/-- KEEP of an ownership word (R428). -/
def ownKeep (w : Nat) : Bool := bit w 14

/-- A word with a new owner, state and receiver; GEN counts a change of OWNER (R428). -/
def ownNext (w owner st dest : Nat) : Nat :=
  let g := if ownOwner w == owner then w else putBits w 16 32 (bits w 16 32 + 1)
  putBits (putBits (putBits g 0 6 owner) 6 2 st) 8 6 dest

/-- Make a page OWNED by this package from now on (R429). -/
def State.gainOwn (s : State) (page : Nat) : State :=
  s.modHub (fun u => { u with gained := sset 0 u.gained page s.cycles.toNat })

/-- Change an ownership word: at once on the metadata package, and elsewhere by a request to it, which is sent once (R487). The answer
says whether the word has changed. -/
def State.setOwn (s : State) (page w : Nat) : Bool × State :=
  if s.pkg.sys.metapkg == s.pkg.pkg then (true, s.homeWrite (s.pkg.sys.poolmeta + 8 * page) 8 w)
  else if s.hub.changing.any (fun c => c.page == page) then (false, s)
  else (false, (s.modHub (fun u => { u with changing := u.changing ++ [⟨page, s.ownWord page, w⟩] })).send
    (.ownerUpdate page (BitVec.ofNat 64 (s.ownWord page)) (BitVec.ofNat 64 w)))

/-- Make a page OWNED by this package, where nothing stands against it any longer (R429). -/
def State.takeOwn (s : State) (page : Nat) : Bool × State :=
  let (ok, s1) := s.setOwn page (ownNext (s.ownWord page) s.pkg.pkg 1 0)
  (ok, if ok then s1.gainOwn page else s1)

/-- Whether this package owns a page, or ownership does not apply to it (R295, R429). -/
def State.owns (s : State) (page : Nat) : Bool :=
  let w := s.ownWord page
  ownKeep w || (ownState w == 1 && ownOwner w == s.pkg.pkg)

/-- An access reaches a POOL page: true when it may proceed, otherwise it is held while ownership changes hands, a REQ
having been sent to the owner (R429). -/
def State.ownStep (s : State) (page : Nat) : Bool × State :=
  let w := s.ownWord page
  if s.owns page then (true, s)
  else if ownState w == 0 then s.takeOwn page
  else if ownState w == 1 && !s.hub.ownSent.any (fun r => r.page == page) then
    (false, (s.modHub (fun u => { u with
      ownSent := u.ownSent ++ [⟨page, ownOwner w, s.cycles.toNat, false⟩] })).send (.ownReq page (ownOwner w)))
  else (false, s)

/-- The report of OWNERSHIP (R429). -/
def ownReport (w : Nat) (waited : Bool) : Nat := bits w 0 8 + b2n waited * 256

/-- The mark that a wait for a page has ended without a GRANT. -/
def holdEnded (page : Nat) (waited : Bool) : Nat := 2 ^ 60 + page * 2 + b2n waited

/-- How an access stands to the ownership of a POOL page (R191, R429). -/
inductive Owning where
  | ok | wait
  | bad (tinfo : Nat)
  deriving DecidableEq, Repr

/-- The ownership of a page for an access whose wait stands as `hold` says: OWNERSHIP where that wait has ended without a GRANT,
otherwise a wait where ownership changes hands. -/
def State.ownFor (s : State) (hold : Option Nat) (page : Nat) : Owning × State :=
  match [false, true].find? (fun w => hold == some (holdEnded page w)) with
  | some w => (if s.owns page then .ok else .bad (ownReport (s.ownWord page) w), s)
  | none => let (ok, s1) := s.ownStep page; (if ok then .ok else .wait, s1)

/-- Whether ownership applies to an access by a translation (R295, R429). -/
def Trans.pooled (t : Trans) (pa : Nat) : Bool := tierOf pa == 2 && t.pcls != 3

end Sys2Proof.Machine
end

