-- ==== Sys2Proof/Machine/Ops.lean ====
section
/-! DEFINITION. Taking an exception and returning from one, escalation, fault report queues, region control block
states and completion windows: the shared operations of 09_traps, 16_launch and 17_engine_queues. -/
namespace Sys2Proof.Machine

/-! ### Tables of a guest -/

/-- The guest context table entry of a guest (R484). -/
def State.gct (s : State) (g : Nat) : Nat := s.pkg.sys.gct + 64 * g

/-- The translation that the launch unit and the hub use for a guest's addresses (R361). -/
def State.guestCtx (s : State) (g : Nat) : XCtx := hubCtx g (s.natAt (s.gct g + 16) 8) (s.natAt (s.gct g + 24) 8)

/-- Translate every 4 KiB piece of a range, the pieces as (address, length), in ascending order. -/
def pieces (va n : Nat) : List (Nat × Nat) :=
  let first := min n (4096 - va % 4096)
  (va, first) :: (if n ≤ first then []
    else (List.range ((n - first + 4095) / 4096)).map (fun i => (va + first + 4096 * i, min 4096 (n - first - 4096 * i))))

/-- A part of a range of a virtual space that lies in one page: its translation, its address and its length. -/
structure Run where
  tr : Trans
  va : Nat
  pa : Nat
  n : Nat
  deriving DecidableEq, Repr

/-- The physical address of each byte of a run. -/
def Run.addrs (r : Run) : List Nat := (List.range r.n).map (fun i => r.pa + i)

/-- The runs of a range of a virtual space, or the first failure with its address. -/
def State.runs (s : State) (cx : XCtx) (va n : Nat) (acc : AccessKind) (write : Bool) :
    Except (XRes × Nat) (List Run × State) :=
  (pieces va n).foldl (fun r p =>
    match r with
    | .error e => .error e
    | .ok (rs, st) =>
      match st.translate cx p.1 acc write with
      | (.ok t pa, st') => .ok (rs ++ [⟨t, p.1, pa, p.2⟩], st')
      | (e, _) => .error (e, p.1)) (.ok ([], s))

/-- Physical addresses of a range of a virtual space, byte by byte, or the first failure with its address. -/
def State.range (s : State) (cx : XCtx) (va n : Nat) (acc : AccessKind) (write : Bool) :
    Except (XRes × Nat) (List Nat × State) :=
  match s.runs cx va n acc write with
  | .ok (rs, st) => .ok ((rs.map Run.addrs).flatten, st)
  | .error e => .error e

/-- The first address of some that the home of its line refuses to the hub working for a guest (R461). -/
def State.refusedAt (s : State) (guest : Nat) (as_ : List Nat) : Option Nat :=
  as_.find? (fun a => (s.rejected a 3 guest false).isSome)

/-- An access of the hub for a guest to the lines of some addresses, performed at their homes as agent 3 (R268, R449; log
entry 84). -/
def State.hubTouch (s : State) (guest : Nat) (write : Bool) (as_ : List Nat) : State :=
  ((as_.map (· / 128)).eraseDups).foldl (fun st k => (st.cohTouch 3 guest false k write true).1) s

/-- Read bytes through a translation at the coherent level; none where translation fails, or where they cannot be read: an
uncorrectable sector, a failed home, a rejection (R365, R400, R461). -/
def State.readVirt (s : State) (cx : XCtx) (va n : Nat) : Option (List Byte × State) :=
  match s.range cx va n .load false with
  | .ok (as_, st) =>
    if (st.refusedAt cx.guest as_).isSome then none
    else
      let st' := st.hubTouch cx.guest false as_
      if as_.any (fun a => (st'.cohPeek a 1).2) then none else some (as_.map (fun a => st'.byte (st'.readAddr a)), st')
  | .error _ => none

/-- Write bytes through a translation at the coherent level; none where translation fails, or where they cannot be written: a
failed home, a rejection (R400, R461). -/
def State.writeVirt (s : State) (cx : XCtx) (va : Nat) (bs : List Byte) : Option State :=
  match s.range cx va bs.length .store true with
  | .ok (as_, st) =>
    if as_.any st.homeFailed || (st.refusedAt cx.guest as_).isSome then none
    else some ((st.hubTouch cx.guest true as_).cohPoke noHart (as_.zip bs) [])
  | .error _ => none

/-- Whether an access of the hub to one of some ranges meets a page in the PARK store or one that another package owns, which hold it:
the state in which the page's promotion or its ownership is asked for (R425, R429). -/
def State.virtHeld (s : State) (cx : XCtx) (ranges : List (Nat × Nat)) : Option State :=
  ((ranges.map (fun r => pieces r.1 r.2)).flatten).findSome? (fun p =>
    match s.translate cx p.1 .load false with
    | (.hold, st) => some st
    | (.ok t pa, st) => if t.pooled pa then (let (ok, st') := st.ownStep (poolPage pa); if ok then none else some st') else none
    | _ => none)

/-- Log the rejection that an access of the hub for a guest met, if it met one (R462, R517). -/
def State.logRefusal (s : State) (cx : XCtx) (va n : Nat) (acc : AccessKind) (write : Bool) : State :=
  match s.range cx va n acc write with
  | .ok (as_, st) => ((st.refusedAt cx.guest as_).bind (fun a => st.rejected a 3 cx.guest false)).getD s
  | .error _ => s

/-! ### Fault report queues (R400 to R402) -/

/-- The 32 bytes of a fault record (R401). -/
def FaultRec.bytes (r : FaultRec) (time : Nat) : List Byte :=
  toBytes 4 (r.cause + b2n r.hv * 256 + b2n r.restart * 512 + r.fdom * 2 ^ 16 + r.team * 2 ^ 24) ++ toBytes 4 r.crew ++
  toBytes 8 r.hpc ++ toBytes 8 r.addr ++ toBytes 8 time

/-- Note the physical address of a structure whose fields Ailith keeps to itself (R6). -/
def noted (a : Nat) (l : List Nat) : List Nat := if l.contains a then l else l ++ [a]

/-- Note where a fault report queue header lies (R400). -/
def State.noteFrq (s : State) (cx : XCtx) (frq : Nat) : State :=
  match s.range cx frq 1 .store true with
  | .ok (a :: _, st) => st.modRun (fun r => { r with frqs := noted a r.frqs })
  | _ => s

/-- Write a fault record to the queue of an RCB (R400): lost records set OVF and count in LOST; a header that cannot be
reached loses the record and is logged as a RAS event. -/
def State.putFault (s0 : State) (e : Eff) (r : FaultRec) : State :=
  let cx := s0.guestCtx e.guest
  let s := s0.noteFrq cx e.frq
  match s.readVirt cx e.frq 16 with
  | none => (s.logRefusal cx e.frq 16 .load false).ras e.frq
  | some (hd, s1) =>
    let h := ofBytes hd
    let lose (st : State) : State :=
      let lost := min (bits h 96 32 + 1) (2 ^ 32 - 1)
      match st.writeVirt cx (e.frq + 8) (toBytes 4 (bits h 64 32 ||| 1) ++ toBytes 4 lost) with
      | some st' => st'
      | none => st.ras e.frq
    let tail := bits h 0 32
    let slot := e.frq + 64 + 32 * (tail % 2 ^ e.frqlg)
    if (tail + 2 ^ 32 - bits h 32 32) % 2 ^ 32 == 2 ^ e.frqlg then lose s1
    else
      match s1.writeVirt cx slot (r.bytes s.cycles.toNat) with
      | none => lose (s1.logRefusal cx slot 32 .store true)
      | some s2 =>
        match s2.writeVirt cx e.frq (toBytes 4 ((tail + 1) % 2 ^ 32)) with
        | some s3 => s3
        | none => s2.ras e.frq

/-- Write a fault record to the queue of an RCB; one whose queue lies in the PARK store waits for its promotion, and so do those after
it (R400, R425). -/
def State.faultRecord (s : State) (e : Eff) (r : FaultRec) : State :=
  let cx := s.guestCtx e.guest
  let wait (st : State) : State := st.modRun (fun u => { u with faults := u.faults ++ [(e, r)] })
  let slot := match s.readVirt cx e.frq 16 with
    | some (hd, _) => e.frq + 64 + 32 * (bits (ofBytes hd) 0 32 % 2 ^ e.frqlg)
    | none => e.frq
  if s.run.faults.any (fun q => q.1.frq == e.frq && q.1.guest == e.guest) then wait s
  else
    match s.virtHeld cx [(e.frq, 16), (slot, 32)] with
    | some st => wait st
    | none => s.putFault e r

/-- Write the fault records that no promotion holds any longer (R425). -/
def State.retryFaults (s : State) : State :=
  if s.run.faults.isEmpty then s
  else s.run.faults.foldl (fun st q => st.faultRecord q.1 q.2) (s.modRun (fun u => { u with faults := [] }))

/-- Write a fault record to the queue of the RCB of a crew, if its launch is still known. -/
def State.crewFault (s : State) (key cause team : Nat) (hv : Bool) (hpc addr : Nat) : State :=
  match s.crew? key with
  | none => s
  | some c =>
    match s.launch? c.launch with
    | some l =>
      (match l.eff with
       | some e => s.faultRecord e ⟨cause, hv, l.restart, e.fdom, team, c.index, hpc, addr⟩
       | none => s)
    | none => s

/-- The record of R517 and R518 for a request of a hart: to its crew's queue, or for a thread that HOST runs a RAS
event when its stores are lost. -/
def State.lostAccess (s : State) (h cause addr : Nat) : State :=
  if s.crewed h then s.crewFault (s.hart h).place.crewKey cause (s.hart h).place.team false 0 addr
  else if cause == 0x14 then s else s.ras addr

/-! ### Region control blocks (R363, R379) -/

/-- STATE of an RCB in memory (R363). -/
def State.rcbState (s : State) (pa : Nat) : Nat := bits (s.natAt (s.readAddr pa) 1) 1 3

/-- Rewrite bytes of a KV entry or RCB field at a translated address of a guest, when it can be reached. -/
def State.pokeVirt (s : State) (cx : XCtx) (va : Nat) (bs : List Byte) : State := (s.writeVirt cx va bs).getD s

/-- The translation of a parked continuation (R431). -/
def Cont.ctx (k : Cont) : XCtx := hubCtx k.guest k.s1ptb k.s2ptb

/-- Pages of a block (R433). -/
def Cont.pages (k : Cont) : Nat := max 1 (ceilDiv (16 * k.rowb) 4096)

/-- A block entry of a continuation (R434). -/
def State.kvEntry (s : State) (k : Cont) (b : Nat) : Option Nat :=
  (s.readVirt k.ctx (k.btab + 8 * b) 8).map (fun p => ofBytes p.1)

/-- Rewrite a block entry whole (R435). -/
def State.setKvEntry (s : State) (k : Cont) (b v : Nat) : State := s.pokeVirt k.ctx (k.btab + 8 * b) (toBytes 8 v)

/-- Write PSTATE and RUNG of a continuation's descriptor (R432, R443). -/
def State.setPstate (s : State) (k : Cont) (p rung : Nat) : State :=
  match s.readVirt k.ctx k.desc 1 with
  | none => s
  | some (b, s1) => s1.pokeVirt k.ctx k.desc (toBytes 1 (putBits (putBits (ofBytes b) 1 3 p) 4 2 rung))

/-- Whether a block move is under way: it has started, and the migration engine has taken one of its pages or has none
left to take. -/
def State.moveUnderway (s : State) (k : Cont) (m : BlockMove) : Bool :=
  m.started && (m.failed || m.pages.length + m.moving != k.pages || (s.hub.migQueue.filter (fun c => c.block == some m.id)).length != m.moving)

/-- Drop the moves of a continuation, of those that `f` selects, that are not under way; PROMO of a dropped promotion is
cleared (R443, R448). -/
def State.dropMoves (s : State) (k : Cont) (f : BlockMove → Bool) : State :=
  let gone := s.hub.moves.filter (fun m => m.cont == k.id && f m && !s.moveUnderway k m)
  let s1 := gone.foldl (fun st m =>
    match st.kvEntry k m.block with
    | some e => if m.up then st.setKvEntry k m.block (putBits e 3 1 0) else st
    | none => st) s
  s1.modHub (fun u => { u with
    migQueue := u.migQueue.filter (fun c => !(gone.any (fun m => c.block == some m.id)))
    moves := u.moves.filter (fun m => !(gone.any (fun q => q.id == m.id))) })

/-- Drop the work queued for a launch's continuations; a sequence that is not ACTIVE becomes ACTIVE, and PARK stays on blocks not yet
back (R443). -/
def State.dropCont (s : State) (launch : Nat) : State :=
  (s.hub.conts.filter (fun k => k.launch == launch)).foldl (fun st k =>
    let s1 := st.dropMoves k (fun _ => true)
    let s2 := if k.pstate == 0 then s1 else s1.setPstate k 0 k.rung
    s2.modHub (fun u => { u with
      conts := if u.moves.any (fun m => m.cont == k.id) then updWhere (fun c => c.id == k.id) (fun c => { c with pstate := 0 }) u.conts
        else u.conts.filter (fun c => c.id != k.id) })) s

/-- The host physical address of a field of the RCB of a launch: where the guest's tables place it now. -/
def State.rcbAt (s : State) (l : Launch) (off : Nat) : Nat :=
  match (s.translate (s.guestCtx l.guest) (l.rcb + off) .store false).1 with
  | .ok _ pa => pa
  | _ => l.rcbPa + off

/-- Write STATE of the RCB at an address; an RCB that becomes FAULTED raises event 0x001 (R480). -/
def State.putRcb (s : State) (pa st : Nat) : State :=
  let s1 := (s.cohPoke noHart (placed pa (toBytes 1 (putBits (s.natAt (s.readAddr pa) 1) 1 3 st))) []).modRun (fun r => { r with
    rcbs := noted pa r.rcbs
    devFaults := if st == 6 then r.devFaults else r.devFaults.filter (· != pa) })
  if st == 6 then s1.raiseEvent 1 else s1

/-- Write STATE of the RCB of a launch. One that becomes FAULTED drops the work of its continuation (R443). -/
def State.setRcb (s : State) (launch st : Nat) : State :=
  match s.launch? launch with
  | none => s
  | some l =>
    let s1 := s.putRcb (s.rcbAt l 0) st
    if st == 6 then s1.dropCont launch else s1

/-- Note that a launch is over with a status; its future completes in a step of its own (R362, R393). -/
def State.endLaunch (s : State) (launch status : Nat) : State :=
  match s.launch? launch with
  | none => s
  | some l =>
    if l.ended then s
    else (s.modLaunch launch (fun q => { q with ended := true, saved := [] })).modRun (fun r => { r with
      pending := r.pending ++ [(launch, status, l.handle)]
      slots := r.slots.filter (fun p => p.2 != l.queue + 1 || l.next ≥ l.gx * l.gy * l.gz) })

/-! ### Traps (R186 to R193) -/

/-- Target of a trap (R184). -/
inductive Target where
  | team | guest | host | fw
  deriving DecidableEq, Repr

/-- Rank of a target, TEAM as USER (R186). -/
def targetRank : Target → Nat
  | .team => 0 | .guest => 1 | .host => 2 | .fw => 3

/-- The causes that R188 marks team-delegable. -/
def teamDelegable (c : Nat) : Bool :=
  [1, 2, 3, 4, 7, 8, 9, 0xA, 0xD, 0xE, 0xF, 0x11, 0x12, 0x13, 0x16, 0x17].contains c

/-- The target of a cause raised in a hart (R186). -/
def trapTarget (t : Hart) (c : Nat) : Target :=
  let raw : Target :=
    if t.mode == .fw then .fw
    else if !(t.sup.hdeleg.getLsbD c) || c == 0x14 then .host
    else if !(t.sup.gdeleg.getLsbD c) || t.mode != .user || t.trap.tstatus.getLsbD 2 || !(t.trap.tvec.getLsbD 20) ||
        !teamDelegable c || bits t.trap.tvec.toNat 0 20 ≥ t.place.codeLen then .guest
    else .team
  if targetRank raw < modeRank t.mode then
    (match t.mode with | .user => .team | .guest => .guest | .host => .host | .fw => .fw)
  else raw

/-- The trap registers that delivery writes (R187). -/
def TrapRegs.report (r : TrapRegs) (mode : Mode) (c : Nat) (pc : Word) (taddr tinfo : Nat) (tmask : Mask) : TrapRegs :=
  { r with
    tcause := BitVec.ofNat 8 c, tpc := pc, taddr := BitVec.ofNat 64 taddr, tinfo := BitVec.ofNat 64 tinfo,
    tmask := tmask, tstatus := BitVec.ofNat 64 (putBits r.tstatus.toNat 0 2 (modeRank mode)) }

/-- Where a hart continues after a handler: past TRAP and BRK, else at the instruction (R187). -/
def restartOf (c : Nat) (pc : Word) : Word := if c == 0x11 || c == 0x12 then pc + 12 else pc

/-- Whether a handler address is 4-byte aligned and can be fetched in a mode (R187). A page that a park entry names is promoted
when it is fetched (R425). -/
def State.handlerOk (s : State) (h : Nat) (m : Mode) (a : Word) : Bool :=
  a.toNat % 4 == 0 &&
  (match (s.translate { s.xctx h with mode := m } a.toNat .fetch false).1 with | .fault _ _ => false | _ => true)

/-- Escalation of a crew's trap (R193): every team of the launch's crews stops, the RCB becomes FAULTED, the launch
ends with KERNEL-FAULT, and the team's record goes to the fault report queue. -/
def State.escalate (s : State) (h c : Nat) (pc : Word) (taddr : Nat) : State :=
  let key := (s.hart h).place.crewKey
  match s.crew? key with
  | none => s.modHart h (fun t => { t with sched := { t.sched with stopped := true } })
  | some k =>
    let s1 := s.crewFault key c (s.hart h).place.team false pc.toNat taddr
    let all := ((s1.run.crews.filter (fun q => q.launch == k.launch)).map Crew.harts).flatten
    let s2 := all.foldl (fun st i => st.modHart i (fun t => { t with sched := { t.sched with stopped := true } })) s1
    (s2.setRcb k.launch 6).endLaunch k.launch 8

/-- Enter a handler (R187). -/
def Hart.enter (t : Hart) (g : Target) (c : Nat) : Hart :=
  let back := restartOf c t.trap.tpc
  let sch : Sched := { t.sched with
    wait := .none, body := none, demote := none, arrived := none, yielded := false, wfi := false, hold := none }
  match g with
  | .team => { t with
      trap := { t.trap with tstatus := t.trap.tstatus ||| 4 }, sched := sch,
      pc := BitVec.ofNat 64 (t.place.codeStart + 12 * bits t.trap.tvec.toNat 0 20) }
  | .guest => { t with sup := { t.sup with gepc := back }, mode := .guest, pc := t.sup.gtvec, sched := sch }
  | .host => { t with sup := { t.sup with hepc := back }, mode := .host, pc := t.sup.htvec, sched := sch }
  | .fw => { t with mode := .fw, pc := t.sup.fwtvec, sched := sch }

/-- TAKE AN EXCEPTION in a hart with its target chosen (R187, R193): the trap registers are written, then the handler is
entered, or the crew escalates. -/
def State.deliver (s : State) (h : Nat) (g : Target) (c taddr tinfo : Nat) (tmask : Mask) : State :=
  let t := s.hart h
  let s1 := s.setHart h { t with trap := t.trap.report t.mode c t.pc taddr tinfo tmask }
  let go (g : Target) : State := s1.modHart h (fun u => u.enter g c)
  let stop : State := (s1.modHart h (fun u => { u with sched := { u.sched with stopped := true } })).ras t.pc.toNat
  match g with
  | .team => go .team
  | .fw => if s.crewed h then s1.escalate h c t.pc taddr else go .fw
  | .guest =>
    if s.handlerOk h .guest t.sup.gtvec then go .guest
    else if s.crewed h then s1.escalate h c t.pc taddr
    else if s.handlerOk h .host t.sup.htvec then go .host else stop
  | .host =>
    if s.crewed h then s1.escalate h c t.pc taddr
    else if s.handlerOk h .host t.sup.htvec then go .host else stop

/-- TAKE AN EXCEPTION in a hart (R186, R187, R193): the one operation through which every cause is delivered. -/
def State.takeTrap (s : State) (h c taddr tinfo : Nat) (tmask : Mask) : State :=
  s.deliver h (trapTarget (s.hart h) c) c taddr tinfo tmask

/-- Raise a synchronous cause in the running hart. -/
def State.raise (s : State) (c taddr tinfo : Nat) (tmask : Mask) : Out := .next (s.takeTrap s.cur c taddr tinfo tmask)

/-- HOSTDIE of a hart's reports (R43, R73). -/
def hostDie (h : Nat) : Nat := b2n (isHostThread h)

/-- Raise ILLEGAL for a check (R43). -/
def State.illegal (s : State) (check : Nat) : Out := s.raise 1 0 (hostDie s.cur + check * 16) 0

/-- RETURN FROM AN EXCEPTION (R195): to the saved pc of the current mode, in the mode at the trap. -/
def Hart.returnTo (t : Hart) : Hart :=
  let m := modeOfRank (bits t.trap.tstatus.toNat 0 2)
  let back := match t.mode with
    | .guest => t.sup.gepc
    | .host => t.sup.hepc
    | _ => restartOf t.trap.tcause.toNat t.trap.tpc
  { t with pc := back, mode := m }

/-- Hold the running hart at issue: the instruction has no effect and is tried again (R70, R71, R373). -/
def State.block (s : State) (w : Wait) : Out :=
  .next (s.modNow (fun t => { t with sched := { t.sched with wait := w, waitTick := s.tick } }))

/-- End an instruction that does not transfer control. -/
def State.done (s : State) : Out := .next (s.modNow Hart.advance)

/-! ### Completion windows (R391, R393) -/

/-- Issuing agents: copy engines 0 to 63, matrix engines at 100, launch queues at 1000, the migration engine at 99. -/
def agentKey (kind engine core queue : Nat) : Nat :=
  match kind with
  | 0 => engine
  | 1 => 100 + core
  | 4 => 100 + core
  | 3 => 1000 + queue
  | _ => 99

/-- A window. -/
def State.window (s : State) (a : Nat) : Window := sget Window.init s.run.windows a

/-- Change a window. -/
def State.modWindow (s : State) (a : Nat) (f : Window → Window) : State :=
  s.modRun (fun r => { r with windows := sset Window.init r.windows a (f (sget Window.init r.windows a)) })

/-- Width of a kind's numbering field (R393). -/
def kindBits (kind : Nat) : Nat := match kind with | 1 => 24 | 4 => 24 | 3 => 28 | _ => 32

/-- The kind, agent and number that a handle value names (R391); the core of kinds 1 and 4 is looked up modulo 256. -/
def handleParts (v : Nat) : Nat × Nat × Nat :=
  let kind := bits v 12 4
  match kind with
  | 1 => (1, agentKey 1 0 (bits v 40 8) 0, bits v 16 24)
  | 4 => (4, agentKey 4 0 (bits v 40 8) 0, bits v 16 24)
  | 3 => (3, agentKey 3 0 0 (bits v 6 6 + 64 * bits v 44 4), bits v 16 28)
  | k => (k, agentKey k (bits v 6 6) 0 0, bits v 16 32)

/-- What a handle value names for a guest and mode (R393). -/
inductive HandleIs where
  | bad | expired | pending | complete (status : Nat)
  deriving DecidableEq, Repr

/-- Judge a handle value (R393, R395). -/
def State.judge (s : State) (guest : Nat) (mode : Mode) (v : Nat) : HandleIs :=
  let (kind, a, n) := handleParts v
  if kind ≥ 6 || (kind != 0 && kind != 3 && bits v 6 6 != 0) then .bad
  else
    let w := s.window a
    let b := kindBits kind
    let guestBad := match sget none w.recs n with
      | some r => r.guest != guest && modeRank mode < 2
      | none => false
    if guestBad then .bad
    else if (w.cur % 2 ^ b + 2 ^ b - n) % 2 ^ b ≥ 2 ^ 16 then .expired
    else match sget none w.recs n with
      | some r => (match r.status with | some st => .complete st | none => .pending)
      | none => .expired

/-- Number an operation at its issuing agent (R391): the number it gets, and the window that records it as pending and
drops what has left the last 2^16. -/
def State.number (s : State) (a b guest scope : Nat) : Nat × State :=
  let n := ((s.window a).cur + 1) % 2 ^ b
  (n, s.modWindow a (fun w => ⟨n,
    (sset none w.recs n (some ⟨guest, scope, 0, none⟩)).filter (fun p => (n + 2 ^ b - p.1) % 2 ^ b < 2 ^ 16)⟩))

/-- Record a status in a window, with the clock that its observers receive (R393, R283). -/
def State.recordStatus (s : State) (v status clock : Nat) : State :=
  let (_, a, n) := handleParts v
  s.modWindow a (fun w => { w with
    recs := sset none w.recs n ((sget none w.recs n).map (fun r => { r with status := some status, clock := clock })) })

/-- What a window records for a handle value. -/
def State.winRec (s : State) (v : Nat) : Option WinRec :=
  let (_, a, n) := handleParts v
  sget none (s.window a).recs n

/-- Raise a core's Lamport clock to a stamp it receives: the clock changes by stamps and edges alone (R283). The passing of
cycles leaves it, which is the model's reading of R19's 'Lamport clocks count cycles of the package timebase' (log entry 78). -/
def State.clockTo (s : State) (core stamp : Nat) : State :=
  s.modCore core (fun c => { c with lamport := BitVec.ofNat 64 (max c.lamport.toNat stamp) })

end Sys2Proof.Machine
end

