-- ==== Sys2Proof/Machine/Operands.lean ====
section
/-! DEFINITION. What an instruction reads and writes, the checks at issue (R43 checks 9 and 10, R35, R67, R70, R71), and
the values of its operands in every form (R85, R86, R88). -/
namespace Sys2Proof.Machine

/-! ### Register extents -/

/-- A use of an operand: slot (0 guard, 1 D, 2 A, 3 B), the operand, how many registers from it, whether it is read
and whether it is written. -/
structure Use where
  slot : Nat
  op : Operand
  n : Nat
  rd : Bool
  wr : Bool
  deriving DecidableEq, Repr

/-- Registers of an operand that carries values of a type (R31, R32). -/
def span (t : Ty) (o : Operand) : Nat :=
  match o with
  | .v .. => if tyBits t == 64 then 2 else 1
  | .s _ _ m => if m == 1 then 2 else 1
  | _ => 1

/-- Whether B = NONE or a WIDE A selects the two-operand form (R88). -/
def twoOperand (o : Op) (x : Args) : Bool :=
  [Op.add, .lea, .and, .or, .xor, .andn].contains o && (x.b == .none || kindOf x.a == .wide)

/-- Whether a form reads D as a source (R91, R101, R241, R175, R304). -/
def readsD (o : Op) (x : Args) : Bool :=
  twoOperand o x || [Op.mad, .movh, .bfi, .ffma, .loop, .st, .sts, .stacc, .ldp, .cas, .gtrn, .kst, .krec].contains o ||
  (o == .kmov && isMaskOp x.d && kindOf x.a == .s)

/-- Whether a form writes D (R91, R241, R330). -/
def writesD (o : Op) (x : Args) : Bool :=
  x.d != .none && ! [Op.st, .sts, .stacc, .mcb, .mdrn, .mclr, .msmx, .mscl, .chld, .binit, .barv, .bwait, .barw,
    .srw].contains o || ([Op.chld, .mdrn].contains o && kindOf x.d == .s)

/-- Registers that D names in a form. -/
def spanD (o : Op) (x : Args) : Nat :=
  match o with
  | .gtrn => 8
  | .cvtp => if x.sub == 1 then packCount x.ty else 1
  | .kld => 3
  | .ksib => 2
  | .kvx => 2
  | .lea => span .n64 x.d
  | _ => span x.ty x.d

/-- Registers that A names in a form. -/
def spanA (o : Op) (x : Args) : Nat :=
  match o with
  | .cvtp => if x.sub == 0 then packCount x.ty else 1
  | .kvx => 2
  | .cvt => (match tyOfCode x.sub.toNat with | some t => span t x.a | none => 1)
  | .ld | .st | .lds | .sts | .ldp | .pref | .cctl | .amo | .cas | .redu =>
    if kindOf x.a == .v then 2 else 1
  | .kld | .kst | .ksib | .krec | .pin | .unpin | .hint | .migr | .ownrRequest | .ownrRelease | .pgcnt | .wake => 1
  | _ => span x.ty x.a

/-- Registers that B names in a form. -/
def spanB (o : Op) (x : Args) : Nat :=
  match o with
  | .ld | .st | .lds | .sts | .ldp | .pref | .cctl | .ldacc | .stacc | .shfl | .cvtp | .fscl => 1
  | .amo | .redu => if kindOf x.b == .v then span x.ty x.b else 1
  | _ => span x.ty x.b

/-- An operand as it names registers: B of FSCL and SHFL with a 64-bit T names an even pair, though only its even register is read
(R31, R144, R176). -/
def Use.named (o : Op) (x : Args) (u : Use) : Use :=
  if u.slot == 3 && (o == .fscl || o == .shfl) then { u with n := span x.ty u.op } else u

/-- The uses of an instruction in the order of R70: A, B, D, then the guard. -/
def usesOf (o : Op) (x : Args) : List Use :=
  [⟨2, x.a, spanA o x, true, false⟩,
   ⟨3, x.b, spanB o x, o != .kvx, o == .kvx⟩,
   ⟨1, x.d, spanD o x, readsD o x, writesD o x⟩] ++
  (if x.g == 0 then [] else [⟨0, .k x.g false, 1, true, false⟩])

/-! ### The checks at issue -/

/-- Whether a form is executed once for the team, on a member set that must not be empty (R35, R85, R244). AMAX with a V source acts
and writes its scalar D even where no lane is a member (R153; log entry 60). -/
def scalarForm (o : Op) (x : Args) : Bool :=
  match o with
  | .vote | .lred | .vtos => kindOf x.d == .s
  | .ftest => true
  | .kvx => false
  | .amax => kindOf x.a != .v
  | .bwait | .barv | .barw | .binit => true
  | _ => !perLane x

/-- The control and mask forms of R157, which act whatever the member set holds unless they are guarded. -/
def alwaysActs (o : Op) : Bool :=
  [Op.brz, .brd, .join, .loop, .kand, .kor, .kxor, .knot, .kmov, .kpop, .kffs, .exec, .execr].contains o ||
  [Op.chld, .chinv, .mcb, .mma, .mce, .mdrn, .mclr, .morf, .msmx, .mscl].contains o

/-- The forms that act unguarded always, and guarded when their lanes are not empty (R157). -/
def anyGuard (o : Op) : Bool := [Op.br, .brc, .call, .ret, .jmpi, .brk, .yield, .nop, .iflush].contains o

/-- Whether an instruction acts (R35, R97, R157). -/
def acts (t : Hart) (o : Op) (x : Args) : Bool :=
  if alwaysActs o || o == .exit then true
  else if anyGuard o then x.g == 0 || t.members x != 0
  else if o == .sel then kindOf x.d == .v || t.exec != 0
  else if scalarForm o x then t.members x != 0
  else true

/-- Whether an operand lies within a team's allotment or a crew's share (R31, R67). -/
def allotted (t : Hart) (k : Kernel) (u : Use) : Bool :=
  match u.op with
  | .s r _ _ => r == 0 || r.toNat + u.n ≤ t.place.sAllot
  | .v r _ _ => r.toNat + u.n ≤ t.place.vAllot
  | .acc n => n.toNat < k.acc
  | .chk n => n.toNat < k.chucks
  | .bar n => n.toNat < k.barriers
  | .tag n => n.toNat < k.tags
  | .spa n => n.toNat * 16 < k.scratch
  | _ => true

/-- Number of an operand kind (R29). -/
def kindNo : Kind → Nat
  | .none => 0 | .s => 1 | .v => 2 | .k => 3 | .sr => 4 | .imm => 5 | .acc => 6 | .chk => 7 | .bar => 8 | .tag => 9
  | .spa => 10 | .wide => 15

/-- The low 8 bits of an operand's value (R73). -/
def valueNo : Operand → Nat
  | .s r _ _ => r.toNat
  | .v r _ _ => r.toNat
  | .k r _ => r.toNat
  | .acc n => n.toNat
  | .chk n => n.toNat
  | .bar n => n.toNat
  | .tag n => n.toNat
  | .spa n => n.toNat % 256
  | _ => 0

/-- The operand report of R73. -/
def operandReport (h slot : Nat) (o : Operand) : Nat :=
  hostDie h + valueNo o * 2 ^ 8 + kindNo (kindOf o) * 2 ^ 16 + slot * 2 ^ 20

/-- Whether a register state counts as EMPTY. -/
def RegSt.isEmpty : RegSt → Bool
  | .empty => true | .future => true | _ => false

/-- Lanes of an operand found in a state, among the relevant ones; all W lanes for an S or K operand (R70, R73). -/
def lanesIn (t : Hart) (u : Use) (rel : Mask) (p : RegSt → Bool) : Mask :=
  match u.op with
  | .s r _ _ =>
    if (List.range u.n).any (fun i => p (t.getS (r.toNat + i)).st) then allLanes t.W else 0
  | .v r _ _ =>
    maskOf ((lanesOf t.W rel).filter (fun l => (List.range u.n).any (fun i => p (t.getV (r.toNat + i) l).st)))
  | .k r _ => if p (if (t.getK r.toNat).empty then .empty else .full) then allLanes t.W else 0
  | _ => 0

/-- Lanes that SHFL reads A from (R174, R176). -/
def shflSource (W sub l : Nat) (b : Int) : Nat :=
  let src : Int := match sub with
    | 0 => b
    | 1 => (l : Int) - b
    | 2 => (l : Int) + b
    | _ => ((l ^^^ b.toNat : Nat) : Int)
  if 0 ≤ src && src < W then src.toNat else l

/-- Lanes of processed 32-lane words: the words with a member (R151, R156, R180). -/
def processed (W : Nat) (m : Mask) : Mask :=
  maskOf ((List.range W).filter (fun l => (List.range 32).any (fun i => laneIn m (l / 32 * 32 + i))))

/-- The relevant lanes of a use (R70): the members, and the source lanes that a cross-lane form names. While B of SHFL or VTOS is
EMPTY itself, these are the lanes that its stored value names (log entry 86). -/
def relevant (s : State) (o : Op) (x : Args) (u : Use) : Mask :=
  let t := s.now
  let m := if o == .sel then t.exec else t.members x
  match o with
  | .shfl =>
    if u.slot == 2 then
      let bOf (l : Nat) : Int := match x.b with
        | .v r _ _ => ((t.getV r.toNat l).v.toNat : Int)
        | .s r _ _ => ((t.getS r.toNat).v.toNat % 2 ^ 32 : Nat)
        | b => wrap 32 (immInt b)
      m ||| (maskOf ((lanesOf t.W m).map (fun l => shflSource t.W x.sub.toNat l (bOf l))) &&& t.live)
    else m
  | .vtos =>
    if u.slot == 2 then
      let b := match x.b with | .s r _ _ => (t.getS r.toNat).v.toNat | b => wrap 64 (immInt b)
      m ||| (if b < t.W then maskOf [b] &&& t.live else 0)
    else m
  | .gtrn | .cvtbp | .cvfbp => processed t.W m &&& t.live
  | _ => m

/-- Whether a source takes part in the waits and traps of R70: FTEST, FHND and FCAN read a pending future without
waiting (R396). -/
def futureExempt (o : Op) (u : Use) (t : Hart) : Bool :=
  [Op.ftest, .fhnd, .fcan].contains o && u.slot == 2 &&
  (match u.op with | .s r _ _ => (t.getS r.toNat).st == .future | _ => false)

/-- What the checks at issue find: the instruction goes on, does nothing, traps or waits. -/
inductive Pre where
  | go | skip
  | trap (cause tinfo : Nat) (tmask : Mask)
  | wait (w : Wait)
  deriving DecidableEq, Repr

/-- The pending handles in the registers that an instruction reads (R402). -/
def handlesRead (t : Hart) (us : List Use) : List Word :=
  (us.map (fun u => match u.op with
    | .s r _ _ => if u.rd then (List.range u.n).filterMap (fun i =>
        if (t.getS (r.toNat + i)).st == .future then some (t.getS (r.toNat + i)).v else none) else []
    | _ => [])).flatten

/-- The wait reason of an instruction that an EMPTY operand holds. -/
def waitOn (t : Hart) (us : List Use) : Wait :=
  match handlesRead t us with
  | [] => .operands
  | l => .future l

/-- R70 for the sources in their order: the first EMPTY one traps with E = 1 and waits otherwise. -/
def emptyCheck (s : State) (o : Op) (x : Args) : List Use → Option Pre
  | [] => none
  | u :: r =>
    let m := lanesIn s.now u (relevant s o x u) RegSt.isEmpty
    if u.rd && !futureExempt o u s.now && m != 0 then
      (if u.slot != 0 && u.slot != 1 && eOf u.op then some (.trap 2 (operandReport s.cur u.slot u.op) m)
       else some (.wait (waitOn s.now (usesOf o x))))
    else emptyCheck s o x r

/-- R70 for POISON: the first source that has a POISON relevant lane traps; the data of a weak store does not (R74). -/
def poisonCheck (s : State) (o : Op) (x : Args) : List Use → Option Pre
  | [] => none
  | u :: r =>
    let m := lanesIn s.now u (relevant s o x u) (· == .poison)
    if u.rd && m != 0 && !(o == .st && u.slot == 1) then some (.trap 3 (operandReport s.cur u.slot u.op) m)
    else poisonCheck s o x r

/-- R71: a destination whose lanes are EMPTY waits. -/
def destCheck (s : State) (o : Op) (x : Args) : List Use → Option Pre
  | [] => none
  | u :: r =>
    if u.wr && lanesIn s.now u (relevant s o x u) RegSt.isEmpty != 0 then some (.wait (waitOn s.now (usesOf o x)))
    else destCheck s o x r

/-- R67 for the operands A, B and D. -/
def allotCheck (s : State) : List Use → Option Pre
  | [] => none
  | u :: r =>
    if allotted s.now (s.kernelOf s.cur) u then allotCheck s r
    else some (.trap 0x17 (operandReport s.cur u.slot u.op) 0)

/-- The special register above the current mode that an instruction names, if any (R43, check 10). -/
def srDenied (t : Hart) (x : Args) : Option Nat :=
  [x.d, x.a, x.b].findSome? (fun o => match o with
    | .sr n => if srRank n.toNat > modeRank t.mode then some n.toNat else none
    | _ => none)

/-- The form is marked C and runs on the host die (R43, check 9; R220 for space SCRATCH). -/
def hostBarred (o : Op) (x : Args) : Bool :=
  o.row.hostC || ((o == .ld || o == .st) && x.sub.toNat % 4 == 1)

/-- Whether every flag-setting instruction that a hart has issued has completed (R127). -/
def State.flagsSettled (s : State) (h : Nat) : Bool := !s.mem.replies.any (fun r => r.hart == h && r.special)

/-- An access to %fflags waits until every earlier flag-setting instruction of the team has completed (R127). -/
def flagsWait (s : State) (o : Op) (x : Args) : Bool :=
  ((x.d == .sr 0x13 && o == .srw) || x.a == .sr 0x13 || x.b == .sr 0x13) && !s.flagsSettled s.cur

/-- What an EMPTY guard leaves to check, since it says which lanes are members: the S and K operands before it in the order
of R70, of which an EMPTY one with E = 1 traps; the guard itself waits. -/
def guardCheck (s : State) (o : Op) (x : Args) : Pre :=
  (emptyCheck s o x ((usesOf o x).filter (fun u => kindOf u.op != .v))).getD (.wait (waitOn s.now (usesOf o x)))

/-- All checks of an instruction before its own effect, in order, once the stores of the one before are in the store
buffer of 64 entries (R248): 3 to 10 of R43, whether it acts, allotments, operand
states, destinations. -/
def precheck (o : Op) (x : Args) (s : State) : Pre :=
  let t := s.now
  if t.sb.length > 64 then .wait .form else
  match checkArgs o x with
  | some c => .trap 1 (hostDie s.cur + c * 16) 0
  | none =>
    if isHostThread s.cur && hostBarred o x then .trap 1 (hostDie s.cur + 9 * 16) 0
    else if modeRank t.mode < modeRank o.row.mode then .trap 0x16 0 0
    else match srDenied t x with
      | some n => .trap 0x16 n 0
      | none =>
        if x.g != 0 && (t.getK x.g.toNat).empty && o != .sel then guardCheck s o x
        else if !acts t o x then .skip
        else
          let us := usesOf o x
          match allotCheck s (us.map (Use.named o x)) with
          | some p => p
          | none =>
            match emptyCheck s o x us with
            | some p => p
            | none =>
              match poisonCheck s o x us with
              | some p => p
              | none =>
                match destCheck s o x us with
                | some p => p
                | none => if flagsWait s o x then .wait .form else .go

/-- The running hart no longer waits; an ended wait for a POOL page stays for the access to find (R429). -/
def State.unwait (s : State) : State :=
  s.modNow (fun t => { t with sched := { t.sched with
    wait := .none, hold := t.sched.hold.filter (fun v => 2 ^ 60 ≤ v) } })

/-- ISSUE an instruction: its checks, then its effect `f`. One that does not act only advances the pc (R35). -/
def issue (o : Op) (x : Args) (s : State) (f : State → Out) : Out :=
  match precheck o x s with
  | .go => f s.unwait
  | .skip => s.unwait.done
  | .trap c i m => s.raise c 0 i m
  | .wait w => s.block w

/-! ### Values of operands (R86) -/

/-- An operand's w-bit value in a lane, as a number (R86): a register's low w bits, an immediate sign-extended and
reduced, a special register zero-extended and reduced, %lane the lane's index. -/
def State.src (s : State) (t : Ty) (o : Operand) (l : Nat) : Nat :=
  let w := tyBits t
  let h := s.now
  match o with
  | .s r _ _ => (h.getS r.toNat).v.toNat % 2 ^ w
  | .v r _ _ =>
    ((h.getV r.toNat l).v.toNat + (if w == 64 then (h.getV (r.toNat + 1) l).v.toNat * 2 ^ 32 else 0)) % 2 ^ w
  | .imm i => wrap w i.toInt
  | .wide i => wrap w i.toInt
  | .sr n => (if n == 0 then l else (s.readSr s.cur n.toNat).toNat) % 2 ^ w
  | _ => 0

/-- A w-bit value as its type interprets it (R86). -/
def interp (t : Ty) (n : Nat) : Int := if tySigned t then toSigned (tyBits t) n else ((n % 2 ^ tyBits t : Nat) : Int)

/-- The 64-bit pattern a result leaves in a register: reduced modulo 2^w, then sign- or zero-extended (R86). -/
def extended (t : Ty) (y : Int) : Word :=
  let w := tyBits t
  let n := wrap w y
  if tySigned t then BitVec.ofInt 64 (toSigned w n) else BitVec.ofNat 64 n

/-- Write a result to one lane of a vector destination, a pair for 64-bit types (R31, R86). -/
def Hart.wrLane (t : Hart) (ty : Ty) (r l : Nat) (y : Word) : Hart :=
  let lo := t.putV r l ⟨.full, y.truncate 32⟩
  if tyBits ty == 64 then lo.putV (r + 1) l ⟨.full, (y >>> 32).truncate 32⟩ else lo

/-- Write one computed value per lane to D over a set of lanes, or once to an S destination; NONE discards it (R85,
R86). `f` gives the value of a lane. -/
def Hart.wr (t : Hart) (ty : Ty) (d : Operand) (ls : List Nat) (f : Nat → Int) : Hart :=
  match d with
  | .s r _ _ => t.setS r.toNat (extended ty (f 0))
  | .v r _ _ => ls.foldl (fun u l => u.wrLane ty r.toNat l (extended ty (f l))) t
  | _ => t

/-- The value of an S operand as a 64-bit number, of an IMM operand sign-extended to 64 bits (R86, R394). -/
def State.scalar (s : State) (o : Operand) : Nat := s.src .n64 o 0

/-- A form of the register classes: each member lane, or once for a scalar form, computes `f` of the source values at the
width of T and writes it to D (R85, R86). Every source is read before any result is written (R156). `ta` is the type of
source A. -/
def lanewise (o : Op) (x : Args) (f : State → Nat → Int) (s : State) : Out :=
  issue o x s (fun s1 =>
    let m := if o == .sel then s1.now.exec else s1.now.members x
    let r := s1.now.wr x.ty x.d (lanesOf s1.now.W m) (f s1)
    .next (s1.setHart s1.cur r.advance))

end Sys2Proof.Machine
end

