-- ==== Sys2Proof/Machine/Device.lean ====
section
/-! DEFINITION. The devices behind MMIO selector 0xE: the system block, the event controller and its doorbell, the
CKPT register and the migration submission windows (22_system R480 to R483, R492; 18_translation R417; 10_spaces
R234); and the firmware registers behind selector 0xF (18_translation R412, R426; 20_directories R456). -/
namespace Sys2Proof.Machine

/-- Offset of an MMIO address. -/
def mmioOff (pa : Nat) : Nat := bits pa 0 48

/-- Whether the spec describes the device register at an MMIO offset. -/
def mmioKnown (o : Nat) : Bool :=
  o < 0x40 || (0x100 ≤ o && o < 0x108) || (0x200 ≤ o && o < 0x208) ||
  (0x1000 ≤ o && o < 0x1200 && (o - 0x1000) % 0x80 < 0x50) || (0x10000 ≤ o && o < 0x12000)

/-- The system block as bytes (R483). -/
def State.sysBytes (s : State) : List Byte :=
  let b := s.pkg.sys
  toBytes 8 b.lqt ++ toBytes 8 b.cwin ++ toBytes 8 b.rdt ++ toBytes 8 b.pdt ++ toBytes 8 b.poolmeta ++
  toBytes 8 b.cal ++ toBytes 8 (b.metapkg % 64 + b.gct * 256 % 2 ^ 64) ++
  toBytes 8 (b.gct / 2 ^ 56 + b.winpages * 256 % 2 ^ 48)

/-- Write word i of the system block in FW mode (R483). -/
def SysBlock.write (b : SysBlock) (i v : Nat) : SysBlock :=
  match i with
  | 1 => { b with cwin := v }
  | 2 => { b with rdt := v }
  | 5 => { b with cal := v }
  | _ => b

/-- The configuration word of an event; reserved bits read 0 (R480, R8). -/
def State.eventWord (s : State) (n : Nat) : Nat := (sget 0 s.pkg.events n).toNat % 2 ^ 15

/-- Bytes [o, o + size) of a list as a number. -/
def sliceNat (bs : List Byte) (o size : Nat) : Nat := ofBytes ((bs.drop o).take size)

/-- Replace bytes [o, o + size) of an 8-byte number. -/
def mergeBytes (old o size v : Nat) : Nat := putBits old (8 * o) (8 * size) v

/-- The submission window of a service core (R417). -/
def State.window64 (s : State) (k : Nat) : List Byte :=
  let w := sget [] s.hub.windows k
  if w.isEmpty then List.replicate 64 0 else w

/-! ### Firmware registers behind selector 0xF (R412, R426, R456; log entry 87) -/

/-- A placement record as its four 8-byte words (R412, R472). -/
def FrameRec.word (r : FrameRec) (i : Nat) : Nat :=
  match i with
  | 0 => r.pin + r.mstate * 2 ^ 8 + b2n r.nsent * 2 ^ 11 + r.guest * 2 ^ 12 + r.pguest * 2 ^ 18 + r.hintv * 2 ^ 24 +
      b2n r.ntfy * 2 ^ 27 + b2n r.multi * 2 ^ 28 + b2n r.peer * 2 ^ 29 + r.region * 2 ^ 32 + r.rpage * 2 ^ 40
  | 1 => r.rd + r.wr * 2 ^ 20 + r.base * 2 ^ 40
  | 2 => r.gpn + r.ptea % 2 ^ 24 * 2 ^ 40
  | _ => r.ptea / 2 ^ 24

/-- Firmware writes a word of a placement record: REGION and RPAGE, the counts, and the clearing of MULTI and PEER with which it
rebuilds the record (R412, R424, R472). -/
def FrameRec.setWord (r : FrameRec) (i v : Nat) : FrameRec :=
  match i with
  | 0 => { r with multi := r.multi && bit v 28, peer := r.peer && bit v 29, region := bits v 32 8, rpage := bits v 40 24, kept := true }
  | 1 => { r with rd := bits v 0 20, wr := bits v 20 20, base := bits v 40 20 }
  | _ => r

/-- The 8-byte word that stands at an offset of the firmware registers: the directory control register and MRATE of each home, and the
placement records (log entry 87). -/
def State.fwWord (s : State) (o : Nat) : Option Nat :=
  if o < 0x4000 then
    let m := s.home (o / 0x1000)
    if o % 0x1000 == 0 then some (m.mquiet + b2n m.merge * 2 ^ 6 + m.plog / 2 ^ 8 * 2 ^ 8)
    else if o % 0x1000 == 8 then some m.mrate
    else none
  else if 2 ^ 46 ≤ o && o < 2 ^ 46 + 2 ^ 45 then some ((s.frame ((o - 2 ^ 46) / 32)).word (o / 8 % 4))
  else none

/-- Firmware writes such a word. MQUIET takes the nearer bound (R456); a frame that is given its region page becomes KEEPING there with
fresh cells (R300). -/
def State.setFwWord (s : State) (o v : Nat) : State :=
  if o < 0x4000 then
    s.modHome (o / 0x1000) (fun m =>
      if o % 0x1000 == 0 then { m with mquiet := min 40 (max 10 (bits v 0 6)), merge := bit v 6, plog := bits v 8 44 * 2 ^ 8 }
      else { m with mrate := max 1 (bits v 0 16) })
  else
    let f := (o - 2 ^ 46) / 32
    let r := s.frame f
    let s1 := if o / 8 % 4 == 0 && (r.region != bits v 32 8 || r.rpage != bits v 40 24) then s.dropCells f 1 else s
    s1.modFrame f (fun q => q.setWord (o / 8 % 4) v)

/-- A byte behind selector 0xF: of a firmware register, or of memory. -/
def State.fwByte (s : State) (pa : Nat) : Byte :=
  match s.fwWord (mmioOff pa / 8 * 8) with
  | some v => BitVec.ofNat 8 (v / 2 ^ (8 * (pa % 8)))
  | none => s.byte pa

/-- Write bytes behind selector 0xF. -/
def State.fwWrite (s : State) (pa size v : Nat) : State :=
  ((List.range ((pa % 8 + size + 7) / 8)).map (fun i => pa / 8 * 8 + 8 * i)).foldl (fun st w =>
    let lo := max pa w
    let n := min (pa + size) (w + 8) - lo
    let part := bits v (8 * (lo - pa)) (8 * n)
    match st.fwWord (mmioOff w) with
    | some old => st.setFwWord (mmioOff w) (mergeBytes old (lo - w) n part)
    | none => st.pokeNat lo n part) s

/-! ### Device registers behind selector 0xE -/

/-- A read of a device or firmware register by a mode. The PEND of an event has no mode to itself (R6, R480). -/
def State.mmioRead (s : State) (mode : Mode) (pa size : Nat) : Nat :=
  let o := mmioOff pa
  if selector pa == 15 then ofBytes ((List.range size).map (fun i => s.fwByte (pa + i)))
  else
  let unstated := Config.openRead s.tick % 2 ^ (8 * size)
  if o < 0x40 then (if modeRank mode ≥ 2 then sliceNat s.sysBytes o size else unstated)
  else if o < 0x108 then 0
  else if o < 0x208 then unstated
  else if o < 0x1200 then
    let k := (o - 0x1000) / 0x80
    let r := (o - 0x1000) % 0x80
    if mode != .fw then 0
    else if r < 0x40 then sliceNat (s.window64 k) r size
    else if r < 0x48 then unstated
    else bits (sget 0 s.hub.handles k).toNat (8 * (r - 0x48)) (8 * size)
  else
    let w := s.eventWord ((o - 0x10000) / 8)
    bits (if modeRank mode ≥ 2 then w else putBits (Config.openRead s.tick % 2 ^ 64) 14 1 (bits w 14 1)) (8 * (o % 8)) (8 * size)

/-- The doorbell (R482). -/
def State.ringDoorbell (s : State) (width v : Nat) : State :=
  if width == 8 && v < 0x400 && 0x100 ≤ v then s.raiseEvent v else s

/-- A write of an event's configuration word: PEND is cleared by a 1 of any mode, and the other fields are HOST's (R6, R480). `o` and
`size` say which bytes are written. -/
def State.eventConfig (s : State) (n : Nat) (mode : Mode) (o size v : Nat) : State :=
  if n ≥ 1024 then s
  else
    let old := s.eventWord n
    let given := mergeBytes (putBits old 14 1 0) o size v
    let pend := bit old 14 && !bit given 14
    let w := BitVec.ofNat 64 (putBits ((if modeRank mode < 2 then old else given) % 2 ^ 14) 14 1 (b2n pend))
    s.modPkg (fun p => { p with events := sset 0 p.events n w })

/-- A write to the CKPT register: HOST starts a checkpoint with a 1; during one it has no effect (R492). -/
def State.startCheckpoint (s : State) (mode : Mode) (v : Nat) : State :=
  if modeRank mode ≥ 2 && v == 1 && s.pkg.boot.ckpt == 0 then
    s.modPkg (fun p => { p with boot := { p.boot with ckpt := 1 } })
  else s

/-- Entries of the migration command queue (R384). -/
def migQueueLen : Nat := 256

/-- Number a migration engine command and give its handle: kind 2 for a MOVE, 5 for a SWEEP (R391, R417). -/
def State.migNumber (s : State) (cmd guest : Nat) : Word × State :=
  let (n, s1) := s.number 99 32 guest 4
  (BitVec.ofNat 64 ((if bits cmd 0 4 == 1 then 5 else 2) * 2 ^ 12 + n * 2 ^ 16), s1)

/-- A store of 1 to a submission doorbell queues the window's command (R417); a full queue is waited for before. -/
def State.submitWindow (s : State) (k : Nat) : State :=
  let cmd := ofBytes (s.window64 k)
  let (h, s1) := s.migNumber cmd (bits cmd 8 6)
  s1.modHub (fun u => { u with
    migQueue := u.migQueue ++ [⟨cmd, h, none, none, 0, none, none, 0, 0⟩]
    handles := sset 0 u.handles k h })

/-- Whether a write must wait: a doorbell while the migration queue is full (R417). -/
def State.mmioBusy (s : State) (mode : Mode) (pa : Nat) : Bool :=
  let o := mmioOff pa
  mode == .fw && 0x1000 ≤ o && o < 0x1200 && (o - 0x1000) % 0x80 == 0x40 && s.hub.migQueue.length ≥ migQueueLen

/-- A write of a device register by a mode. -/
def State.mmioWrite (s : State) (mode : Mode) (pa size v : Nat) : State :=
  let o := mmioOff pa
  if selector pa == 15 then s.fwWrite pa size v
  else if o < 0x40 then
    if mode != .fw then s
    else
      let old := sliceNat s.sysBytes (o / 8 * 8) 8
      s.modPkg (fun p => { p with sys := p.sys.write (o / 8) (mergeBytes old (o % 8) size v) })
  else if o < 0x108 then s.ringDoorbell (if o == 0x100 then size else 0) v
  else if o < 0x208 then (if o == 0x200 then s.startCheckpoint mode v else s)
  else if o < 0x1200 then
    let k := (o - 0x1000) / 0x80
    let r := (o - 0x1000) % 0x80
    if mode != .fw then s
    else if r < 0x40 then
      let w := s.window64 k
      let w' := w.take r ++ toBytes size v ++ w.drop (r + size)
      s.modHub (fun u => { u with windows := sset [] u.windows k w' })
    else if r == 0x40 && size == 8 && v == 1 then s.submitWindow k
    else s
  else s.eventConfig ((o - 0x10000) / 8) mode (o % 8) size v

/-- EVENT_RAISE (R481). -/
def execEventRaise (n : Nat) (s : State) : Out := .next (s.raiseEvent n)

/-- EVENT_DOORBELL (R482). -/
def execEventDoorbell (width : Nat) (value : Word) (s : State) : Out := .next (s.ringDoorbell width value.toNat)

/-- EVENT_CONFIG_WRITE (R480). -/
def execEventConfigWrite (n : Nat) (mode : Mode) (value : Word) (s : State) : Out :=
  .next (s.eventConfig n mode 0 8 value.toNat)

/-- CKPT (R492). -/
def execCkpt (mode : Mode) (value : Word) (s : State) : Out := .next (s.startCheckpoint mode value.toNat)

/-- SYSTEM_BLOCK_WRITE: ignored below FW (R483). -/
def execSystemBlockWrite (mode : Mode) (word : Nat) (value : Word) (s : State) : Out :=
  .next (if mode == .fw then s.modPkg (fun p => { p with sys := p.sys.write word value.toNat }) else s)

/-- MIGRATION_DOORBELL: waits while the queue is full (R417). -/
def execMigrationDoorbell (service : Nat) (s : State) : Out :=
  .next (if s.hub.migQueue.length ≥ migQueueLen then s else s.submitWindow service)

end Sys2Proof.Machine
end

