-- ==== Sys2Proof/Machine/Pool.lean ====
section
/-! DEFINITION. The hand-over of POOL pages between packages (18_translation R429, R430; 22_system R487). -/
namespace Sys2Proof.Machine

/-- Lines of a page as numbers. -/
def pageLines (pa : Nat) : List Nat := (List.range 32).map (fun i => pa / 128 + i)

/-- Write back and drop every copy of a page that the package holds in L1s and cluster caches. -/
def State.flushPage (s : State) (pa n : Nat) : State :=
  let sel (a : Nat) : Bool := pa ≤ a && a < pa + n
  let cores := (s.cores.map Prod.fst).filter (· < 192)
  let s1 := cores.foldl (fun st c => (st.l1Back c sel)) s
  let s2 := (s1.mem.clusters.map Prod.fst).foldl (fun st c => st.clusterBack c sel) s1
  let s3 := cores.foldl (fun st c => st.setL1 c ((st.core c).l1.dropAll sel)) s2
  (s3.mem.clusters.map Prod.fst).foldl (fun st c => st.setCluster c ((st.cluster c).dropAll sel)) s3

/-- Whether a cache's dirty bytes of a range cannot be written back now, because a receiver on their route holds them back (R17). -/
def State.flushWaits (s : State) (pa n : Nat) : Bool :=
  let sel (a : Nat) : Bool := pa ≤ a && a < pa + n
  s.cores.any (fun c => decide (c.1 < 192) && !(c.2.l1.dirty sel).isEmpty && !s.routeOpen c.1 pa) ||
  s.mem.clusters.any (fun c => !(c.2.dirty sel).isEmpty && !s.routeOpen (8 * c.1) pa)

/-- Recall and write back every copy of a page: scoped caches, partials, and the directory entries of its lines. -/
def State.recallPage (s : State) (pa n : Nat) : State :=
  let s1 := (s.flushPage pa n).mergeLines (pa / 128) (n / 128)
  match homeOf pa with
  | none => s1
  | some h => ((s1.home h).dir.filter (fun e => pa / 128 < e.base + e.lines && e.base < pa / 128 + n / 128)).foldl
      (fun st e => st.dropEntry h e) s1

/-- Whether the owner may give a page up: PIN 0, not MOVING, owned for 4,096 cycles (R429). -/
def State.mayGrant (s : State) (page : Nat) : Bool :=
  let f := s.frame (s.pageOf (poolAddr page / 4096)).1
  f.pin == 0 && f.mstate != 2 && !s.flushWaits (poolAddr page) 4096 && s.cycles.toNat ≥ sget 0 s.hub.gained page + 4096

/-- The word of a page stands at HANDOVER: the GRANT is sent, and the page's other requests go elsewhere (R429). -/
def State.handedOver (s : State) (page pkg : Nat) : State :=
  let rest := s.hub.ownWait.filter (fun r => r.page == page && r.dest != pkg)
  let s1 := rest.foldl (fun st r => st.send (.redirect page r.dest pkg)) (s.send (.grant page pkg))
  s1.modHub (fun u => { u with ownWait := u.ownWait.filter (fun r => r.page != page) })

/-- Hand a page over to a package: its copies are recalled, and its word becomes HANDOVER (R429). -/
def State.grantTo (s : State) (page pkg : Nat) : State :=
  let s1 := s.recallPage (poolAddr page) 4096
  let (ok, s2) := s1.setOwn page (ownNext (s1.ownWord page) s.pkg.pkg 2 pkg)
  if ok then s2.handedOver page pkg else s2

/-- Tell the packages that wait for a pinned page so, once each, and notify the guest that pinned it (R427, R429). -/
def State.waitPinned (s : State) (page : Nat) : State :=
  let f := s.frame (s.pageOf (poolAddr page / 4096)).1
  let told (r : OwnReq) : Bool := r.page == page && !r.waited
  if f.pin == 0 then s
  else
    let s1 := (s.hub.ownWait.filter told).foldl (fun st r => (st.send (.wait page r.dest)).notify f.pguest f.gpn 3 2) s
    s1.modHub (fun u => { u with ownWait := updWhere told (fun r => { r with waited := true }) u.ownWait })

/-- OWNERSHIP_REQ at the owner: GRANT, WAIT or REDIRECT; requests are answered in arrival order (R429). -/
def execOwnershipReq (page pkg : Nat) (s : State) : Out :=
  let w := s.ownWord page
  if !(ownState w == 1 && ownOwner w == s.pkg.pkg) then
    .next (s.send (.redirect page pkg (if ownState w == 2 then ownTo w else ownOwner w)))
  else if s.mayGrant page && !s.hub.ownWait.any (fun r => r.page == page) && !s.hub.changing.any (fun c => c.page == page) &&
      s.pkg.sys.metapkg == s.pkg.pkg then .next (s.grantTo page pkg)
  else
    .next ((s.modHub (fun u => { u with ownWait := u.ownWait ++ [⟨page, pkg, s.cycles.toNat, false⟩] })).waitPinned page)

/-- DELAYED_GRANT: the first waiting request is granted once the page may be given up (R429). -/
def execDelayedGrant (page : Nat) (s : State) : Out :=
  match s.hub.ownWait.find? (fun r => r.page == page) with
  | some r => .next (if s.owns page && s.mayGrant page && !s.hub.changing.any (fun c => c.page == page) then s.grantTo page r.dest else s)
  | none => .next s

/-- The page is OWNED here, as the wait for it wanted (R429). -/
def State.granted (s : State) (page : Nat) : State :=
  ((s.gainOwn page).modHub (fun u => { u with ownSent := u.ownSent.filter (fun r => r.page != page) })).bump
    (migKey (s.frame (poolAddr page / 4096)).guest 0x28)

/-- GRANT arrives with the page's bytes as the old owner wrote them back: its word stands at HANDOVER to this package, which makes it
OWNED (R429, R487). -/
def execGrant (page : Nat) (data : List (Nat × Byte)) (s : State) : Out :=
  let base := poolAddr page
  let s1 := s.cohPoke noHart ((data.filter (fun p => p.1 < 4096)).map (fun p => (base + p.1, p.2))) []
  let w := s1.ownWord page
  let s2 := s1.pokeNat (s.pkg.sys.poolmeta + 8 * page) 8 (ownNext w (ownOwner w) 2 s.pkg.pkg)
  let (ok, s3) := s2.takeOwn page
  .next (if ok then s3.granted page else s3)

/-- REDIRECT: the REQ is sent again to the new owner (R429). -/
def execRedirect (page pkg : Nat) (s : State) : Out :=
  if s.hub.ownSent.any (fun r => r.page == page) then
    .next ((s.modHub (fun u => { u with
      ownSent := updWhere (fun r => r.page == page) (fun r => { r with dest := pkg }) u.ownSent })).send (.ownReq page pkg))
  else .next s

/-- WAIT arrives: the owner holds the page pinned (R429). -/
def execWait (page : Nat) (s : State) : Out :=
  .next (s.modHub (fun u => { u with
    ownSent := updWhere (fun r => r.page == page) (fun r => { r with waited := true }) u.ownSent }))

/-- OWNERSHIP_TIMEOUT: no GRANT within 1,048,576 cycles; the REQ is withdrawn and what waits for the page finds the end of
its wait (R429). -/
def execOwnershipTimeout (page : Nat) (s : State) : Out :=
  match s.hub.ownSent.find? (fun r => r.page == page) with
  | none => .next s
  | some r =>
    if s.cycles.toNat < r.at_ + 1048576 then .next s
    else
      let mark (o : Option Nat) : Option Nat := o.map (fun v => if v == page then holdEnded page r.waited else v)
      let s1 := (s.modHub (fun u => { u with ownSent := u.ownSent.filter (fun q => q.page != page) })).bump
        (migKey (s.frame (poolAddr page / 4096)).guest 0x29)
      let s2 := (s1.harts.map Prod.fst).foldl (fun st h =>
        if (st.hart h).sched.hold == some page then
          st.modHart h (fun t => { t with sched := { t.sched with hold := mark t.sched.hold, wait := .none } }) else st) s1
      .next (s2.modRun (fun l => { l with ops := l.ops.map (fun o => { o with hold := mark o.hold }) }))

/-- What follows a change of a word once the metadata package has made it: the page is owned here, or is handed over (R429). -/
def State.changed (s : State) (c : OwnChange) : State :=
  if ownState c.new == 2 then s.handedOver c.page (ownTo c.new)
  else if ownState c.new == 1 && s.hub.ownSent.any (fun r => r.page == c.page) then s.granted c.page
  else if ownState c.new == 1 then s.gainOwn c.page
  else s

/-- METADATA_UPDATE at the metadata package: the change is made when the word is still what the sender read, and written through
before the reply (R487). At another member it is the word of a page as the metadata package wrote it: a change of this member's own
is over, made where the word is what it wrote, and otherwise the access that wanted it reads the word again. -/
def execMetadataUpdate (page pkg : Nat) (expected new : Word) (s : State) : Out :=
  if s.pkg.sys.metapkg == s.pkg.pkg then
    let hit := s.ownWord page == expected.toNat
    let s1 := if hit then s.homeWrite (s.pkg.sys.poolmeta + 8 * page) 8 new.toNat else s
    .next (s1.send (.ownerReply page pkg (BitVec.ofNat 64 (s1.ownWord page))))
  else
    let s1 := (s.homeWrite (s.pkg.sys.poolmeta + 8 * page) 8 new.toNat).modHub (fun u => { u with
      changing := u.changing.filter (fun c => c.page != page) })
    .next (match s.hub.changing.find? (fun c => c.page == page) with
      | some c => if c.new == new.toNat then s1.changed c else s1
      | none => s1)

end Sys2Proof.Machine
end

