-- ==== Sys2Proof/Machine/Access.lean ====
section
/-! DEFINITION. Addresses of memory forms and the checks that every member lane passes before anything commits
(11_access R241 to R244, R250, R266, R270; 09_traps R191; 10_spaces R219 to R225, R230, R234). -/
namespace Sys2Proof.Machine

/-- Where one lane's access goes, or one word of a PRIVATE access of two words: its virtual address and the physical address of each
byte, which of the access's bytes it begins with, and what its page asks for. -/
structure LaneRef where
  lane : Nat
  off : Nat
  va : Nat
  vas : List Nat
  pas : List Nat
  nc : Bool
  shr : Bool
  keep : Bool
  ru : Bool
  deriving DecidableEq, Repr

/-- The physical address of the first byte. -/
def LaneRef.pa (r : LaneRef) : Nat := r.pas.headD 0

/-- The bytes of a lane's value that a reference takes. -/
def LaneRef.slice (r : LaneRef) (bs : List Byte) : List Byte := (bs.drop r.off).take r.vas.length

/-- Whether an access reaches a device (R234). -/
def LaneRef.io (r : LaneRef) : Bool := selector r.pa == 14

/-- Whether an access is cached nowhere and performed at the home or device (R230). -/
def LaneRef.uncached (r : LaneRef) : Bool := r.shr || r.keep || selector r.pa ≥ 14

/-- Access size of an address form (R242). -/
def accessSize (o : Op) (x : Args) : Nat :=
  if o == .pref || o == .cctl then 128 else if isPair x.d || (o == .cas && isPair x.b) then 16 else tyBits x.ty / 8

/-- The address of a lane (R242). -/
def State.addrOf (s : State) (o : Op) (x : Args) (size l : Nat) : Nat :=
  let t := s.now
  let base : Int := match x.a with
    | .s r _ m => ((t.getS r.toNat).v.toNat : Int) + m.toInt * size
    | .v .. => (s.src .b64 x.a l : Int)
    | _ => 0
  let dataB := [Op.amo, .cas, .redu, .kld, .kst, .ksib, .krec].contains o
  let idx : Int := match x.b with
    | .s r _ _ => ((t.getS r.toNat).v.toNat : Int)
    | .v r _ _ => toSigned 32 (t.getV r.toNat l).v.toNat
    | .imm i => i.toInt
    | .spa n => n.toNat * 16
    | _ => 0
  let scale := match x.b with | .s _ _ m => m.toNat | .v _ _ m => m.toNat | _ => 0
  wrap 64 (if dataB then base else base + idx * 2 ^ scale)

/-- How an access treats a page of class KEEPING (R266, R310, R311). -/
inductive KeepUse where
  | read | plainStore | atomic | form | skip
  deriving DecidableEq, Repr

/-- The region descriptor of a region (R296). -/
def State.rdtAt (s : State) (region : Nat) : Nat := s.pkg.sys.rdt + 64 * region

/-- KEEP-ACCESS by its reason, if any (R296, R310). -/
def State.keepBad (s : State) (pa : Nat) (keep : Bool) (k : KeepUse) (size : Nat) : Option Nat :=
  if k == .form && !keep then some 3
  else if !keep || k == .skip then none
  else if k == .plainStore && size != 8 then some 1
  else if k == .atomic then some 2
  else if !bit (s.natAt (s.rdtAt (s.frame (s.recFrame (pa / 4096))).region) 1) 0 then some 4
  else none

/-- What the checks of one lane find. -/
inductive LaneCheck where
  | ok (rs : List LaneRef)
  | bad (cause taddr tinfo : Nat)
  | hold
  deriving DecidableEq, Repr

/-- The place of a cause in the order of R191. -/
def causeRank : Nat → Nat
  | 7 => 0 | 8 => 1 | 5 => 2 | 6 => 3 | 0xD => 4 | 0xC => 5 | _ => 6

/-- The virtual address of byte a of lane l's PRIVATE space (R223). -/
def Hart.privVa (t : Hart) (l a : Nat) : Nat := (t.place.pbase + (a / 4 * t.W + l) * 4 + a % 4) % 2 ^ 64

/-- ACCESS of R189. -/
def accessNo : AccessKind → Nat
  | .fetch => 0 | .load => 1 | .store => 2 | .atomic => 3 | .spill => 4 | .record => 5

/-- What an access does: its space, size, kind and needs. -/
structure Want where
  space : Nat
  size : Nat
  acc : AccessKind
  read : Bool
  write : Bool
  keep : KeepUse
  deriving DecidableEq, Repr

/-- Translate with every permission an access needs: R, W or both (R191, R310). -/
def State.translateFor (s : State) (cx : XCtx) (va : Nat) (w : Want) : XRes × State :=
  if w.read && w.write then
    match s.translate cx va w.acc false with
    | (.ok _ _, s1) => s1.translate cx va w.acc true
    | r => r
  else s.translate cx va w.acc w.write

/-- What a translated access still has to pass: an access to a device is one naturally aligned access of one lane (R234), and
a page of class KEEPING takes what R310 and R311 allow. `n` is how many contiguous bytes it reaches. -/
def State.placeBad (s : State) (w : Want) (many : Bool) (pa : Nat) (tr : Trans) (n : Nat) : Option (Nat × Nat) :=
  if selector pa == 14 && w.keep != .skip && (many || w.size > 8 || n != w.size) then some (7, w.size)
  else (s.keepBad pa (tr.pcls == 3) w.keep n).map (fun q => (0xD, q))

/-- The checks of `n` contiguous bytes of a lane's access at a virtual address, of which they are those from `off` on (R191, R234).
`many` says whether other lanes access too. -/
def State.checkPiece (s : State) (w : Want) (many : Bool) (l off va n : Nat) : LaneCheck × State :=
  match s.translateFor (s.xctx s.cur) va w with
  | (.fault c g, s1) => (.bad c va (accessNo w.acc + 16 * g), s1)
  | (.hold, s1) => (.hold, s1)
  | (.ok tr pa, s1) =>
    match s1.placeBad w many pa tr n with
    | some (c, i) => (.bad c va i, s1)
    | none => (.ok [⟨l, off, va, (List.range n).map (va + ·), (List.range n).map (pa + ·), tr.nc, tr.shr, tr.pcls == 3, tr.ru⟩], s1)

/-- What the checks of two parts of an access find together: the cause that comes first in the order of R191, then a hold. -/
def LaneCheck.and : LaneCheck → LaneCheck → LaneCheck
  | .ok a, .ok b => .ok (a ++ b)
  | .bad c a i, .bad d b j => if causeRank d < causeRank c then .bad d b j else .bad c a i
  | .bad c a i, _ => .bad c a i
  | _, .bad d b j => .bad d b j
  | _, _ => .hold

/-- The checks of one lane's access (R191, R220, R224, R234, R243): a PRIVATE access is checked word by word, since its words lie
W words apart (R223). PRIVATE-LIMIT reports the first address beyond the allotment (R188). -/
def State.checkLane (s : State) (w : Want) (many : Bool) (l a : Nat) : LaneCheck × State :=
  let t := s.now
  let bytes := (List.range w.size).map (fun i => (a + i) % 2 ^ 64)
  if a % w.size != 0 then (.bad 7 a w.size, s)
  else if w.space == 1 then
    if bytes.any (fun b => (s.kernelOf s.cur).scratch ≤ b) then (.bad 8 (a % 2 ^ 63 + 2 ^ 63) 0, s)
    else (.ok [⟨l, 0, a, (List.range w.size).map (a + ·), (List.range w.size).map (a + ·), false, false, false, false⟩], s)
  else if w.space == 2 then
    match bytes.find? (fun b => 4 * t.place.priv ≤ b) with
    | some b => (.bad 8 b 0, s)
    | none =>
      let n := if t.W == 1 then w.size else min 4 w.size
      (List.range (w.size / n)).foldl (fun r i =>
        let q := r.2.checkPiece w many l (n * i) (t.privVa l (a + n * i)) n
        (r.1.and q.1, q.2)) (.ok [], s)
  else s.checkPiece w many l 0 a w.size

/-- What the checks of a form find: the lanes' accesses, or how the form ends. -/
inductive Checked where
  | ok (rs : List LaneRef) (s : State)
  | out (o : Out)

/-- The POOL pages among some accesses that ownership applies to, each with the address and the lane (R295). -/
def poolPages (rs : List LaneRef) : List (Nat × Nat × Nat) :=
  (rs.filter (fun r => tierOf r.pa == 2 && !r.keep)).map (fun r => (poolPage r.pa, r.va, r.lane))

/-- The ownership check of the pages of an access: OWNERSHIP in the lanes of a page whose wait has ended, otherwise a hold
where ownership changes hands (R191, R429). -/
def State.ownAll (s : State) (pages : List (Nat × Nat × Nat)) : Option Out × State :=
  pages.foldl (fun r p =>
    match r.1 with
    | some _ => r
    | none =>
      let st := r.2
      let ended := [false, true].any (fun w => st.now.sched.hold == some (holdEnded p.1 w))
      let mark (u : State) (v : Option Nat) : State := u.modNow (fun t => { t with sched := { t.sched with hold := v } })
      match st.ownFor st.now.sched.hold p.1 with
      | (.ok, st1) => (none, if ended then mark st1 none else st1)
      | (.wait, st1) => (some ((mark st1 (some p.1)).block .form), st1)
      | (.bad i, st1) =>
        let st2 := mark st1 none
        (some (st2.raise 0xC p.2.1 i (maskOf ((pages.filter (fun q => q.1 == p.1)).map (fun q => q.2.2)))), st2))
    (none, s)

/-- The checks of every lane of a form, in the order of R191 (R270). `ls` gives each lane with its address. -/
def State.checkAll (s : State) (w : Want) (ls : List (Nat × Nat)) : Checked :=
  let many := ls.length != 1
  let r := ls.foldl (fun (acc : List (Nat × LaneCheck) × State) p =>
    let q := acc.2.checkLane w many p.1 p.2
    (acc.1 ++ [(p.1, q.1)], q.2)) ([], s)
  let causes := r.1.filterMap (fun p => match p.2 with | .bad c a i => some (p.1, c, a, i) | _ => none)
  match leastBy (fun q => causeRank q.2.1) causes with
  | some (_, c, a, i) =>
    .out (r.2.raise c a i (maskOf ((causes.filter (fun q => q.2.1 == c)).map Prod.fst)))
  | none =>
    if r.1.any (fun p => p.2 == .hold) then .out (r.2.block .form)
    else
      let refs := (r.1.map (fun p => match p.2 with | .ok q => q | _ => [])).flatten
      match refs.find? (fun q => w.space != 1 && w.keep != .skip && q.io && !mmioKnown (mmioOff q.pa)) with
      | some q => .out (.fault (.unknownDevice q.pa))
      | none =>
        match r.2.ownAll (poolPages (if w.space == 1 || w.keep == .skip then [] else refs)) with
        | (some o, _) => .out o
        | (none, s2) => .ok refs s2

/-- The context tag of a hart: the one SVSB gave it, or its own (R206; log entry 3). -/
def State.tagOf (s : State) (h : Nat) : Nat := if (s.hart h).ctx == 0 then h + 1 else (s.hart h).ctx

/-- Whether an access with ACQ of the hart still waits for its reply, so that no later memory form issues (R279). -/
def State.acqPending (s : State) (h : Nat) : Bool :=
  let acq (o : Nat) : Bool := o == 1 || o == 3 || o == 4
  s.mem.replies.any (fun r => r.hart == h && acq r.order) || s.mem.reqs.any (fun r => r.hart == h && acq r.order) ||
  (s.hart h).sb.any (fun e => e.strong && e.order == 4) ||
  s.mem.acks.any (fun a => a.tag == s.tagOf h && acq a.order) || s.hub.kvx.any (fun k => k.hart == h)

/-- ISSUE a memory form: it waits while an acquire of the team is under way (R279). -/
def memIssue (o : Op) (x : Args) (s : State) (f : State → Out) : Out :=
  issue o x s (fun s1 => if s1.acqPending s1.cur then s1.block .form else f s1)

/-- Lanes of a memory form with their addresses: its members, or lane 0 for a scalar form (R244). -/
def State.laneAddrs (s : State) (o : Op) (x : Args) (size : Nat) : List (Nat × Nat) :=
  (if perLane x then lanesOf s.now.W (s.now.members x) else [0]).map (fun l => (l, s.addrOf o x size l))

/-- The level a strong access or atomic is performed at: 0 L1, 1 cluster cache, 2 coherent level, 3 home or device (R250,
R230). -/
def LaneRef.level (r : LaneRef) (core scope : Nat) : Nat :=
  if r.uncached then 3
  else if scope ≥ 3 then 3
  else if core ≥ 192 then 2
  else if r.nc then max scope 2
  else scope

end Sys2Proof.Machine
end

