-- ==== Sys2Proof/Machine/Fetch.lean ====
section
/-! DEFINITION. Fetching an instruction's twelve bytes: translation of every page it touches (R28), the core's
instruction cache (R171), the patch overlay (R42), and the loop buffer (R170). -/
namespace Sys2Proof.Machine

/-- A byte that a compute core fetches past its instruction cache: a Dirty byte of its own path, else the coherent one; clean
copies may be older than what an IFLUSH makes visible (R46, R171; log entry 68). -/
def State.codeByte (s : State) (core a : Nat) (below : Byte) : Byte :=
  let dirty (c : Cache) : Option Byte := (c.get a).bind (fun b => if b.dirty then some b.b else none)
  match dirty (s.core core).l1 with
  | some b => b
  | none => (dirty (s.cluster (clusterOf core))).getD below

/-- Bytes of a sector as a core fetches them: from its instruction cache, else from memory into it (R171). What a fetch finds in an
uncorrectable sector, or is refused by the home, is free (log entry 88); a refusal is reported like that of a load (R517). `va` is the
virtual address. -/
def State.fetchBytes (s : State) (h : Nat) (home : Bool) (va a n : Nat) : List Byte × State :=
  let core := coreOf h
  let want := (List.range n).map (fun i => a + i)
  if want.all (fun b => (sget none (s.core core).icache b).isSome) then
    (want.map (fun b => (sget none (s.core core).icache b).getD 0), s)
  else
    let (s0, ok) := s.cohTouch (agentOf core) (s.hart h).guest ((s.hart h).mode == .fw) (a / 128) false home
    let (bs, bad) := s0.cohPeek a n
    let s1 := if ok then s0 else s0.lostAccess h 0x14 va
    let now := (placed a bs).map (fun p => (p.1,
      if bad || !ok then Config.openByte s.tick p.1 else if core < 192 then s1.codeByte core p.1 p.2 else p.2))
    let miss := now.filter (fun p => (sget none (s1.core core).icache p.1).isNone)
    let s2 := s1.modCore core (fun c => { c with icache := miss.foldl (fun m p => sset none m p.1 (some p.2)) c.icache })
    (want.map (fun b => (sget none (s2.core core).icache b).getD 0), s2)

/-- The pieces of a range that stay within 32-byte sectors. -/
def sectorPieces (a n : Nat) : List (Nat × Nat) :=
  let first := min n (32 - a % 32)
  (a, first) :: (if n ≤ first then []
    else (List.range ((n - first + 31) / 32)).map (fun i => (a + first + 32 * i, min 32 (n - first - 32 * i))))

/-- Replace the value bits of a patched operand in a word (R42): field 0 D, 1 A, 2 B, 3 WIDE. -/
def overlay (w field : Nat) (v : Int) : Nat :=
  match field with
  | 0 => putBits w 32 16 (wrap 16 v)
  | 1 => putBits w 52 16 (wrap 16 v)
  | 2 => putBits w 72 16 (wrap 16 v)
  | _ => putBits (putBits w 52 16 (wrap 36 v / 2 ^ 20)) 72 20 (wrap 36 v % 2 ^ 20)

/-- The patch overlay of a hart's launch for the instruction at an address (R42). -/
def State.patched (s : State) (h pc w : Nat) : Nat :=
  let t := s.hart h
  match (s.crewOf h).bind (fun c => s.launch? c.launch) with
  | none => w
  | some l =>
    if pc < t.place.codeStart || (pc - t.place.codeStart) % 12 != 0 then w
    else
      let i := (pc - t.place.codeStart) / 12
      (l.patches.filter (fun p => p.1 == i)).foldl (fun acc p => overlay acc p.2.1 p.2.2) w

/-- What a fetch gives: a word, a trap with its cause, address and report, or a hold (R425). -/
inductive Fetched where
  | word (w : Nat)
  | trap (cause taddr tinfo : Nat)
  | hold
  deriving DecidableEq, Repr

/-- Translate an address of a fetch of `n` bytes (R26, R28): a device takes no access of that size
(R234), and a POOL page must be owned (R429). -/
def State.fetchPage (s : State) (h va n : Nat) : Except Fetched (Trans × Nat) × State :=
  match s.translate (s.xctx h) va .fetch false with
  | (.fault c st, s1) => (.error (.trap c va (st * 16)), s1)
  | (.hold, s1) => (.error .hold, s1)
  | (.ok tr pa, s1) =>
    if selector pa == 14 then (.error (.trap 7 va n), s1)
    else if !tr.pooled pa then (.ok (tr, pa), s1)
    else
      match s1.ownFor (s1.hart h).sched.hold (poolPage pa) with
      | (.ok, s2) => (.ok (tr, pa), s2)
      | (.wait, s2) => (.error .hold, s2.modHart h (fun t => { t with sched := { t.sched with hold := some (poolPage pa) } }))
      | (.bad i, s2) => (.error (.trap 0xC va i), s2.modHart h (fun t => { t with sched := { t.sched with hold := none } }))

/-- Fetch the twelve bytes at an address for a hart (R26, R28). One at a pc that is not a multiple of 4 raises ALIGNMENT, which is
the model's choice: the spec gives it for branch targets (log entry 31). -/
def State.fetchAt (s : State) (h pc : Nat) : Fetched × State :=
  if pc % 4 != 0 then (.trap 7 pc 4, s)
  else
    let first := min 12 (4096 - pc % 4096)
    let get (st : State) (tr : Trans) (va a n : Nat) : List Byte × State :=
      let home := tr.shr || tr.pcls == 3 || selector a ≥ 14
      (sectorPieces a n).foldl (fun r p => let (b, q) := r.2.fetchBytes h home (va + (p.1 - a)) p.1 p.2; (r.1 ++ b, q)) ([], st)
    match s.fetchPage h pc 12 with
    | (.error e, s1) => (e, s1)
    | (.ok (tr, pa), s1) =>
      let (b1, s2) := get s1 tr pc pa first
      if first == 12 then (.word (s2.patched h pc (ofBytes b1)), s2)
      else
        match s2.fetchPage h (pc + first) 12 with
        | (.error e, s3) => (e, s3)
        | (.ok (tr2, pa2), s3) =>
          let (b2, s4) := get s3 tr2 (pc + first) pa2 (12 - first)
          (.word (s4.patched h pc (ofBytes (b1 ++ b2))), s4)

/-- Raise ILLEGAL for a word that fails a check at decode (R43). The kinds that TLBI takes depend on the mode, and a wrong one is found
before a wrong value (R411). -/
def State.illegalWord (s : State) (w c : Nat) : Out :=
  let f := Fields.ofWord w
  s.illegal (if c == 8 && Op.ofCode f.op f.sub == some .tlbi && s.now.mode != .user && !tlbiKinds s.now.mode f.args then 7 else c)

/-- The next word of a hart: from the loop body it issues from (R170), else fetched. Leaving the body ends its use. -/
def State.fetchNext (s : State) (h : Nat) : Fetched × State :=
  let t := s.hart h
  match t.sched.body.bind (fun b => b.words.find? (fun p => p.1 == t.pc.toNat)) with
  | some (_, w) => (.word w, s)
  | none =>
    let s1 := if t.sched.body.isSome then
        s.modHart h (fun u => { u with sched := { u.sched with body := none } }) else s
    s1.fetchAt h t.pc.toNat

/-- Words of a loop body as a capture reads them, or none where one cannot be fetched (R170). -/
def State.bodyWords (s : State) (h : Nat) : List Nat → Option (List (Nat × Nat))
  | [] => some []
  | a :: r =>
    match (s.fetchAt h a).1, s.bodyWords h r with
    | .word w, some l => some ((a, w) :: l)
    | _, _ => none

/-- Capture a loop body in the running hart's pipe at a taken LOOP; other harts of the pipe that issue from another body
fetch as usual again (R170). -/
def State.capture (s : State) (target pc : Nat) : State :=
  let h := s.cur
  if !isCompute h then s
  else
    let n := (pc - target) / 12 + 1
    match s.bodyWords h ((List.range n).map (fun i => target + 12 * i)) with
    | none => s.modNow (fun t => { t with sched := { t.sched with body := none } })
    | some ws =>
      let b : LoopBody := ⟨s.now.place.launch, ws⟩
      let mates := (s.harts.map Prod.fst).filter (fun i => isCompute i && i / 16 == h / 16 && i != h)
      let s1 := mates.foldl (fun st i => st.modHart i (fun t =>
        if t.sched.body == some b then t else { t with sched := { t.sched with body := none } })) s
      (s1.modCore (coreOf h) (fun c => { c with loops := sset none c.loops (pipeOf h) (some b) })).modNow
        (fun t => { t with sched := { t.sched with body := some b } })

end Sys2Proof.Machine
end

