-- ==== Sys2Proof/Machine/Control.lean ====
section
/-! DEFINITION. Branches, calls, the split stack, counted loops and mask forms (08_lanes_control R157 to R173). -/
namespace Sys2Proof.Machine

/-! ### Memory of the space PRIVATE, as spills use it (R162, R223, R225) -/

/-- Why an access to memory of the space PRIVATE fails: a trap with its cause, address and report, a wait at an address (R425, R429),
or a wait for earlier accesses of the team (R274, R279). -/
inductive PrivFail where
  | trap (cause taddr tinfo : Nat)
  | hold (va : Nat) (write : Bool)
  | wait
  deriving DecidableEq, Repr

/-- What a failure of a piece's translation means. -/
def privFail (acc : AccessKind) (write : Bool) (e : XRes) (va : Nat) : PrivFail :=
  match e with
  | .fault c st => .trap c va (accessNo acc + 16 * st)
  | _ => .hold va write

/-- Gain the POOL pages among some runs for a hart, or say why not (R429). A spill or refill only waits (R183). -/
def State.ownRuns (s : State) (h : Nat) (write raises : Bool) (rs : List Run) : Except PrivFail State :=
  (rs.filter (fun r => r.tr.pooled r.pa)).foldl (fun acc r =>
    match acc with
    | .error e => .error e
    | .ok st =>
      match st.ownFor (if raises then (st.hart h).sched.hold else none) (poolPage r.pa) with
      | (.ok, st') => .ok st'
      | (.wait, _) => .error (.hold r.va write)
      | (.bad i, _) => .error (.trap 0xC r.va i)) (.ok s)

/-- What an access that is held has done: the promotion or the REQ it waits for is under way (R425, R429). -/
def State.awaitVa (s : State) (h va : Nat) (acc : AccessKind) (write : Bool) : State :=
  match s.translate (s.xctx h) va acc write with
  | (.ok _ pa, s1) => (s1.ownStep (poolPage pa)).2.modHart h (fun t => { t with
      sched := { t.sched with hold := some (poolPage pa) } })
  | (_, s1) => s1

/-- How a form of the running hart ends whose access fails. -/
def State.privStop (s : State) (acc : AccessKind) (mask : Mask) : PrivFail → Out
  | .trap c a i => s.raise c a i mask
  | .hold a w => (s.awaitVa s.cur a acc w).block .form
  | .wait => s.block .form

/-- The runs of a range of a hart's PRIVATE memory or records, their POOL pages owned. -/
def State.privRuns (s : State) (h va n : Nat) (acc : AccessKind) (write : Bool) : Except PrivFail (List Run × State) :=
  match s.runs (s.xctx h) va n acc write with
  | .error (e, a) => .error (privFail acc write e a)
  | .ok (rs, s1) =>
    match s1.ownRuns h write (acc != .spill) rs with
    | .error f => .error f
    | .ok s2 => .ok (rs, s2)

/-- Whether a page is cached nowhere (R230). -/
def Trans.uncached (t : Trans) (pa : Nat) : Bool := t.shr || t.pcls == 3 || selector pa ≥ 14

/-- Write the cells of a run on a page of class KEEPING: each is one plain store at its home, which the hart's %uasc counts (R294,
R311). -/
def State.keepCells (s : State) (h : Nat) (r : Run) (bs : List Byte) : State :=
  let t := s.hart h
  (List.range (r.n / 8)).foldl (fun st i =>
    let (id, st1) := st.fresh
    let q : Req :=
      { id := id, hart := h, core := coreOf h, crew := t.place.crewKey, guest := t.guest, mode := t.mode, tag := s.tagOf h, level := 3
        pa := r.pa + 8 * i, va := r.va + 8 * i, size := 8, kind := .store (placed (r.pa + 8 * i) ((bs.drop (8 * i)).take 8)) []
        lane := none, reg := none, order := 0, scope := 0, ty := .b64, clock := 0, since := s.cycles.toNat, ru := false, group := 0
        parked := false, released := false, keep := true, weak := true }
    (st1.modMem (fun m => { m with reqs := m.reqs ++ [q] })).modHart h (fun u => { u with uasc := u.uasc + 1 })) s

/-- Write the bytes of a run as its page asks (R230): into the core's L1, at the coherent level, or at the home. -/
def State.privPut (s : State) (h : Nat) (r : Run) (bs : List Byte) : State :=
  let core := coreOf h
  let t := s.hart h
  let l := r.addrs.zip bs
  if r.tr.pcls == 3 then s.keepCells h r bs
  else if core < 192 && !r.tr.nc && !r.tr.uncached r.pa then s.storeL1 core t.guest false l []
  else ((l.map (fun p => p.1 / 128)).eraseDups).foldl (fun st k =>
    let (st1, ok) := st.cohTouch (agentOf core) t.guest (t.mode == .fw) k true (r.tr.uncached r.pa)
    let mine := l.filter (fun p => p.1 / 128 == k)
    if ok then st1.cohPoke h (st1.guarded t.mode mine) [] else st1.lostAccess h 0x14 r.va) s

/-- Store bytes at a virtual address as PRIVATE write-back data of a hart, a weak access that waits for an acquire under way (R275,
R279). A device takes no such access (R234), and a KEEPING page takes it where its region is valid (R310; log entry 89). -/
def State.privStore (s : State) (h va : Nat) (bs : List Byte) (acc : AccessKind) : Except PrivFail State :=
  if s.acqPending h then .error .wait
  else
    match s.privRuns h va bs.length acc true with
    | .error f => .error f
    | .ok (rs, s1) =>
      match rs.find? (fun r => selector r.pa == 14), rs.findSome? (fun r => (s1.keepBad r.pa (r.tr.pcls == 3) .plainStore 8).map (fun q => (r.va, q))) with
      | some r, _ => .error (.trap 7 r.va bs.length)
      | none, some (a, q) => .error (.trap 0xD a q)
      | none, none => .ok ((rs.foldl (fun acc r => (acc.1.privPut h r (acc.2.take r.n), acc.2.drop r.n)) (s1, bs)).1)

/-- Load bytes at a virtual address as weak loads of a hart; flagged when uncorrectable, and then free (log entry 88). What a home
refuses is reported (R517). -/
def State.privLoad (s : State) (h va n : Nat) (acc : AccessKind) : Except PrivFail (List Byte × Bool × State) :=
  if s.acqPending h then .error .wait
  else
    match s.privRuns h va n acc false with
    | .error f => .error f
    | .ok (rs, s1) =>
      match rs.find? (fun r => selector r.pa == 14), rs.findSome? (fun r => (s1.keepBad r.pa (r.tr.pcls == 3) .read n).map (fun q => (r.va, q))) with
      | some r, _ => .error (.trap 7 r.va n)
      | none, some (a, q) => .error (.trap 0xD a q)
      | none, none =>
        if s.mem.reqs.any (fun q => q.hart == h && rs.any (fun r => r.pa < q.pa + q.size && q.pa < r.pa + r.n)) then .error .wait
        else
          let t := s.hart h
          let read (tr : Trans) (acc : List Byte × Bool × State) (va pa : Nat) : List Byte × Bool × State :=
            let st := acc.2.2
            let (b, bad, st1) := st.weakRead (coreOf h) t.guest (t.mode == .fw) tr.nc (tr.uncached pa) false false pa 1
            (acc.1 ++ (if bad then [Config.openByte s.tick pa] else b), acc.2.1 || bad,
              if st1.rejCount == st.rejCount then st1 else st1.lostAccess h 0x14 va)
          .ok (rs.foldl (fun acc r => (List.range r.n).foldl (fun acc i => read r.tr acc (r.va + i) (r.pa + i)) acc) ([], false, s1))

/-! ### The split stack -/

/-- Bytes of an entry (R161). -/
def entrySize (W : Nat) : Nat := 8 + 8 * ((W + 63) / 64)

/-- An entry in its memory layout (R161). -/
def SEntry.bytes (e : SEntry) (W : Nat) : List Byte :=
  toBytes 8 (if e.path then putBits 1 2 55 (bits e.pc.toNat 2 55) else 0) ++
  ((List.range ((W + 63) / 64)).map (fun i => toBytes 8 (maskWord e.mask i))).flatten

/-- An entry read from its memory layout; PC[63:57] repeat PC[56] (R161, R218). -/
def SEntry.ofBytes (W : Nat) (bs : List Byte) : SEntry :=
  let h := Sys2Proof.Machine.ofBytes (bs.take 8)
  let pc := bits h 2 55 * 4
  ⟨bit h 0, BitVec.ofNat 64 (if bit pc 56 then pc + 127 * 2 ^ 57 else pc),
   BitVec.ofNat 1024 (Sys2Proof.Machine.ofBytes (bs.drop 8)) &&& allLanes W⟩

/-- Start of a hart's spill area (R162). -/
def Hart.spillBase (t : Hart) : Nat := t.place.pbase + roundUp (4 * t.place.priv * t.W) 128

/-- Spill the deepest resident entries of a hart until at most 16 stay (R162). -/
def State.spill (s : State) (h : Nat) (fuel : Nat) : Except PrivFail State :=
  match fuel with
  | 0 => .ok s
  | n + 1 =>
    let t := s.hart h
    if t.stack.length ≤ 16 then .ok s
    else match t.stack.getLast? with
      | none => .ok s
      | some e =>
        match s.privStore h (t.spillBase + t.spilled * entrySize t.W) (e.bytes t.W) .spill with
        | .error f => .error f
        | .ok s1 =>
          State.spill ((s1.pmcAdd (coreOf h) 13 1 t.guest none).modHart h
            (fun u => { u with stack := u.stack.dropLast, spilled := u.spilled + 1 })) h n

/-- Bring the uppermost spilled entry back below the resident ones (R162). -/
def State.refill (s : State) (h : Nat) : Except PrivFail State :=
  let t := s.hart h
  if t.spilled == 0 then .ok s
  else match s.privLoad h (t.spillBase + (t.spilled - 1) * entrySize t.W) (entrySize t.W) .spill with
    | .error f => .error f
    | .ok (bs, _, s1) =>
      .ok ((s1.pmcAdd (coreOf h) 13 1 t.guest none).modHart h
        (fun u => { u with stack := u.stack ++ [SEntry.ofBytes t.W bs], spilled := u.spilled - 1 }))

/-- What a hart may find of its uppermost spilled entries once `len` stay in the pipe: those that are to come back must
translate (R162, R183). -/
def State.refillReady (s : State) (h len : Nat) : Except PrivFail State :=
  let t := s.hart h
  let n := min (16 - len) t.spilled
  if n == 0 then .ok s
  else match s.privRuns h (t.spillBase + (t.spilled - n) * entrySize t.W) (n * entrySize t.W) .spill false with
    | .error f => .error f
    | .ok (_, s1) => .ok s1

/-- Push entries, the first deepest, onto the running hart's stack as one step and go on with `f`; checks the limit and
the spills before any change (R162). -/
def pushing (s : State) (es : List SEntry) (f : State → Out) : Out :=
  let t := s.now
  if t.depth + es.length > t.place.sslimit then s.raise 9 0 t.place.sslimit 0
  else
    let s1 := s.modNow (fun u => { u with stack := es.reverse ++ u.stack })
    match s1.spill s.cur (t.stack.length + es.length) with
    | .error e => s.privStop .spill 1 e
    | .ok s2 => f s2

/-- The branch target PC + 12 * off (R26, R159). -/
def branchTo (pc : Word) (off : Int) : Word := pc + BitVec.ofInt 64 (12 * off)

/-- The offset of a branch: an IMM in B, or the WIDE immediate (R158, R159). -/
def offsetOf (x : Args) : Int := match x.a with | .wide i => i.toInt | _ => immInt x.b

/-- Continue the running hart at an address. A backward transfer ends the use of a captured loop body (R171). -/
def State.goto (s : State) (pc : Word) : Out :=
  .next (s.modNow (fun t => { t with
    pc := pc, sched := if pc.toNat ≤ t.pc.toNat then { t.sched with body := none } else t.sched }))

/-- BR (R159). -/
def execBr (x : Args) (s : State) : Out := issue .br x s (fun s1 => s1.goto (branchTo s1.now.pc (offsetOf x)))

/-- BRC: A at T's width compared with zero (R159). -/
def execBrc (x : Args) (s : State) : Out :=
  issue .brc x s (fun s1 =>
    if (match x.sub.toNat with
        | 0 => interp x.ty (s1.src x.ty x.a 0) == 0
        | 1 => interp x.ty (s1.src x.ty x.a 0) != 0
        | 2 => interp x.ty (s1.src x.ty x.a 0) < 0
        | 3 => interp x.ty (s1.src x.ty x.a 0) ≤ 0
        | 4 => interp x.ty (s1.src x.ty x.a 0) > 0
        | _ => interp x.ty (s1.src x.ty x.a 0) ≥ 0)
    then s1.goto (branchTo s1.now.pc (immInt x.b)) else s1.done)

/-- BRZ: taken when no lane of %exec is in A (R159). -/
def execBrz (x : Args) (s : State) : Out :=
  issue .brz x s (fun s1 =>
    if (s1.now.readMask x.a &&& s1.now.exec) == 0 then s1.goto (branchTo s1.now.pc (immInt x.b)) else s1.done)

/-- BRD (R163). -/
def execBrd (x : Args) (s : State) : Out :=
  issue .brd x s (fun s1 =>
    let t := s1.now
    let take := t.exec &&& t.guardLanes x &&& t.readMask x.a
    let rest := t.exec &&& ~~~take
    let dest := branchTo t.pc (immInt x.b)
    let rec_ : SEntry := ⟨false, 0, t.exec⟩
    if take != 0 && rest != 0 then
      pushing s1 [rec_, ⟨true, dest, take⟩] (fun s2 => .next (s2.modNow (fun u => { u with exec := rest }.advance)))
    else if take != 0 then pushing s1 [rec_] (fun s2 => s2.goto dest)
    else pushing s1 [rec_] (fun s2 => s2.done))

/-- The groups of MBR in their order F, G0 to G3, each with its lanes and target, the empty ones left out (R164). -/
def mbrGroups (t : Hart) (x : MbrArgs) : List (Mask × Word) :=
  let offs := [x.o0, x.o1, x.o2, x.o3]
  let used := (List.range 4).filter (fun i => (offs[i]?.getD 0) != 0)
  let holds (i l : Nat) : Bool := laneIn (t.getK (x.g.toNat + i)).v l
  let first (l : Nat) : Option Nat := used.find? (fun i => holds i l)
  let lanes := lanesOf t.W t.exec
  let fall := (maskOf (lanes.filter (fun l => (first l).isNone)), t.pc + 12)
  let gs := used.map (fun i =>
    (maskOf (lanes.filter (fun l => first l == some i)), branchTo t.pc (offs[i]?.getD 0).toInt))
  (fall :: gs).filter (fun g => g.1 != 0)

/-- MBR (R164): the predicates of unused pairs are not read. -/
def execMbr (x : MbrArgs) (s : State) : Out :=
  let t := s.now
  match checkMbr x with
  | some c => s.illegal c
  | none =>
    let offs := [x.o0, x.o1, x.o2, x.o3]
    if t.sb.length > 64 then s.block .form
    else if (List.range 4).any (fun i => (offs[i]?.getD 0) != 0 && (t.getK (x.g.toNat + i)).empty) then s.block .operands
    else
      let s1 := s.unwait
      let gs := mbrGroups t x
      let rec_ : SEntry := ⟨false, 0, t.exec⟩
      match gs with
      | [] => pushing s1 [rec_] (fun s2 => s2.done)
      | (m, a) :: others =>
        pushing s1 (rec_ :: others.reverse.map (fun g => ⟨true, g.2, g.1⟩)) (fun s2 =>
          (s2.modNow (fun u => { u with exec := m })).goto a)

/-- What the pops of a JOIN find in a list of entries: the mask and address to go on with, and what stays (R165); none
when they run out. -/
def popJoin (live : Mask) (next : Word) : List SEntry → Option (Mask × Word × List SEntry)
  | [] => none
  | e :: r =>
    if e.path then (if e.mask &&& live != 0 then some (e.mask &&& live, e.pc, r) else popJoin live next r)
    else some (e.mask &&& live, next, r)

/-- The pops of a JOIN on the running hart's stack, spilled entries brought back where those in the pipe run out (R162, R165):
the mask and address to go on with, the entries that stay in the pipe, and the state; one refill for each unit of fuel. -/
def State.pops (s : State) (next : Word) : Nat → Except PrivFail (Mask × Word × List SEntry × State)
  | 0 => .ok (s.now.live, next, [], s)
  | n + 1 =>
    match popJoin s.now.live next s.now.stack with
    | some (m, a, r) => .ok (m, a, r, s)
    | none =>
      if s.now.spilled == 0 then .ok (s.now.live, next, [], s)
      else match (s.modNow (fun t => { t with stack := [] })).refill s.cur with
        | .error f => .error f
        | .ok s1 => State.pops s1 next n

/-- The running hart pops as JOIN does (R165, R166). A spilled entry that does not translate makes the form trap, and one that
is held makes it wait, in the state before the form (R162, R183). -/
def State.joinFrom (s old : State) : Out :=
  let next := s.now.pc + 12
  match s.pops next (s.now.spilled + 1) with
  | .error f => old.privStop .spill 1 f
  | .ok (m, a, r, s1) =>
    match s1.refillReady s1.cur r.length with
    | .error f => old.privStop .spill 1 f
    | .ok s2 =>
      let s3 := s2.modNow (fun u => { u with exec := m, stack := r })
      if a == next then s3.done else s3.goto a

/-- JOIN (R165). -/
def execJoin (x : Args) (s : State) : Out :=
  issue .join x s (fun s1 => if s1.now.depth == 0 then s1.raise 4 0 0 s1.now.exec else s1.joinFrom s1)

/-- CALL: the link is PC + 12 (R160). -/
def execCall (x : Args) (s : State) : Out :=
  issue .call x s (fun s1 =>
    let pc := s1.now.pc
    (s1.modNow (fun t => t.setS (regOf x.d) (pc + 12))).goto (branchTo pc (offsetOf x)))

/-- A jump to an address in a register: a target that is not 4-byte aligned raises ALIGNMENT (R28, R160). -/
def State.jump (s : State) (a : Word) : Out :=
  if a.toNat % 4 != 0 then s.raise 7 a.toNat 4 1 else s.goto a

/-- RET (R160). -/
def execRet (x : Args) (s : State) : Out := issue .ret x s (fun s1 => s1.jump (s1.now.getS (regOf x.a)).v)

/-- JMPI (R160). -/
def execJmpi (x : Args) (s : State) : Out := issue .jmpi x s (fun s1 => s1.jump (s1.now.getS (regOf x.a)).v)

/-- LOOP (R169); a taken one captures its body (R170). -/
def execLoop (x : Args) (s : State) : Out :=
  issue .loop x s (fun s1 =>
    let t := s1.now
    let d := (t.getS (regOf x.d)).v - 1
    let s2 := s1.modNow (fun u => u.setS (regOf x.d) d)
    if d != 0 then
      let a := branchTo t.pc (immInt x.b)
      (match s2.goto a with
       | .next s3 => .next (s3.capture a.toNat t.pc.toNat)
       | o => o)
    else s2.done)

/-- YIELD: not ready in the next cycle while another team of the pipe is (R172). -/
def execYield (x : Args) (s : State) : Out :=
  issue .yield x s (fun s1 =>
    (s1.modNow (fun t => { t with sched := { t.sched with yielded := true } })).done)

/-- EXIT (R166): the members leave %live; a team left without active lanes goes on as JOIN does. -/
def execExit (x : Args) (s : State) : Out :=
  issue .exit x s (fun s1 =>
    let t := s1.now
    let s2 := s1.modNow (fun u => u.setLive (u.live &&& ~~~(u.members x)))
    let u := s2.now
    if u.live != 0 && u.exec == 0 && t.depth != 0 then s2.joinFrom s1 else s2.done)

/-- NOP (R172). -/
def execNop (x : Args) (s : State) : Out := issue .nop x s State.done

/-- The code of BRK and TRAP: the IMM pattern zero-extended, 0 for NONE (R172, R198). -/
def codeOf (x : Args) : Nat := match x.a with | .imm i => i.toNat | _ => 0

/-- BRK raises BREAKPOINT (R172). -/
def execBrk (x : Args) (s : State) : Out := issue .brk x s (fun s1 => s1.raise 0x11 0 (codeOf x) 0)

/-! ### Mask forms (R168, R173) -/

/-- A mask form that writes a mask computed from the sources (R173). -/
def maskForm (o : Op) (x : Args) (f : Hart → Mask) (s : State) : Out :=
  issue o x s (fun s1 => .next (s1.modNow (fun t => (t.writeMask x.d (f t)).advance)))

/-- A mask form that writes a number to an S register (R173). -/
def maskCountForm (o : Op) (x : Args) (f : Hart → Word) (s : State) : Out :=
  issue o x s (fun s1 => .next (s1.modNow (fun t => (t.setS (regOf x.d) (f t)).advance)))

/-- KAND (R173). -/
def execKand (x : Args) (s : State) : Out := maskForm .kand x (fun t => t.readMask x.a &&& t.readMask x.b) s

/-- KOR (R173). -/
def execKor (x : Args) (s : State) : Out := maskForm .kor x (fun t => t.readMask x.a ||| t.readMask x.b) s

/-- KXOR (R173). -/
def execKxor (x : Args) (s : State) : Out := maskForm .kxor x (fun t => t.readMask x.a ^^^ t.readMask x.b) s

/-- KNOT (R173). -/
def execKnot (x : Args) (s : State) : Out := maskForm .knot x (fun t => allLanes t.W &&& ~~~(t.readMask x.a)) s

/-- Put a 64-bit word into a mask at word i, bits at or above W dropped (R173). -/
def putMaskWord (W : Nat) (m : Mask) (i v : Nat) : Mask :=
  BitVec.ofNat 1024 (putBits m.toNat (64 * i) 64 v) &&& allLanes W

/-- KMOV: mask to mask, mask word to S, or S to mask word; a word number at or above ceil(W / 64) reads 0 and writes
nothing (R173). -/
def execKmov (x : Args) (s : State) : Out :=
  issue .kmov x s (fun s1 =>
    let t := s1.now
    let i := s1.scalar x.b
    let inside := i < (t.W + 63) / 64
    let t' :=
      if isMaskOp x.d && isMaskOp x.a then t.writeMask x.d (t.readMask x.a)
      else if isMaskOp x.a then t.setS (regOf x.d) (if inside then BitVec.ofNat 64 (maskWord (t.readMask x.a) i) else 0)
      else if inside then t.writeMask x.d (putMaskWord t.W (t.readMask x.d) i (s1.scalar x.a))
      else t
    .next (s1.setHart s1.cur t'.advance))

/-- KPOP (R173). -/
def execKpop (x : Args) (s : State) : Out :=
  maskCountForm .kpop x (fun t => BitVec.ofNat 64 (lanesOf t.W (t.readMask x.a)).length) s

/-- KFFS: the lowest set bit, all ones for none (R173). -/
def execKffs (x : Args) (s : State) : Out :=
  maskCountForm .kffs x (fun t =>
    match lanesOf t.W (t.readMask x.a) with | l :: _ => BitVec.ofNat 64 l | [] => BitVec.allOnes 64) s

/-- EXEC: narrow %exec and give the old mask (R168). -/
def execExec (x : Args) (s : State) : Out :=
  issue .exec x s (fun s1 =>
    .next (s1.modNow (fun t =>
      let old := t.exec
      ((t.setExec (t.exec &&& t.readMask x.a)).writeMask x.d old).advance)))

/-- EXECR: %exec becomes A within the live lanes (R168). -/
def execExecr (x : Args) (s : State) : Out :=
  issue .execr x s (fun s1 => .next (s1.modNow (fun t => (t.setExec (t.readMask x.a)).advance)))

end Sys2Proof.Machine
end

