-- ==== Sys2Proof/Machine/Flags.lean ====
section
/-! DEFINITION. The floating-point mode and flag registers (06_numbers R123 to R127) and the shape of the forms that
set flags. -/
namespace Sys2Proof.Machine

/-- Flags as R126 numbers them: NX, UF, OF, DZ, NV. -/
abbrev Flags := BitVec 5

/-- Inexact (R126). -/
def fNX : Flags := 1
/-- Underflow (R126). -/
def fUF : Flags := 2
/-- Overflow (R126). -/
def fOF : Flags := 4
/-- Division by zero or a pole (R126). -/
def fDZ : Flags := 8
/-- Invalid operation (R126). -/
def fNV : Flags := 16

/-- A flag when a condition holds. -/
def fIf (c : Bool) (f : Flags) : Flags := if c then f else 0

/-- A result pattern with the flags it sets. -/
abbrev Res := Nat × Flags

/-- The modes that an instruction works under: the rounding mode of R120 by its number, and the bits of %fpm (R123). -/
structure Env where
  rm : Nat
  ftzin : Bool
  ftzout : Bool
  sat8 : Bool
  nanpay : Bool
  deriving DecidableEq, Repr

/-- What a write of %fpm stores: reserved bits 0, RMODE 0 and 7 replaced by 1 (R123). -/
def fpmStored (v : Nat) : BitVec 7 :=
  BitVec.ofNat 7 (if bits v 0 3 == 0 || bits v 0 3 == 7 then putBits v 0 3 1 else v)

/-- The modes of a %fpm value under an RM field; RM 0 takes the dynamic mode (R120). -/
def envOf (fpm : BitVec 7) (rm : Nat) : Env :=
  let f := fpm.toNat
  ⟨if rm == 0 then bits f 0 3 else rm, bit f 3, bit f 4, bit f 5, bit f 6⟩

/-- The modes under which R145 and R353 round: to nearest even, whatever RMODE says. -/
def Env.nearest (e : Env) : Env := { e with rm := 1 }

/-- OR flags into %fflags (R126). -/
def Hart.raiseFlags (t : Hart) (f : Flags) : Hart := { t with fflags := t.fflags ||| f }

/-- The OR of the flags of several results. -/
def orFlags (rs : List (Nat × Res)) : Flags := rs.foldl (fun f r => f ||| r.2.2) 0

/-- Write computed values, one per listed lane, to D, or the first to an S destination; NONE discards them (R85). -/
def Hart.wrAll (t : Hart) (ty : Ty) (d : Operand) (rs : List (Nat × Res)) : Hart :=
  match d with
  | .s r _ _ =>
    (match rs with
     | [] => t
     | p :: _ => t.setS r.toNat (extended ty (interp ty p.2.1)))
  | .v r _ _ => rs.foldl (fun u p => u.wrLane ty r.toNat p.1 (extended ty (interp ty p.2.1))) t
  | _ => t

/-- The lanes that a form computes: its members, or one value for a scalar form (R85). -/
def formLanes (t : Hart) (x : Args) : List Nat := if perLane x then lanesOf t.W (t.members x) else [0]

/-- A form that writes D and sets flags when it completes (R126, R134). -/
def fpForm (o : Op) (x : Args) (f : State → Env → Nat → Res) (s : State) : Out :=
  issue o x s (fun s1 =>
    let t := s1.now
    let env := envOf t.fpm x.rm.toNat
    let rs := (formLanes t x).map (fun l => (l, f s1 env l))
    .next (s1.setHart s1.cur ((t.wrAll x.ty x.d rs).raiseFlags (orFlags rs)).advance))

end Sys2Proof.Machine
end

