-- ==== Sys2Proof/Machine/Float.lean ====
section
/-! DEFINITION. Floating-point formats, exact values, the one rounding of a result, NaN results, and the exact
arithmetic of 06_numbers R110 to R130. -/
namespace Sys2Proof.Machine

/-- A format (R110): exponent bits, fraction bits, bias, and whether the top code holds an infinity. -/
structure Fmt where
  eb : Nat
  mb : Nat
  bias : Nat
  inf : Bool
  deriving DecidableEq, Repr

/-- The formats of R110. -/
def fmtF64 : Fmt := ⟨11, 52, 1023, true⟩
/-- F32 (R110). -/
def fmtF32 : Fmt := ⟨8, 23, 127, true⟩
/-- F16 (R110). -/
def fmtF16 : Fmt := ⟨5, 10, 15, true⟩
/-- BF16 (R110). -/
def fmtBF16 : Fmt := ⟨8, 7, 127, true⟩
/-- E5M2 (R110). -/
def fmtE5M2 : Fmt := ⟨5, 2, 15, true⟩
/-- E4M3, and E4M3U below its bit 7 (R110). -/
def fmtE4M3 : Fmt := ⟨4, 3, 7, false⟩

/-- The format of a type's elements (R110, R116). -/
def fmtOf : Ty → Fmt
  | .f64 => fmtF64
  | .f16 | .p2f16 => fmtF16
  | .bf16 | .p2bf16 => fmtBF16
  | .e5m2 | .p4e5m2 => fmtE5M2
  | .e4m3 | .e4m3u | .p4e4m3 => fmtE4M3
  | _ => fmtF32

/-- Bits of a format. -/
def Fmt.width (f : Fmt) : Nat := 1 + f.eb + f.mb

/-- Whether SAT8 acts on a format: the two of 8 bits (R121). -/
def Fmt.is8 (f : Fmt) : Bool := f.width == 8

/-- The pattern of a sign and a magnitude code. -/
def Fmt.signed (f : Fmt) (neg : Bool) (code : Nat) : Nat := b2n neg * 2 ^ (f.eb + f.mb) + code

/-- The code of the largest finite magnitude (R110). -/
def Fmt.maxCode (f : Fmt) : Nat := if f.inf then (2 ^ f.eb - 1) * 2 ^ f.mb - 1 else 2 ^ (f.eb + f.mb) - 2

/-- The code of an infinity, or of the NaN that stands for it (R121). -/
def Fmt.infCode (f : Fmt) : Nat := if f.inf then (2 ^ f.eb - 1) * 2 ^ f.mb else 2 ^ (f.eb + f.mb) - 1

/-- The canonical NaN (R110). -/
def Fmt.canon (f : Fmt) : Nat := if f.inf then (2 ^ f.eb - 1) * 2 ^ f.mb + 2 ^ (f.mb - 1) else 2 ^ (f.eb + f.mb) - 1

/-- A value: a NaN with its payload and the payload's width (R111), an infinity, or ±(n / d) × 2^e. -/
inductive Fp where
  | nan (neg sig : Bool) (pay pw : Nat)
  | inf (neg : Bool)
  | num (neg : Bool) (n d : Nat) (e : Int)
  deriving DecidableEq, Repr

/-- The value of a pattern (R110, R111). -/
def Fmt.value (f : Fmt) (w : Nat) : Fp :=
  let neg := bit w (f.eb + f.mb)
  let e := bits w f.mb f.eb
  let m := bits w 0 f.mb
  if e == 2 ^ f.eb - 1 && f.inf then
    if m == 0 then .inf neg else .nan neg (!bit m (f.mb - 1)) (bits m 0 (f.mb - 1)) (f.mb - 1)
  else if e == 2 ^ f.eb - 1 && m == 2 ^ f.mb - 1 then .nan neg false 0 0
  else if e == 0 then .num neg m 1 (1 - (f.bias : Int) - f.mb)
  else .num neg (2 ^ f.mb + m) 1 ((e : Int) - f.bias - f.mb)

/-- Whether a pattern is subnormal. -/
def Fmt.isSub (f : Fmt) (w : Nat) : Bool := bits w f.mb f.eb == 0 && bits w 0 f.mb != 0

/-- FTZIN (R124). -/
def Fmt.flushIn (f : Fmt) (env : Env) (w : Nat) : Nat :=
  if env.ftzin && f.isSub w then bits w (f.eb + f.mb) 1 * 2 ^ (f.eb + f.mb) else w

/-- Whether a value is a NaN. -/
def Fp.isNan : Fp → Bool
  | .nan .. => true
  | _ => false

/-- Whether a value is a signalling NaN. -/
def Fp.isSig : Fp → Bool
  | .nan _ g _ _ => g
  | _ => false

/-- Whether a value is a zero. -/
def Fp.isZero : Fp → Bool
  | .num _ n _ _ => n == 0
  | _ => false

/-- Whether a value is an infinity. -/
def Fp.isInf : Fp → Bool
  | .inf _ => true
  | _ => false

/-- The sign of a value. -/
def Fp.neg : Fp → Bool
  | .nan s _ _ _ => s
  | .inf s => s
  | .num s _ _ _ => s

/-! ### Rounding (R120 to R122) -/

/-- floor(log2 (n / d)) for n, d > 0. -/
def magLog (n d : Nat) : Int :=
  let l : Int := (log2 n : Int) - log2 d
  if (if 0 ≤ l then decide (d * 2 ^ l.toNat ≤ n) else decide (d ≤ n * 2 ^ (-l).toNat)) then l else l - 1

/-- (n / d) × 2^k as whole part, remainder and divisor. -/
def scaledBy (n d : Nat) (k : Int) : Nat × Nat × Nat :=
  if 0 ≤ k then (n * 2 ^ k.toNat / d, n * 2 ^ k.toNat % d, d)
  else (n / (d * 2 ^ (-k).toNat), n % (d * 2 ^ (-k).toNat), d * 2 ^ (-k).toNat)

/-- Choose between u and u + 1 for the magnitude u + r / d (R120). -/
def roundMag (rm : Nat) (neg : Bool) (u r d : Nat) : Nat :=
  if r == 0 then u
  else match rm with
    | 1 => if 2 * r > d || (2 * r == d && u % 2 == 1) then u + 1 else u
    | 2 => u
    | 3 => if neg then u + 1 else u
    | 4 => if neg then u else u + 1
    | 5 => if 2 * r ≥ d then u + 1 else u
    | _ => if u % 2 == 1 then u else u + 1

/-- What an overflow gives (R121). -/
def Fmt.overflow (f : Fmt) (env : Env) (neg : Bool) : Res :=
  let big := env.rm == 1 || env.rm == 5 || (env.rm == 3 && neg) || (env.rm == 4 && !neg)
  if !big || (env.sat8 && f.is8) then (f.signed neg f.maxCode, fOF ||| fNX)
  else (f.signed neg f.infCode, fOF ||| fNX ||| fIf (!f.inf) fNV)

/-- Round ±(n / d) × 2^e to a format once (R120, R121, R122, R124). -/
def Fmt.round (f : Fmt) (env : Env) (neg : Bool) (n d : Nat) (e : Int) : Res :=
  if n == 0 then (f.signed neg 0, 0)
  else
    let l := magLog n d + e
    let emin : Int := 1 - (f.bias : Int)
    let q := max l emin - f.mb
    let (u, r, dd) := scaledBy n d (e - q)
    let k := roundMag env.rm neg u r dd
    let (u', r', d') := scaledBy n d (e - (l - f.mb))
    let top := if roundMag env.rm neg u' r' d' == 2 ^ (f.mb + 1) then l + 1 else l
    let tiny := decide (top < emin)
    let code := if k < 2 ^ f.mb then k else (q + f.mb + f.bias).toNat * 2 ^ f.mb + (k - 2 ^ f.mb)
    let fl := fIf (r != 0) fNX ||| fIf (r != 0 && tiny) fUF
    if code > f.maxCode then f.overflow env neg
    else if env.ftzout && tiny && code < 2 ^ f.mb then (f.signed neg 0, fUF ||| fNX)
    else (f.signed neg code, fl)

/-- Round an exact value m × 2^e, m an integer; an exact zero takes the sign `zneg` (R122). -/
def Fmt.roundInt (f : Fmt) (env : Env) (m : Int) (e : Int) (zneg : Bool) : Res :=
  if m == 0 then (f.signed zneg 0, 0) else f.round env (decide (m < 0)) m.natAbs 1 e

/-- An infinity in a format, as a conversion or an exact infinite result gives it (R121, R128). -/
def Fmt.infinity (f : Fmt) (env : Env) (neg : Bool) : Res :=
  if f.inf then (f.signed neg f.infCode, 0)
  else if env.sat8 then (f.signed neg f.maxCode, 0)
  else (f.signed neg f.infCode, fNV)

/-! ### NaN results (R125) -/

/-- A NaN with its sign and payload in another format (R125). -/
def Fmt.carryNan (f : Fmt) (neg : Bool) (pay pw : Nat) : Nat :=
  if !f.inf then f.signed neg f.infCode
  else
    let w := f.mb - 1
    let p := if pw ≥ w then pay / 2 ^ (pw - w) else pay * 2 ^ (w - pw)
    f.signed neg ((2 ^ f.eb - 1) * 2 ^ f.mb + 2 ^ w + p)

/-- The NaN result of an operation on sources in their order, `inv` when the operation itself is invalid (R125). -/
def Fmt.nanOf (f : Fmt) (env : Env) (inv : Bool) (src : List Fp) : Res :=
  let fl := fIf (inv || src.any Fp.isSig) fNV
  match (if env.nanpay then src.find? Fp.isNan else none) with
  | some (.nan neg _ pay pw) => (f.carryNan neg pay pw, fl)
  | _ => (f.canon, fl)

/-! ### Arithmetic (R136) -/

/-- The sign of an exact zero from terms of the two signs (R122). -/
def zeroSign (env : Env) (a b : Bool) : Bool := if a == b then a else env.rm == 3

/-- The signed significand of a finite value with divisor 1. -/
def signedSig (neg : Bool) (n : Nat) : Int := if neg then -(n : Int) else n

/-- a × 2^ea + b × 2^eb exactly. -/
def addExact (a : Int) (ea : Int) (b : Int) (eb : Int) : Int × Int :=
  let e := min ea eb
  (a * 2 ^ (ea - e).toNat + b * 2 ^ (eb - e).toNat, e)

/-- a + b (R136). -/
def Fmt.add (f : Fmt) (env : Env) (a b : Fp) : Res :=
  match a, b with
  | .nan .., _ => f.nanOf env false [a, b]
  | _, .nan .. => f.nanOf env false [a, b]
  | .inf x, .inf y => if x == y then (f.signed x f.infCode, 0) else f.nanOf env true [a, b]
  | .inf x, _ => (f.signed x f.infCode, 0)
  | _, .inf y => (f.signed y f.infCode, 0)
  | .num x n _ e, .num y m _ g =>
    let r := addExact (signedSig x n) e (signedSig y m) g
    f.roundInt env r.1 r.2 (zeroSign env x y)

/-- A value with its sign inverted, NaNs as they are. -/
def Fp.negate : Fp → Fp
  | .inf s => .inf (!s)
  | .num s n d e => .num (!s) n d e
  | v => v

/-- a × b + c with one rounding; without `c` a product (R136). -/
def Fmt.mulAdd (f : Fmt) (env : Env) (a b : Fp) (c : Option Fp) : Res :=
  let src := [a, b] ++ c.toList
  let invProd := (a.isInf && b.isZero) || (a.isZero && b.isInf)
  if src.any Fp.isNan || invProd then f.nanOf env invProd src
  else
    let s := a.neg != b.neg
    let cInf := (c.map Fp.isInf).getD false
    let cNeg := (c.map Fp.neg).getD s
    if a.isInf || b.isInf then
      if cInf && cNeg != s then f.nanOf env true src else (f.signed s f.infCode, 0)
    else if cInf then (f.signed cNeg f.infCode, 0)
    else match a, b with
      | .num _ n _ e, .num _ m _ g =>
        (match c with
         | some (.num z k _ h) =>
           let r := addExact (signedSig s (n * m)) (e + g) (signedSig z k) h
           f.roundInt env r.1 r.2 (zeroSign env s z)
         | _ => f.round env s (n * m) 1 (e + g))
      | _, _ => (f.canon, 0)

/-- a / b (R136). -/
def Fmt.div (f : Fmt) (env : Env) (a b : Fp) : Res :=
  let s := a.neg != b.neg
  if a.isNan || b.isNan then f.nanOf env false [a, b]
  else if (a.isInf && b.isInf) || (a.isZero && b.isZero) then f.nanOf env true [a, b]
  else if a.isInf then (f.signed s f.infCode, 0)
  else if b.isInf then (f.signed s 0, 0)
  else match a, b with
    | .num _ n d e, .num _ m k g =>
      if m == 0 then (f.signed s f.infCode, fDZ) else f.round env s (n * k) (d * m) (e - g)
    | _, _ => (f.canon, 0)

/-- Integer square root, one bit of the root per unit of fuel. -/
def isqrtFrom (n : Nat) : Nat → Nat → Nat
  | 0, r => r
  | k + 1, r => isqrtFrom n k (if (r + 2 ^ k) * (r + 2 ^ k) ≤ n then r + 2 ^ k else r)

/-- floor(sqrt n). -/
def isqrt (n : Nat) : Nat := isqrtFrom n (log2 n / 2 + 1) 0

/-- sqrt((n / d) × 2^e) as a significand and exponent of 160 or more bits, odd below its last bit when inexact. -/
def sqrtExact (n d : Nat) (e : Int) : Nat × Int :=
  let sh : Nat := if (e - 320) % 2 == 0 then 320 else 321
  let q := n * 2 ^ sh * 2 ^ (2 * (log2 d)) / d
  let rem := n * 2 ^ sh * 2 ^ (2 * (log2 d)) % d
  let r := isqrt q
  let ex := (e - sh) / 2 - log2 d
  if r * r == q && rem == 0 then (r, ex) else (2 * r + 1, ex - 1)

/-- sqrt(a) (R136). -/
def Fmt.sqrt (f : Fmt) (env : Env) (a : Fp) : Res :=
  match a with
  | .nan .. => f.nanOf env false [a]
  | .inf s => if s then f.nanOf env true [a] else (f.signed false f.infCode, 0)
  | .num s n d e =>
    if n == 0 then (f.signed s 0, 0)
    else if s then f.nanOf env true [a]
    else let r := sqrtExact n d e; f.round env false r.1 1 r.2

/-! ### Comparison and extremes (R138, R141) -/

/-- Whether a < b for values that are no NaN, −0 equal to +0. -/
def Fp.lt (a b : Fp) : Bool :=
  match a, b with
  | .inf x, .inf y => x && !y
  | .inf x, _ => x
  | _, .inf y => !y
  | .num x n d e, .num y m k g =>
    let r := addExact (signedSig x (n * k)) e (-(signedSig y (m * d))) g
    decide (r.1 < 0)
  | _, _ => false

/-- Whether a < b with −0 below +0 (R138). -/
def Fp.ltZ (a b : Fp) : Bool := a.lt b || (a.isZero && b.isZero && a.neg && !b.neg)

/-- The lesser or greater operand by pattern (R138). -/
def Fmt.minMax (f : Fmt) (env : Env) (greater strict : Bool) (wa wb : Nat) : Res :=
  let a := f.value wa
  let b := f.value wb
  let fl := fIf (a.isSig || b.isSig) fNV
  if (a.isNan && b.isNan) || (strict && (a.isNan || b.isNan)) then f.nanOf env false [a, b]
  else if a.isNan then (wb, fl)
  else if b.isNan then (wa, fl)
  else if greater then (if a.ltZ b then (wb, fl) else (wa, fl))
  else (if b.ltZ a then (wb, fl) else (wa, fl))

/-! ### Conversion (R128 to R130) -/

/-- Convert a value to a format (R128). -/
def Fmt.convert (f : Fmt) (env : Env) (v : Fp) : Res :=
  match v with
  | .nan .. => f.nanOf env false [v]
  | .inf s => f.infinity env s
  | .num s n d e => f.round env s n d e

/-- Range of an integer type of w bits. -/
def intRange (signed : Bool) (w : Nat) : Int × Int :=
  if signed then (-(2 ^ (w - 1) : Int), 2 ^ (w - 1) - 1) else (0, 2 ^ w - 1)

/-- Convert a value to an integer of w bits (R129); the answer is the integer itself. -/
def toInteger (env : Env) (signed : Bool) (w : Nat) (v : Fp) : Int × Flags :=
  let rg := intRange signed w
  match v with
  | .nan .. => (0, fNV)
  | .inf s => (if s then rg.1 else rg.2, fNV)
  | .num s n d e =>
    let (u, r, dd) := scaledBy n d e
    let y := signedSig s (roundMag env.rm s u r dd)
    if y < rg.1 then (rg.1, fNV) else if y > rg.2 then (rg.2, fNV) else (y, fIf (r != 0) fNX)

/-- A converted integer as a w-bit pattern. -/
def toIntPattern (env : Env) (signed : Bool) (w : Nat) (v : Fp) : Res :=
  let p := toInteger env signed w v
  (wrap w p.1, p.2)

/-- An integer as a value. -/
def Fp.ofInt (y : Int) : Fp := .num (decide (y < 0)) y.natAbs 1 0

/-! ### Block scales (R112) -/

/-- What a scale byte stands for (R112). -/
inductive Scale where
  | zero | nan | invalid
  | value (n : Nat) (e : Int)
  deriving DecidableEq, Repr

/-- The scale of a byte (R112). -/
def scaleOf (b : Nat) : Scale :=
  if b ≥ 128 then .invalid
  else match fmtE4M3.value b with
    | .num _ n _ e => if n == 0 then .zero else .value n e
    | _ => .nan

/-- q × s exactly, with the special cases of R112; NV is set for an infinity under the scale zero. -/
def scaleValue (q : Fp) (s : Scale) : Fp × Flags :=
  match s, q with
  | .invalid, _ => (.nan false false 0 0, 0)
  | .nan, _ => (.nan false false 0 0, 0)
  | _, .nan .. => (q, 0)
  | .zero, .inf _ => (.nan false false 0 0, fNV)
  | .zero, .num g _ _ _ => (.num g 0 1 0, 0)
  | .value .., .inf _ => (q, 0)
  | .value n e, .num g m d h => (.num g (m * n) d (h + e), 0)

/-! ### Bit planes (R114, R115) -/

/-- The value of an element read with p planes (R115). -/
def planeRead (p : Nat) (v : Int) : Int := v / (2 ^ (8 - p) : Int) * (2 ^ (8 - p) : Int)

/-- The byte of a BP block at a place, of 128 elements given as patterns (R114). -/
def planeByte (es : List Nat) (i : Nat) : Nat :=
  let q := 7 - i / 16
  sumN ((List.range 8).map (fun j => b2n (bit (es[8 * (i % 16) + j]?.getD 0) q) * 2 ^ j))

/-- The pattern of element e of a BP block, its planes below 8 − p read as zero (R114, R115). -/
def planeElem (p : Nat) (block : List Nat) (e : Nat) : Nat :=
  sumN ((List.range 8).map (fun q =>
    if q < 8 - p then 0 else b2n (bit (block[(7 - q) * 16 + e / 8]?.getD 0) (e % 8)) * 2 ^ q))

end Sys2Proof.Machine
end

