-- ==== Sys2Proof/Machine/Points.lean ====
section
/-! DEFINITION. Performing strong accesses and atomics at their points, replies and acknowledgements, and the departure
of store-buffer entries (11_access R247, R248, R250 to R265, R518; 12_ordering R279, R283; 20_directories R517). -/
namespace Sys2Proof.Machine

/-- Orders that acquire: ACQ, ACQREL, SC (R279). -/
def isAcq (o : Nat) : Bool := o == 1 || o == 3 || o == 4
/-- Orders that release: REL, ACQREL, SC (R279). -/
def isRel (o : Nat) : Bool := o == 2 || o == 3 || o == 4

/-- Before an access at a level: the core writes back its own dirty bytes of the line from the levels below, and
invalidates its clean bytes there (R251). -/
def State.preStrong (s : State) (core level line : Nat) : State :=
  let sel (a : Nat) : Bool := a / 128 == line
  if core ≥ 192 || level == 0 then s
  else
    let s1 := s.l1Back core sel
    let s2 := s1.setL1 core ((s1.core core).l1.dropClean sel)
    if level == 1 then s2
    else
      let cl := clusterOf core
      let s3 := s2.clusterBack cl sel
      s3.setCluster cl ((s3.cluster cl).dropClean sel)

/-- What a point answers: the bytes as a number, whether they are uncorrectable, whether the home took the request, and
the state. -/
structure Found where
  old : Nat
  bad : Bool
  ok : Bool
  st : State

/-- Read bytes at a level and, where `f` gives a value and the bytes are correctable, write it there, as one step (R250,
R262, R265, R269). At the coherent level the agent holds the line exclusively meanwhile (R250, R452); at the home the access holds no
copy (R449), and `writes` says whether it may write. -/
def State.atPoint (s : State) (h core guest : Nat) (mode : Mode) (level pa n : Nat) (writes : Bool)
    (f : Nat → Option Nat) : Found :=
  let line := pa / 128
  let fw := mode == .fw
  let put (old : Nat) (bad : Bool) : Option (List (Nat × Byte)) :=
    if bad then none else (f old).map (fun v => placed pa (toBytes n v))
  if level == 0 then
    let (s1, ok) := s.fetchSector core guest fw false false (pa / 32)
    let bs := (List.range n).map (fun i => s1.scopedByte core (pa + i))
    let old := ofBytes (bs.map Prod.fst)
    let bad := bs.any Prod.snd
    if !ok then ⟨0, true, false, s1⟩
    else match put old bad with
      | none => ⟨old, bad, true, s1⟩
      | some l => ⟨old, bad, true, (s1.storeL1 core guest false l []).releaseAt h 0 core [line]⟩
  else if level == 1 then
    let cl := clusterOf core
    let (s1, ok) := s.fetchSector core guest fw true false (pa / 32)
    let c := s1.cluster cl
    let old := ofBytes ((List.range n).map (fun i => ((c.get (pa + i)).map CByte.b).getD 0))
    let bad := c.marks.contains (pa / 32)
    if !ok then ⟨0, true, false, s1⟩
    else match put old bad with
      | none => ⟨old, bad, true, s1⟩
      | some l => ⟨old, bad, true, (s1.storeCluster cl guest false l []).releaseAt h 1 core [line]⟩
  else
    let (s1, ok) := s.cohTouch (agentOf core) guest fw line (writes || level == 2) (level == 3)
    if !ok then ⟨0, true, false, s1⟩
    else
      let (bs, bad) := s1.cohPeek pa n
      match put (ofBytes bs) bad with
      | none => ⟨ofBytes bs, bad, true, s1⟩
      | some l => ⟨ofBytes bs, bad, true, s1.cohPoke h (s1.guarded mode l) []⟩

/-- The stamp of a strong access at its point, and the line's stamp after it (R283). A sector that the point does not hold whole brings
the stamp of the point below. -/
def State.stampFor (s : State) (level core pa order clock : Nat) : Nat × State :=
  let p := pointNo level core
  let line := pa / 128
  let k := 1000 + clusterOf core
  let fromCluster := if (s.cluster (clusterOf core)).whole (pa / 32) then s.stampAt k line else max (s.stampAt k line) (s.stampAt 0 line)
  let own := if level == 0 then (if (s.core core).l1.whole (pa / 32) then s.stampAt p line else max (s.stampAt p line) fromCluster)
    else if level == 1 then fromCluster else s.stampAt p line
  let ts := if order == 4 then max clock own + 1 else max clock own
  (ts, s.setStamp p line ts)

/-- The result of an AMO (R262). -/
def amoResult (op : Nat) (ty : Ty) (old b : Nat) : Nat :=
  if ty == .f32 then
    (fmtF32.add ⟨1, false, false, false, false⟩ (fmtF32.value old) (fmtF32.value b)).1
  else combine op (tySigned ty) (tyBits ty) old b

/-- What a request writes, given the old value; none where it writes nothing. -/
def ReqKind.update (k : ReqKind) (old : Nat) : Option Nat :=
  match k with
  | .amo op ty b => some (amoResult op ty old b)
  | .redu op ty b => some (amoResult op ty old b)
  | .cas e n => if old == e then some n else none
  | _ => none

/-- Whether a request is a polling load. -/
def ReqKind.isLdp : ReqKind → Bool
  | .ldp _ => true
  | _ => false

/-- Whether a request may write. -/
def ReqKind.writes : ReqKind → Bool
  | .load => false
  | .ldp _ => false
  | .kld => false
  | .ksib _ => false
  | _ => true

/-- The registers that a value fills: S register, pair, lane or lane pair (R244, R253). -/
def Req.fill (r : Req) (v : Nat) (bad : Bool) : List (Bool × Nat × Nat × Word × Bool) :=
  match r.reg with
  | none => []
  | some d =>
    match r.lane with
    | none =>
      if r.size == 16 then
        [(false, d, 0, BitVec.ofNat 64 v, bad), (false, d + 1, 0, BitVec.ofNat 64 (v / 2 ^ 64), bad)]
      else [(false, d, 0, extended r.ty (interp r.ty v), bad)]
    | some l =>
      let w := extended r.ty (interp r.ty v)
      if tyBits r.ty == 64 then [(true, d, l, w, bad), (true, d + 1, l, w >>> 32, bad)] else [(true, d, l, w, bad)]

/-- Send a reply for a request. -/
def State.reply (s : State) (r : Req) (regs : List (Bool × Nat × Nat × Word × Bool)) (stamp : Nat) (ok : Bool) : State :=
  let counts := match r.kind with | .amo .. => some r.tag | .cas .. => some r.tag | .redu .. => some r.tag | _ => none
  let dem := match r.kind with | .cas .. => true | .ldp _ => true | _ => false
  s.modMem (fun m => { m with replies := m.replies ++
    [{ id := r.id, hart := r.hart, regs := regs, flags := 0, stamp := stamp, order := r.order, scope := r.scope,
       counts := counts, group := r.group, ok := ok, dem := dem, special := false, tile := none }] })

/-- Send the acknowledgement of a write. -/
def State.acknowledge (s : State) (id tag core stamp line order scope : Nat) (dem : Option (Nat × Nat × Bool)) : State :=
  s.modMem (fun m => { m with acks := m.acks ++ [⟨id, tag, core, stamp, line, order, scope, dem⟩] })

/-- Whether a request's outcome counts as success for R167: a CAS that wrote, an LDP whose reply differs from its comparison
value. -/
def ReqKind.succeeded (k : ReqKind) (old : Nat) (bad : Bool) : Bool :=
  match k with
  | .cas e _ => old == e && !bad
  | .ldp e => old != e || bad
  | _ => true

/-- What the acknowledgement of a request carries for R167. -/
def Req.demotion (r : Req) (ok : Bool) : Option (Nat × Nat × Bool) :=
  match r.kind with
  | .cas .. => some (r.hart, r.group, ok)
  | _ => none

/-- The place of a request in its hart's program order: that of a store is its store-buffer entry's. -/
def Req.place (r : Req) : Nat :=
  match r.kind with
  | .store .. => if r.group == 0 then r.id else r.group
  | _ => r.id

/-- Whether a request is an LDP that its level would hold: its lane still reads its comparison value (R254). -/
def State.wouldHold (s : State) (r : Req) : Bool :=
  match r.kind with
  | .ldp e =>
    (if selector r.pa ≥ 14 then s.mmioRead r.mode r.pa r.size
     else (s.atPoint r.hart r.core r.guest r.mode r.level r.pa r.size false (fun _ => none)).old) == e
  | _ => false

/-- Whether an earlier lane of the same form still has to take its place at a request's location (R252); `held` also counts the
lanes whose LDP is held. -/
def State.laneAhead (s : State) (r : Req) (held : Bool) : Bool :=
  s.mem.reqs.any (fun q => q.group == r.group && r.group != 0 && q.hart == r.hart && q.id < r.id && decide (q.pa < r.pa + r.size) &&
    decide (r.pa < q.pa + q.size) && (held || !q.parked))

/-- Perform a load, atomic, CAS, LDP or store of data for a request at its level, and answer it. A rejected request
returns uncorrectable data, or is discarded and acknowledged, with a fault record (R265, R517). -/
def State.performData (s : State) (r : Req) : State :=
  let fw := r.mode == .fw
  let line := r.pa / 128
  let (ts, s0) := if r.weak then (0, s) else s.stampFor r.level r.core r.pa r.order r.clock
  let done (st : State) (old : Nat) (bad rejected : Bool) : State :=
    match r.reg with
    | some _ =>
      let s1 := if rejected then st.lostAccess r.hart 0x14 r.va else st
      s1.reply r (r.fill old bad) ts (r.kind.succeeded old bad)
    | none =>
      let s1 := if rejected then st.lostAccess r.hart 0x14 r.va
        else if bad && r.kind.writes && st.crewed r.hart then
          st.crewFault (st.hart r.hart).place.crewKey 0x24 (st.hart r.hart).place.team false 0 r.va
        else st
      if r.kind.writes then
        s1.acknowledge r.place r.tag r.core ts line r.order r.scope (r.demotion (r.kind.succeeded old (bad || rejected)))
      else s1.reply r [] ts (r.kind.succeeded old (bad || rejected))
  let park (st : State) : State :=
    st.modMem (fun m => { m with reqs := m.reqs ++ [{ r with parked := true, since := s.cycles.toNat }] })
  if selector r.pa ≥ 14 then
    let old := s0.mmioRead r.mode r.pa r.size
    let wrote (st : State) : State := st.modMem (fun m => { m with reqs := releaseLdp r.hart (fun q => q.level ≥ 2) [line] m.reqs })
    match r.kind with
    | .store d _ => done (wrote (s0.mmioWrite r.mode (d.headD (r.pa, 0)).1 d.length (ofBytes (d.map Prod.snd)))) old false false
    | .ldp e => if old == e && !r.parked then park s0 else done s0 old false false
    | k => (match k.update old with
      | some v => done (wrote (s0.mmioWrite r.mode r.pa r.size v)) old false false
      | none => done s0 old false false)
  else match r.kind with
    | .store d marks =>
      let (s1, ok) := s0.cohTouch (agentOf r.core) r.guest fw line true (r.level == 3)
      if ok then done (s1.cohPoke r.hart (s1.guarded r.mode d) marks) 0 false false else done s1 0 false true
    | k =>
      let q := s0.atPoint r.hart r.core r.guest r.mode r.level r.pa r.size k.writes k.update
      match k with
      | .ldp e =>
        if q.ok && !q.bad && q.old == e && !r.parked then park q.st else done q.st q.old q.bad (!q.ok)
      | _ => done q.st q.old q.bad (!q.ok)

/-! ### Acknowledgements (R248, R206) -/

/-- An acknowledgement of a tag: ACKED of the record the tag is bound to, else the holder's %uasc (R206). A tag that
nothing holds any longer is discarded. -/
def State.ackTag (s : State) (tag : Nat) : State :=
  match s.mem.bound.find? (fun b => b.tag == tag) with
  | some b =>
    -- ACKED is bits [95:80] of the record (R204)
    let a := b.recPa + 10
    s.cohPoke noHart (placed a (toBytes 2 ((s.natAt a 2 + 1) % 2 ^ 16))) []
  | none =>
    match (s.harts.map Prod.fst).find? (fun h => s.tagOf h == tag) with
    | some h => s.modHart h (fun t => { t with uasc := t.uasc - 1 })
    | none => s

/-! ### Store buffer departure (R248, R422, R518) -/

/-- Whether a load is a prefetch (R255). -/
def Load.prefetch (l : Load) : Bool := l.fills.isEmpty

/-- Whether a core has a prefetch of a sector in flight (R475). -/
def State.prefetching (s : State) (core sec : Nat) : Bool :=
  s.mem.loads.any (fun l => l.prefetch && coreOf l.hart == core && l.sectors.any (fun q => q.addr == sec))

/-- Whether an earlier load, reply or request of a hart is outstanding. -/
def State.earlierOut (s : State) (h id : Nat) : Bool :=
  s.mem.loads.any (fun l => l.hart == h && l.id < id && !l.prefetch) || s.mem.replies.any (fun r => r.hart == h && r.id < id) ||
  s.mem.reqs.any (fun r => r.hart == h && r.place < id) || s.hub.kvx.any (fun k => k.hart == h && k.id < id)

/-- Whether a hart has a load outstanding on a line, or a request or acknowledgement for it. -/
def State.lineBusy (s : State) (h line : Nat) : Bool :=
  s.mem.loads.any (fun l => l.hart == h && !l.prefetch && l.sectors.any (fun q => !q.scratch && q.addr / 4 == line)) ||
  s.mem.reqs.any (fun r => r.hart == h && r.pa / 128 == line)

/-- Whether a store of a hart to a line must still wait in its buffer: for a load, or for a request that is no store on its way to the
home, behind which it keeps its place (R248, R274, R420). -/
def State.storeWaits (s : State) (h line : Nat) (home : Bool) : Bool :=
  s.mem.loads.any (fun l => l.hart == h && !l.prefetch && l.sectors.any (fun q => !q.scratch && q.addr / 4 == line)) ||
  s.mem.reqs.any (fun r => r.hart == h && r.pa / 128 == line && !(home && r.level ≥ 2 && (match r.kind with | .store .. => true | _ => false)))

/-- Whether a scoped cache of a core's path holds dirty bytes, of those selected, that cannot be written back now: of a line that a
migration is copying (R420), or across a link whose receiver holds it back (R16, R17). -/
def State.backWaits (s : State) (core : Nat) (sel : Nat → Bool) : Bool :=
  core < 192 &&
  ((s.core core).l1.dirty sel ++ (s.cluster (clusterOf core)).dirty sel).any (fun p =>
    (s.cursorMig p.1).isSome || !s.routeOpen core p.1)

/-- Whether a request reaches a sector. -/
def Req.reaches (r : Req) (sec : Nat) : Bool :=
  match r.kind with
  | .store d _ => d.any (fun b => b.1 / 32 == sec)
  | _ => r.pa / 32 ≤ sec && sec ≤ (r.pa + r.size - 1) / 32

/-- Whether an earlier access of a hart to a sector still waits where it is performed, so that a later load of the hart may not
read it yet (R274). -/
def State.earlierReq (s : State) (h id sec : Nat) : Bool := s.mem.reqs.any (fun r => r.hart == h && r.place < id && r.reaches sec)

/-- Whether a hart has an access to a device under way (R234). -/
def State.ioBusy (s : State) (h : Nat) : Bool :=
  s.mem.reqs.any (fun r => r.hart == h && selector r.pa == 14) ||
  s.mem.loads.any (fun l => l.hart == h && l.sectors.any (fun q => !q.scratch && selector (32 * q.addr) == 14))

/-- The departure of a hart's oldest store-buffer entry; none while it must wait (R248). A store to a home that is lost is acknowledged
and discarded (R463). -/
def State.depart (s : State) (h : Nat) : Option State :=
  let t := s.hart h
  match t.sb with
  | [] => none
  | e :: rest =>
    let core := coreOf h
    let tag := s.tagOf h
    if t.uasc ≥ 65535 then none
    else if e.strong && isRel e.order && (t.uasc != 0 || s.earlierOut h e.id) then none
    else
      let gone (st : State) : State := st.modHart h (fun u => { u with sb := rest })
      match s.translate { s.xctx h with mode := e.mode } (e.line * 128) .store true with
      | (.hold, _) => none
      | (.fault c _, s1) => some ((gone s1).lostAccess h c (e.line * 128))
      | (.ok tr pa, s1) =>
        let line := pa / 128
        let ref_ : LaneRef := ⟨0, 0, e.line * 128, [], [pa], tr.nc, tr.shr, tr.pcls == 3, tr.ru⟩
        let bytes := e.bytes.map (fun p => (pa + p.1, p.2))
        let poison := e.poison.map (pa + ·)
        let level := if e.strong then ref_.level core e.scope
          else if ref_.uncached then 3 else if core ≥ 192 || ref_.nc then 2
          else if e.priv && !(e.nol1 && !(s1.core core).l1.bytes.any (fun b => b.1 / 128 == line)) then 0 else 1
        let (own, s1) := if tr.pooled pa then s1.ownStep (poolPage pa) else (true, s1)
        if s.storeWaits h line (level ≥ 2) || (selector pa == 14 && s.ioBusy h) ||
            (e.strong && s.mem.acks.any (fun a => a.tag == tag && a.line == line)) then none
        else if !own then (if s1.outbox.length == s.outbox.length then none else some s1)
        else if (e.strong && isRel e.order && e.scope ≥ 2 && s.backWaits core (fun _ => true)) ||
            (e.strong && level ≥ 2 && s.backWaits core (fun a => a / 128 == line)) then none
        else if selector pa == 14 && s.mmioBusy e.mode (bytes.headD (pa, 0)).1 then none
        else
          let s2 := (gone s1).modHart h (fun u => { u with uasc := u.uasc + 1 })
          let s3 := if e.strong && isRel e.order then s2.release core e.scope else s2
          let s4 := if e.strong then s3.preStrong core level line else s3
          let c := (s4.core core).lamport.toNat
          let first := (bytes.headD (pa, 0)).1
          let order := if e.strong then e.order else 0
          if level ≥ 2 then
            let (id, s5) := s4.fresh
            some (s5.modMem (fun m => { m with reqs := m.reqs ++
              [{ id := id, hart := h, core := core, crew := t.place.crewKey, guest := t.guest, mode := e.mode,
                 tag := tag, level := level, pa := first, va := e.line * 128, size := bytes.length,
                 kind := .store bytes poison, lane := none, reg := none,
                 order := order, scope := e.scope, ty := .b64, clock := c,
                 since := s.cycles.toNat, ru := false, group := e.id, parked := false, released := false,
                 keep := ref_.keep, weak := !e.strong }] }))
          else if s1.homeFailed pa then some (s4.acknowledge e.id tag core 0 line order e.scope none)
          else
            let (ts, s5) := if e.strong then s4.stampFor level core first e.order c else (0, s4)
            let s6 := if level == 0 then (s5.storeL1 core t.guest e.stream bytes poison).releaseAt h 0 core [line]
              else
                let l1 := (s5.core core).l1
                let s' := if e.strong then s5 else (s5.setL1 core (l1.refresh bytes poison)).releaseAt h 0 core [line]
                (s'.storeCluster (clusterOf core) t.guest e.stream bytes poison).releaseAt h 1 core [line]
            some (s6.acknowledge e.id tag core ts line order e.scope none)

end Sys2Proof.Machine
end

