-- ==== Sys2Proof/Machine/Memory.lean ====
section
/-! DEFINITION. Class 6: loads and stores of every space, strong accesses, polling loads, prefetch, cache control and
fences (11_access R245 to R257; 04_registers R69 to R75; 12_ordering R278, R284). -/
namespace Sys2Proof.Machine

/-! ### Loads (R72, R245, R246) -/

/-- The byte a hart's store buffer holds for an address, from the youngest entry holding it (R248). -/
def sbByte (sb : List SbEntry) (va : Nat) : Option Byte :=
  (sb.reverse).findSome? (fun e => if e.line == va / 128 then (e.bytes.find? (fun p => p.1 == va % 128)).map Prod.snd else none)

/-- What an entry says of a mark on a sector of its line: set by a byte from a POISON lane, ended by a write of the whole sector, else
nothing (R74). -/
def SbEntry.marks (e : SbEntry) (sec : Nat) : Option Bool :=
  if e.poison.any (fun o => o / 32 == sec) then some true
  else if (List.range 32).all (fun i => e.bytes.any (fun q => q.1 == 32 * sec + i)) then some false
  else none

/-- Whether the store buffer leaves the sector of an address marked, as its youngest entry with a say has it (R74). -/
def sbPoison (sb : List SbEntry) (va : Nat) : Bool :=
  (sb.reverse.findSome? (fun e => if e.line == va / 128 then e.marks (va % 128 / 32) else none)).getD false

/-- The pieces of a load that one reference gives: one for each register it fills in its lane, or one for an S register (R244). -/
def lanePieces (x : Args) (vec : Bool) (r : LaneRef) (fwd : Nat → Option Byte) : List Piece :=
  let bs := r.pas.zip (r.vas.map fwd)
  let sg := tySigned x.ty
  if !vec then [⟨regOf x.d, r.off, bs, sg⟩]
  else if tyBits x.ty == 64 then
    (if r.off == 0 then [⟨regOf x.d, r.lane, bs.take 4, false⟩] else []) ++
    (if r.off + bs.length == 8 then [⟨regOf x.d + 1, r.lane, bs.drop (4 - r.off), false⟩] else [])
  else [⟨regOf x.d, r.lane, bs, sg⟩]

/-- Sectors of some lanes' pieces, each with the pieces it feeds; a scratchpad sector by its offset (R72). Lanes whose pages ask
for different caches do not share a sector (R230). -/
def sectorsOf (scratch : Bool) (ps : List (LaneRef × Piece)) : List Sector :=
  let key (p : LaneRef × Piece) : Nat × Bool × Bool :=
    (((p.2.bytes.map Prod.fst).headD 0) / 32, !scratch && p.1.nc, !scratch && p.1.uncached)
  ((ps.map key).eraseDups).map (fun k =>
    let mine := ps.filter (fun p => key p == k)
    let va := ((mine.head?.map (fun p => p.1.va + 32 * k.1 - p.1.pa)).getD 0)
    ⟨k.1, va, scratch, k.2.1, k.2.2, mine.map Prod.snd⟩)

/-- Request granules of 64 bytes that some sectors hold (R72). -/
def granules (ss : List Sector) : Nat := (((ss.filter (fun q => !q.scratch)).map (fun q => q.addr / 2)).eraseDups).length

/-- Granules held by the loads of a core (R72). -/
def State.granulesHeld (s : State) (core : Nat) : Nat :=
  sumN ((s.mem.loads.filter (fun l => coreOf l.hart == core)).map (fun l => granules l.sectors))

/-- Mark what a form writes EMPTY: the member lanes of V registers, or S registers as a whole (R69). -/
def Hart.markEmpty (t : Hart) (d : Operand) (n : Nat) (ls : List Nat) : Hart :=
  match d with
  | .s r _ _ => (List.range n).foldl (fun u i => u.putS (r.toNat + i) ⟨.empty, 0⟩) t
  | .v r _ _ => ls.foldl (fun u l => (List.range n).foldl (fun w i => w.putV (r.toNat + i) l ⟨.empty, 0⟩) u) t
  | _ => t

/-- Registers that hold one value of a memory form in D. -/
def dSpan (x : Args) : Nat := if isPair x.d then 2 else if kindOf x.d == .v && tyBits x.ty == 64 then 2 else 1

/-- The scratchpad byte of a hart's crew at an offset, with whether its sector is marked (R74, R219). -/
def State.scratchByte (s : State) (h a : Nat) : Byte × Bool :=
  match s.crewOf h with
  | some c => (sget 0 c.scratch a, c.smarks.contains (a / 32))
  | none => (0, false)

/-- Write scratchpad bytes of a crew as one write, with its marks (R74, R222). -/
def State.scratchPut (s : State) (key : Nat) (l : List (Nat × Byte)) (poison : List Nat) : State :=
  s.modCrew key (fun c => { c with
    scratch := l.foldl (fun m p => sset 0 m p.1 p.2) c.scratch, smarks := marksAfter c.smarks (l.map Prod.fst) poison })

/-- LD (R245, R246): the load is sent out, its lanes EMPTY until its sectors return. -/
def execLd (x : Args) (s : State) : Out :=
  memIssue .ld x s (fun s1 =>
    let space := x.sub.toNat % 4
    let size := accessSize .ld x
    let h := s1.cur
    match s1.checkAll ⟨space, size, .load, true, false, .read⟩ (s1.laneAddrs .ld x size) with
    | .out o => o
    | .ok refs s2 =>
      let t := s2.now
      let vec := perLane x
      let io := space != 1 && refs.any LaneRef.io
      if io && (t.sb.any SbEntry.io || s2.ioBusy h) then s1.block .form
      else
        let fwd (va : Nat) : Option Byte :=
          if space == 1 then some (s2.scratchByte h va).1 else if io then none else sbByte t.sb va
        let pois (va : Nat) : Bool := if space == 1 then (s2.scratchByte h va).2 else sbPoison t.sb va
        let lps := (refs.map (fun r => (lanePieces x vec r fwd).map (fun p => (r, p)))).flatten
        let ps := lps.map Prod.snd
        let ss := sectorsOf (space == 1) lps
        if s2.granulesHeld (coreOf h) + granules ss > 4096 then s1.block .form
        else if refs.isEmpty then s2.done
        else
          let (id, s3) := s2.fresh
          let t' := t.markEmpty x.d (dSpan x) (refs.map LaneRef.lane)
          let hurt := lps.filter (fun p => p.1.vas.any pois)
          let late := ss.any (fun q => !q.scratch && s3.prefetching (coreOf h) q.addr)
          let ld : Load :=
            { id := id, hart := h, guest := t.guest, mode := t.mode, scalar := !vec, nol1 := x.sub.toNat / 4 == 2
              stream := x.sub.toNat / 4 == 1, sectors := ss,
              poisoned := (ps.filter (fun p => hurt.any (fun q => q.2.reg == p.reg && q.2.lane == p.lane))).map (fun p => (p.reg, p.lane)),
              fills := ps.map (fun p => (p.reg, p.lane)) }
          let s4 := (if late then s3.pfAdd h 2 else s3).modMem (fun m => { m with loads := m.loads ++ [ld] })
          .next (s4.modHart h (fun u => { t' with prefetch := u.prefetch }.advance)))

/-- A demand access hits a sector: the first hit of a prefetched one counts (R475). -/
def State.demandHit (s : State) (h sec : Nat) : State :=
  if (s.fetchedOf h).contains sec then (s.setFetched h ((s.fetchedOf h).filter (· != sec))).pfAdd h 1 else s

/-- Bytes of one aligned group of an outstanding load, with whether they are uncorrectable. A rejected request of an access is
reported with its virtual address (R401, R517). -/
def State.loadBytes (s : State) (l : Load) (q : Sector) (a n : Nat) : List Byte × Bool × State :=
  if selector a ≥ 14 then (toBytes n (s.mmioRead l.mode a n), false, s)
  else
    let s0 := if l.prefetch then s else s.demandHit l.hart (a / 32)
    let (bs, bad, s1) := s0.weakRead (coreOf l.hart) l.guest (l.mode == .fw) q.bypass q.home l.nol1 l.stream a n
    (bs, bad, if s1.rejCount == s0.rejCount || l.prefetch then s1 else s1.lostAccess l.hart 0x14 (q.va + a - 32 * q.addr))

/-- The value of a piece once its sector is there; `get` gives a byte of it. -/
def Piece.value (p : Piece) (get : Nat → Byte) : Nat := ofBytes (p.bytes.map (fun b => b.2.getD (get b.1)))

/-- Whether an earlier load of the same hart still waits for a sector of a line (R274). -/
def State.olderLoad (s : State) (l : Load) (line : Nat) : Bool :=
  s.mem.loads.any (fun k => k.hart == l.hart && k.id < l.id && !k.prefetch && k.sectors.any (fun q => !q.scratch && q.addr / 4 == line))

/-- Fill the lanes of pieces whose sector returned: their bytes, still EMPTY (R72). -/
def Hart.fillPieces (t : Hart) (ps : List Piece) (get : Nat → Byte) : Hart :=
  ps.foldl (fun u p =>
    let n := 8 * p.bytes.length
    let v := p.value get
    u.putV p.reg p.lane ⟨.empty, BitVec.ofInt 32 (if p.signed then toSigned n v else (v : Int))⟩) t

/-- Words whose counter has reached zero become FULL, or POISON in the lanes that read an uncorrectable sector (R72). -/
def Hart.completeWords (t : Hart) (l : Load) (done : List Piece) : Hart :=
  let words := (done.map (fun p => (p.reg, p.lane / 32))).eraseDups
  let ready := words.filter (fun w => !l.sectors.any (fun q => q.pieces.any (fun p => p.reg == w.1 && p.lane / 32 == w.2)))
  (l.fills.filter (fun f => ready.contains (f.1, f.2 / 32))).foldl (fun u f =>
    u.putV f.1 f.2 ⟨if l.poisoned.contains f then .poison else .full, (u.getV f.1 f.2).v⟩) t

/-- Whether the sector of a load can reach its requester (R16). -/
def State.sectorNear (s : State) (l : Load) (q : Sector) : Bool :=
  s.reachable (coreOf l.hart) (if q.home then 3 else if q.bypass then 2 else 0) (32 * q.addr) false

/-- Whether a sector of a load may return now: earlier loads and requests of its line or sector come first (R274), a prefetch of it in
flight is waited for (R475), and it crosses the links of its route (R16). -/
def State.sectorReady (s : State) (l : Load) (q : Sector) : Bool :=
  !l.scalar && (q.scratch || !((!l.prefetch && (s.olderLoad l (q.addr / 4) || s.earlierReq l.hart l.id q.addr ||
    s.prefetching (coreOf l.hart) q.addr)) || !s.sectorNear l q))

/-- The bytes that a sector of a load brings, each at its address, whether they are uncorrectable, and the state after the read:
none for a scratchpad sector, whose bytes the load has, and what a device answers to the one access of a load there (R234). -/
def State.sectorBytes (s : State) (l : Load) (q : Sector) : List (Nat × Byte) × Bool × State :=
  if q.scratch then ([], false, s)
  else if selector (32 * q.addr) == 14 then
    (match q.pieces.head?.bind (fun p => p.bytes.head?) with
     | some b => (placed b.1 (s.loadBytes l q b.1 ((q.pieces.headD ⟨0, 0, [], false⟩).bytes.length * q.pieces.length)).1, false, s)
     | none => ([], false, s))
  else let r := s.loadBytes l q (32 * q.addr) 32; (placed (32 * q.addr) r.1, r.2.1, r.2.2)

/-- A sector of a load has returned: its lanes are filled, the words it completes become FULL or POISON, and the load is gone with
its last sector (R72). A prefetch has brought its sector in (R475). -/
def State.sectorDone (s : State) (l : Load) (q : Sector) : State :=
  let (bs, bad, s1) := s.sectorBytes l q
  let get (a : Nat) : Byte := ((bs.find? (fun p => p.1 == a)).map Prod.snd).getD 0
  let hit := q.pieces.filter (fun p => bad && p.bytes.any (fun b => b.2.isNone))
  let l' := { l with
    sectors := l.sectors.erase q
    poisoned := l.poisoned ++ hit.map (fun p => (p.reg, p.lane)) }
  let s2 := s1.modMem (fun m => { m with
    loads := if l'.sectors.isEmpty then m.loads.filter (fun k => k.id != l.id)
      else updWhere (fun k => k.id == l.id) (fun _ => l') m.loads })
  if l.prefetch then s2.setFetched l.hart ((s2.fetchedOf l.hart).filter (· != q.addr) ++ [q.addr])
  else s2.modHart l.hart (fun t => (t.fillPieces q.pieces get).completeWords l' q.pieces)

/-- SECTOR_RETURN (R72). -/
def execSectorReturn (load sector : Nat) (s : State) : Out :=
  match s.mem.loads.find? (fun l => l.id == load) with
  | none => .next s
  | some l =>
    match l.sectors.find? (fun q => q.addr == sector) with
    | none => .next s
    | some q =>
      .next (if s.sectorReady l q then s.sectorDone l q else s)

/-- Pieces of a scalar load's bytes that are contiguous, as (address, length). -/
def scalarRuns : List (Nat × Option Byte) → List (Nat × Nat)
  | [] => []
  | b :: r =>
    match scalarRuns r with
    | (a, n) :: rest => if b.1 + 1 == a && a % 32 != 0 then (b.1, n + 1) :: rest else (b.1, 1) :: (a, n) :: rest
    | [] => [(b.1, 1)]

/-- The bytes of a piece of a scalar load, whether they are uncorrectable, and the state after the reads. -/
def State.pieceBytes (s : State) (l : Load) (sec : Sector) (p : Piece) : List Byte × Bool × State :=
  let need := if p.bytes.all (fun b => b.2.isSome) then [] else scalarRuns p.bytes
  let r := need.foldl (fun (acc : List (Nat × Byte) × Bool × State) q =>
    let (bs, bad, st) := acc.2.2.loadBytes l sec q.1 q.2
    (acc.1 ++ placed q.1 bs, acc.2.1 || bad, st)) ([], false, s)
  (p.bytes.map (fun b => b.2.getD (((r.1.find? (fun q => q.1 == b.1)).map Prod.snd).getD 0)), r.2.1, r.2.2)

/-- The reply of a scalar load: its register becomes FULL, or POISON for uncorrectable data (R69). -/
def State.scalarReply (s : State) (l : Load) : State :=
  let ps := (l.sectors.map (fun q => q.pieces.map (fun p => (q, p)))).flatten
  let gone (st : State) : State := st.modMem (fun m => { m with loads := m.loads.filter (fun k => k.id != l.id) })
  match ps with
  | [] => gone s
  | (_, p) :: _ =>
    let r := ps.foldl (fun (acc : List Byte × Bool × State) q =>
      let (bs, bad, st) := acc.2.2.pieceBytes l q.1 q.2
      (acc.1 ++ bs, acc.2.1 || bad, st)) ([], false, s)
    let v := ofBytes r.1
    let bad := r.2.1 || !l.poisoned.isEmpty
    (gone r.2.2).modHart l.hart (fun t => t.putS p.reg
      ⟨if bad then .poison else .full, if p.signed then BitVec.ofInt 64 (toSigned (8 * r.1.length) v) else BitVec.ofNat 64 v⟩)

/-! ### Weak stores (R247, R248) -/

/-- Bytes from POISON lanes that an entry of the store buffer keeps when a form writes into it: those of a sector that the form
writes whole from no POISON lane go, and a smaller write leaves a mark (R74). -/
def SbEntry.poisonAfter (o e : SbEntry) : List Nat :=
  let whole (k : Nat) : Bool :=
    (List.range 32).all (fun i => e.bytes.any (fun q => q.1 == 32 * k + i)) && !e.poison.any (fun a => a / 32 == k)
  o.poison.filter (fun a => !whole (a / 32)) ++ e.poison

/-- Put bytes of one line into a store buffer: into the youngest entry for the line when it may merge, else into a new
entry (R248). An entry that holds GLOBAL bytes leaves as a GLOBAL one, and one that holds bytes without a hint without
it. -/
def sbMerge (sb : List SbEntry) (e : SbEntry) : List SbEntry :=
  let last := (List.range sb.length).reverse.find? (fun i => (sb[i]?.map SbEntry.line) == some e.line)
  match last.bind (fun i => (sb[i]?).map (fun o => (i, o))) with
  | some (i, o) =>
    if !o.strong && !o.io && !e.strong && !e.io && !((sb.drop (i + 1)).any SbEntry.strong) then
      sb.set i { o with
        bytes := o.bytes.filter (fun p => !e.bytes.any (fun q => q.1 == p.1)) ++ e.bytes
        poison := o.poisonAfter e, mode := e.mode, priv := o.priv && e.priv, nol1 := o.nol1 && e.nol1, stream := o.stream && e.stream }
    else sb ++ [e]
  | none => sb ++ [e]

/-- The value of D in a lane as bytes for a store, and whether the lane is POISON (R74, R244). -/
def State.storeData (s : State) (x : Args) (size l : Nat) : List Byte × Bool :=
  let t := s.now
  match x.d with
  | .s r _ _ =>
    if size == 16 then (toBytes 8 (t.getS r.toNat).v.toNat ++ toBytes 8 (t.getS (r.toNat + 1)).v.toNat, false)
    else (toBytes size (t.getS r.toNat).v.toNat, (t.getS r.toNat).st == .poison)
  | .v r _ _ =>
    (toBytes size (s.src (if size == 8 then .b64 else .b32) x.d l),
     (t.getV r.toNat l).st == .poison || (size == 8 && (t.getV (r.toNat + 1) l).st == .poison))
  | _ => ([], false)

/-- The entries that one lane's store makes: one for each line its bytes lie in. -/
def storeEntries (id : Nat) (mode : Mode) (priv strong io nol1 stream : Bool) (order scope : Nat) (r : LaneRef) (bs : List Byte)
    (poison : Bool) : List SbEntry :=
  let l := r.vas.zip bs
  ((l.map (fun p => p.1 / 128)).eraseDups).map (fun k =>
    let mine := (l.filter (fun p => p.1 / 128 == k)).map (fun p => (p.1 % 128, p.2))
    ⟨k, priv, strong, order, scope, mine, if poison then mine.map Prod.fst else [], mode, io, nol1, stream, id⟩)

/-- Take entries into the running hart's store buffer. They wait at issue for room among its 64; a form that alone needs
more finds the buffer empty first, and the team goes on once they have left (R248). Event 10 counts a store that waits once (R476);
`again` says that it has waited before. -/
def State.takeStores (s old : State) (again : Bool) (es : List SbEntry) : Out :=
  let t := s.now
  let sb := es.foldl sbMerge t.sb
  if sb.length ≤ 64 || t.sb.isEmpty then .next (s.modNow (fun u => { u with sb := sb }.advance))
  else (if again then old
    else old.pmcAdd (coreOf s.cur) 10 1 t.guest (if isCompute s.cur then some (pipeOf s.cur) else none)).block .store

/-- ST (R247). -/
def execSt (x : Args) (s : State) : Out :=
  memIssue .st x s (fun s1 =>
    let space := x.sub.toNat % 4
    let size := accessSize .st x
    match s1.checkAll ⟨space, size, .store, false, true, .plainStore⟩ (s1.laneAddrs .st x size) with
    | .out o => o
    | .ok refs s2 =>
      let t := s2.now
      if space == 1 then
        let data := refs.map (fun r => (r, s2.storeData x size r.lane))
        let l := (data.map (fun p => p.1.vas.zip p.2.1)).flatten
        let poison := (data.map (fun p => if p.2.2 then p.1.vas else [])).flatten
        (s2.scratchPut t.place.crewKey l poison).done
      else
        let (id, s3) := s2.fresh
        let es := (refs.map (fun r =>
          let d := s2.storeData x size r.lane
          storeEntries id t.mode (space == 2) false r.io (x.sub.toNat / 4 == 2) (x.sub.toNat / 4 == 1) 0 0 r (r.slice d.1) d.2)).flatten
        s3.takeStores s1 (s.now.sched.wait == .store) (es.foldl sbMerge []))

/-! ### Strong accesses (R250 to R254) -/

/-- Whether a strong access, atomic or REDU must wait: store-buffer entries or acknowledgements of its bytes, earlier
accesses of its lines, a device access under way, dirty bytes that cannot be written back yet, or what REL waits for (R251, R274, R279,
R284). -/
def State.strongWaits (s : State) (refs : List LaneRef) (order scope : Nat) : Bool :=
  let h := s.cur
  let t := s.now
  let inSb := t.sb.any (fun e => refs.any (fun r => r.vas.any (fun v => v / 128 == e.line && e.bytes.any (fun b => b.1 == v % 128))))
  let acks := s.mem.acks.any (fun a => a.tag == s.tagOf h && refs.any (fun r => r.pa / 128 == a.line))
  let io := refs.any LaneRef.io && (t.sb.any SbEntry.io || s.ioBusy h)
  let back := (isRel order && scope ≥ 2 && s.backWaits (coreOf h) (fun _ => true)) ||
    refs.any (fun r => r.level (coreOf h) scope ≥ 2 && s.backWaits (coreOf h) (fun a => a / 128 == r.pa / 128))
  inSb || acks || io || back || refs.any (fun r => s.lineBusy h (r.pa / 128)) ||
  (isRel order && (!t.sb.isEmpty || t.uasc != 0 || s.earlierOut h s.nextId))

/-- Send the lanes' requests in ascending lane order: that of a single lane below the home is performed at once; those of several lanes
wait at their points, as those at the home do, since other accesses and evictions may fall between them (R250, R252). -/
def State.sendReqs (s : State) (x : Args) (size order scope : Nat) (refs : List LaneRef) (vec : Bool) (reg : Option Nat)
    (kind : Nat → ReqKind) (ru : LaneRef → Bool) : State :=
  let h := s.cur
  let core := coreOf h
  let s0 := if isRel order then s.release core scope else s
  let (g, s1) := s0.fresh
  refs.foldl (fun st r =>
    let (id, st1) := st.fresh
    let level := if ru r then 3 else r.level core scope
    let q : Req :=
      { id := id, hart := h, core := core, crew := st.now.place.crewKey, guest := st.now.guest, mode := st.now.mode,
        tag := st.tagOf h, level := level, pa := r.pa, va := r.va, size := size, kind := kind r.lane,
        lane := if vec then some r.lane else none, reg := reg, order := order, scope := scope, ty := x.ty,
        clock := (st.core core).lamport.toNat, since := st.cycles.toNat, ru := ru r, group := g, parked := false,
        released := false, keep := r.keep, weak := false }
    let st2 := st1.preStrong core level (r.pa / 128)
    if level ≤ 2 && refs.length == 1 && (s.cursorMig r.pa).isNone then st2.performData q
    else st2.modMem (fun m => { m with reqs := m.reqs ++ [q] })) s1

/-- Whether the running path may have a sibling: the uppermost entry is a PATH, or not in the pipe (R161, R162). -/
def Hart.sibling (t : Hart) : Bool :=
  match t.stack with
  | e :: _ => e.path
  | [] => t.spilled != 0

/-- Hold the team until the reply of a CAS or LDP when the path has a sibling (R161, R167). -/
def Hart.awaitDemotion (t : Hart) (group : Nat) : Hart :=
  if t.sibling then { t with sched := { t.sched with demote := some [group], arrived := some false } } else t

/-- LDS (R253). -/
def execLds (x : Args) (s : State) : Out :=
  memIssue .lds x s (fun s1 =>
    let size := accessSize .lds x
    match s1.checkAll ⟨0, size, .load, true, false, .read⟩ (s1.laneAddrs .lds x size) with
    | .out o => o
    | .ok refs s2 =>
      if s2.strongWaits refs x.sub.toNat x.rm.toNat then s1.block .form
      else
        let s3 := s2.modNow (fun t => t.markEmpty x.d (dSpan x) (refs.map LaneRef.lane))
        (s3.sendReqs x size x.sub.toNat x.rm.toNat refs (perLane x) (some (regOf x.d)) (fun _ => .load) (fun _ => false)).done)

/-- STS (R253): strong entries of the store buffer. -/
def execSts (x : Args) (s : State) : Out :=
  memIssue .sts x s (fun s1 =>
    let size := accessSize .sts x
    match s1.checkAll ⟨0, size, .store, false, true, .plainStore⟩ (s1.laneAddrs .sts x size) with
    | .out o => o
    | .ok refs s2 =>
      let t := s2.now
      let (id, s3) := s2.fresh
      s3.takeStores s1 (s.now.sched.wait == .store) ((refs.map (fun r =>
        storeEntries id t.mode false true r.io false false x.sub.toNat x.rm.toNat r (s2.storeData x size r.lane).1 false)).flatten))

/-- LDP (R254): D is compared, then EMPTY. -/
def execLdp (x : Args) (s : State) : Out :=
  memIssue .ldp x s (fun s1 =>
    let size := accessSize .ldp x
    match s1.checkAll ⟨0, size, .load, true, false, .atomic⟩ (s1.laneAddrs .ldp x size) with
    | .out o => o
    | .ok refs s2 =>
      if s2.strongWaits refs x.sub.toNat x.rm.toNat then s1.block .form
      else
        let want (l : Nat) : ReqKind := .ldp (ofBytes (s2.storeData x size l).1)
        let g := s2.nextId
        let s3 := s2.modNow (fun t => t.markEmpty x.d (dSpan x) (refs.map LaneRef.lane))
        let s4 := s3.sendReqs x size x.sub.toNat x.rm.toNat refs (perLane x) (some (regOf x.d)) want (fun _ => false)
        (if refs.isEmpty then s4 else s4.modNow (fun t => t.awaitDemotion g)).done)

/-! ### Prefetch, cache control, fences (R255 to R257) -/

/-- One lane's PREF (R255): a request for the sectors of its line that the level does not hold, which returns like a load that fills no
register. One that the core's request granules have no room for is dropped. -/
def State.prefetch (s : State) (sub addr : Nat) : State :=
  let h := s.cur
  let core := coreOf h
  let t := s.now
  match s.translate (s.xctx h) (addr / 128 * 128) .load false with
  | (.ok tr pa, s1) =>
    let line := pa / 128
    let die := core ≥ 192 || sub ≥ 2
    let has (sec : Nat) : Bool :=
      if die then ((homeOf pa).map (fun k => s1.holds k line (agentOf core) false)).getD false
      else if sub == 1 then (s1.cluster (clusterOf core)).whole sec else (s1.core core).l1.whole sec
    let secs := ((List.range 4).map (4 * line + ·)).filter (fun q => !has q)
    let ss : List Sector := secs.map (fun q => ⟨q, addr / 128 * 128 + 32 * (q % 4), false, die, false, []⟩)
    if tr.uncached pa || tr.nc || s1.granulesHeld core + granules ss > 4096 then s1.pfAdd h 4
    else if secs.isEmpty then s1
    else
      let (id, s2) := s1.fresh
      let ld : Load := ⟨id, h, t.guest, t.mode, false, sub == 1, false, ss, [], []⟩
      (s2.modMem (fun m => { m with loads := m.loads ++ [ld] })).pfAdd h 0
  | _ => s.pfAdd h 4

/-- PREF (R255): no architectural effect, and no trap after decode: a prefetch whose operand would trap is dropped. -/
def execPref (x : Args) (s : State) : Out :=
  match precheck .pref x s with
  | .trap c _ _ => if c == 1 || c == 0x16 then memIssue .pref x s State.done else (s.unwait.pfAdd s.cur 4).done
  | _ => memIssue .pref x s (fun s1 =>
      ((s1.laneAddrs .pref x 128).foldl (fun st p => st.prefetch x.sub.toNat p.2) s1).done)

/-- CCTL on a set of bytes in the levels below a scope (R229, R256). -/
def State.cacheControl (s : State) (core op scope : Nat) (sel : Nat → Bool) : State :=
  if core ≥ 192 || scope == 0 then s
  else
    let cl := clusterOf core
    let back (st : State) : State := if scope == 1 then st.l1Back core sel else (st.l1Back core sel).clusterBack cl sel
    let drop (st : State) (all : Bool) : State :=
      let f (c : Cache) : Cache := if all then c.dropAll sel else c.dropClean sel
      let st1 := st.setL1 core (f (st.core core).l1)
      if scope == 1 then st1 else st1.setCluster cl (f (st1.cluster cl))
    match op with
    | 0 => back s
    | 1 => drop s false
    | _ => drop (back s) true

/-- CCTL (R256). -/
def execCctl (x : Args) (s : State) : Out :=
  memIssue .cctl x s (fun s1 =>
    let core := coreOf s1.cur
    if !s1.now.sb.isEmpty then s1.block .form
    else if x.a == .none && x.b == .none then
      (if x.rm.toNat ≥ 2 && s1.backWaits core (fun _ => true) then s1.block .form
       else (s1.cacheControl core x.sub.toNat x.rm.toNat (fun _ => true)).done)
    else
      match s1.checkAll ⟨0, 1, .load, true, false, .skip⟩ (s1.laneAddrs .cctl x 128) with
      | .out o => o
      | .ok refs s2 =>
        let sel (a : Nat) : Bool := refs.any (fun r => r.pa / 128 == a / 128)
        if x.rm.toNat ≥ 2 && s2.backWaits core sel then s1.block .form
        else (s2.cacheControl core x.sub.toNat x.rm.toNat sel).done)

/-- The sequencer of a fence's scope set in this package (R278): CLUSTER c, the die's agent, HA-L. -/
def sequencer (core scope : Nat) : Nat :=
  if scope ≥ 3 then 3000
  else if scope == 2 then 2000 + dieOf core
  else if core < 192 && scope == 1 then 1000 + clusterOf core else core

/-- FENCE.SC takes its place: the sequencer's stamp, or the core's own clock (R284). The SYSTEM sequencer is HA-L of the
sequencer package, whose stamp another package does not see (R278, R285; log entry 66); what it answers rises, number 4000 of
`seqStamps` being its last answer. -/
def State.fenceStamp (s : State) (core scope : Nat) : State :=
  let q := sequencer core scope
  let c := (s.core core).lamport.toNat
  let take (key low : Nat) : State :=
    let ts := max (max c low) (sget 0 s.mem.seqStamps key) + 1
    (s.modMem (fun m => { m with seqStamps := sset 0 m.seqStamps key ts })).clockTo core ts
  if q == core then s.clockTo core (c + 1)
  else if scope == 4 && s.pkg.seqPkg != s.pkg.pkg then take 4000 (Config.remoteStamp s.tick)
  else take q 0

/-- FENCE (R257, R284): it completes once what it waits for is done, with the release and then the acquire actions; earlier
accesses return their values first, also under REL (R281; log entry 71). A SYSTEM fence waits while the sequencer package is unreachable (R285). -/
def execFence (x : Args) (s : State) : Out :=
  memIssue .fence x s (fun s1 =>
    let h := s1.cur
    let t := s1.now
    let core := coreOf h
    let order := x.sub.toNat
    let scope := x.rm.toNat
    if isRel order && (!t.sb.isEmpty || t.uasc != 0) then s1.block .form
    else if s1.earlierOut h s1.nextId then s1.block .form
    else if order == 4 && scope == 4 && s1.pkg.unreachable.contains s1.pkg.seqPkg then s1.block .form
    else if isRel order && scope ≥ 2 && s1.backWaits core (fun _ => true) then s1.block .form
    else
      let s2 := if isRel order then s1.release core scope else s1
      let s3 := if order == 4 then s2.fenceStamp core scope else s2
      (if isAcq order then s3.acquire core scope else s3).done)

end Sys2Proof.Machine
end

