-- ==== Sys2Proof/Machine/Replies.lean ====
section
/-! DEFINITION. What comes back to a team: replies, demotion, store-buffer departures and acknowledgements, held polling
loads, refills and evictions (04_registers R69; 08_lanes_control R162, R167; 10_spaces R228; 11_access R248, R254). -/
namespace Sys2Proof.Machine

/-- Write the registers of a reply FULL, or POISON where its data is uncorrectable (R69). -/
def Hart.deliver (t : Hart) (regs : List (Bool × Nat × Nat × Word × Bool)) : Hart :=
  regs.foldl (fun u r =>
    let st : RegSt := if r.2.2.2.2 then .poison else .full
    if r.1 then u.putV r.2.1 r.2.2.1 ⟨st, r.2.2.2.1.truncate 32⟩ else u.putS r.2.1 ⟨st, r.2.2.2.1⟩) t

/-- Insert a demoted path directly above the uppermost RECONV entry (R167). -/
def insertDemoted (p : SEntry) : List SEntry → List SEntry
  | [] => [p]
  | e :: r => if e.path then e :: insertDemoted p r else p :: e :: r

/-- Bring spilled entries back until a RECONV entry is resident, one for each unit of fuel (R162). -/
def State.refillTo (s : State) (h : Nat) : Nat → Except PrivFail State
  | 0 => .ok s
  | n + 1 =>
    let t := s.hart h
    if t.spilled == 0 || t.stack.any (fun e => !e.path) then .ok s
    else match s.refill h with
      | .ok s1 => State.refillTo s1 h n
      | .error e => .error e

/-- Demote the running path of a hart (R167), or say what its spill or refill waits for. -/
def State.demote (s : State) (h : Nat) : Except PrivFail State :=
  match s.refillTo h (s.hart h).spilled with
  | .error (.trap c a i) => .ok (s.takeTrap h c a i 1)
  | .error f => .error f
  | .ok s1 =>
    let t := s1.hart h
    match insertDemoted ⟨true, t.pc, t.exec⟩ t.stack with
    | [] => .ok s1
    | e :: r =>
      let s2 := (s1.pmcAdd (coreOf h) 14 1 t.guest (if isCompute h then some (pipeOf h) else none)).modHart h (fun u => { u with
        stack := r, exec := e.mask &&& u.live, pc := e.pc, sched := { u.sched with body := none } })
      match s2.spill h r.length with
      | .ok s3 => .ok s3
      | .error (.trap c a i) => .ok (s1.takeTrap h c a i 1)
      | .error f => .error f

/-- What waits meanwhile: the promotion or the REQ that a spill or refill needs is under way. -/
def State.waitSpill (s : State) (h : Nat) : PrivFail → State
  | .hold a w => s.awaitVa h a .spill w
  | _ => s

/-- The last reply of a CAS or LDP group: the path is demoted when no lane succeeded (R167). -/
def State.settleDemotion (s : State) (h group : Nat) (ok : Bool) : Except PrivFail State :=
  let t := s.hart h
  if t.sched.demote != some [group] then .ok s
  else
    let any := ok || t.sched.arrived == some true
    let more := s.mem.replies.any (fun r => r.group == group) || s.mem.reqs.any (fun r => r.group == group) ||
      s.mem.acks.any (fun a => (a.dem.map (fun d => d.2.1)) == some group)
    if more then .ok (s.modHart h (fun u => { u with sched := { u.sched with arrived := some any } }))
    else
      let s1 := s.modHart h (fun u => { u with sched := { u.sched with demote := none, arrived := none } })
      if any then .ok s1 else s1.demote h

/-- Whether a scalar load may be answered now. -/
def State.scalarReady (s : State) (l : Load) : Bool :=
  l.scalar && l.sectors.all (fun q => q.scratch || !(s.olderLoad l (q.addr / 4) || !s.sectorNear l q ||
    s.prefetching (coreOf l.hart) q.addr || q.pieces.any (fun p => p.bytes.any (fun b => s.earlierReq l.hart l.id (b.1 / 32)))))

/-- What a KVX decides of a lane whose entry reads `e`: its address, a wait for a promotion in WAIT mode, or the record
(R437). -/
def kvxDecide (wait : Bool) (part e : Nat) (bad : Bool) : KvxRes :=
  if bad then .poison
  else if bit e 0 && !bit e 3 && !bit e 4 then .addr ((part + bits e 12 36 * 4096) % 2 ^ 64)
  else if bit e 0 && bit e 3 && wait then .waits
  else .recorded

/-- One lane of a KVX at its completion (R437). -/
def Hart.kvxLane (t : Hart) (d : Nat) (l : KvxLane) : Hart :=
  match l.res with
  | .addr a => (t.putV d l.lane ⟨.full, BitVec.ofNat 32 a⟩).putV (d + 1) l.lane ⟨.full, BitVec.ofNat 32 (a / 2 ^ 32)⟩
  | .poison => (t.putV d l.lane ⟨.poison, 0⟩).putV (d + 1) l.lane ⟨.poison, 0⟩
  | _ => (t.putV d l.lane l.old0).putV (d + 1) l.lane l.old1

/-- Complete a KVX: its registers become FULL, and the reads acquire (R437, R439). -/
def State.finishKvx (s : State) (k : KvxOp) : State :=
  let rec' := maskOf ((k.lanes.filter (fun l => l.res == .recorded)).map KvxLane.lane)
  let s1 := s.modHub (fun u => { u with kvx := u.kvx.filter (fun q => q.id != k.id) })
  let s2 := s1.modHart k.hart (fun t => (k.lanes.foldl (fun u l => u.kvxLane k.d l) t).setK k.k rec')
  (s2.clockTo (coreOf k.hart) k.stamp).acquire (coreOf k.hart) 3

/-- Read an entry at a virtual address again for the lanes of a KVX that wait on it, as the first read did: its address is translated
anew, the core's own dirty bytes of the line are written back, and the read returns the line's stamp (R251, R283, R437, R439). One
that the tables no longer map is read as uncorrectable (log entry 90). -/
def State.rereadEntry (s : State) (k : KvxOp) (va : Nat) : KvxOp × State :=
  let core := coreOf k.hart
  let upd (old : Nat) (bad : Bool) (l : KvxLane) : KvxLane :=
    if l.res == .waits && l.entry == va then { l with res := kvxDecide true l.part old bad } else l
  match s.translate { s.xctx k.hart with guest := k.guest, mode := k.mode } va .load false with
  | (.hold, s1) => (k, s1)
  | (.fault _ _, s1) => ({ k with lanes := k.lanes.map (upd 0 true) }, s1)
  | (.ok _ pa, s1) =>
    let (ts, s2) := (s1.preStrong core 3 (pa / 128)).stampFor 3 core pa 1 (s1.core core).lamport.toNat
    let f := s2.atPoint k.hart core k.guest k.mode 3 pa 8 false (fun _ => none)
    ({ k with stamp := max k.stamp ts, lanes := k.lanes.map (upd f.old (f.bad || !f.ok)) }, f.st)

/-- The lanes of a KVX that wait read their entries again (R437, R439). -/
def State.rereadKvx (s : State) (k : KvxOp) : KvxOp × State :=
  (((k.lanes.filter (fun l => l.res == .waits)).map KvxLane.entry).eraseDups).foldl (fun r va => r.2.rereadEntry r.1 va) (k, s)

/-- The rest of a KVX: its waiting lanes read their entries again, and it completes when none waits (R437). -/
def State.kvxReply (s : State) (k : KvxOp) : State :=
  let (k1, s1) := s.rereadKvx k
  if k1.lanes.any (fun l => l.res == .waits) then s.keepPromos s1 else s1.finishKvx k1

/-- A reply arrives: it fills its registers, raises flags and the core's clock, counts an atomic's acknowledgement, and completes
the acquire actions with the last reply of its form (R69, R253, R264, R283). -/
def State.replied (s : State) (r : Reply) : State :=
  let s1 := s.modMem (fun m => { m with replies := m.replies.filter (fun q => q.id != r.id) })
  let s2 := s1.modHart r.hart (fun t => (t.deliver r.regs).raiseFlags r.flags)
  let s3 := if r.stamp == 0 then s2 else s2.clockTo (coreOf r.hart) r.stamp
  let s4 := match r.counts with | some tag => s3.ackTag tag | none => s3
  let last := !(s4.mem.replies.any (fun q => q.group == r.group && r.group != 0)) &&
    !(s4.mem.reqs.any (fun q => q.group == r.group && r.group != 0))
  if isAcq r.order && last then s4.acquire (coreOf r.hart) r.scope else s4

/-- An acknowledgement arrives: it is counted down, raises the core's clock, and that of an SC store or of an atomic whose reply is
dropped acquires (R248, R279, R283). -/
def State.acked (s : State) (a : Ack) : State :=
  let s1 := (s.modMem (fun m => { m with acks := m.acks.erase a })).ackTag a.tag
  let s2 := if a.stamp == 0 then s1 else s1.clockTo a.core a.stamp
  if isAcq a.order then s2.acquire a.core a.scope else s2

/-- REGISTER_REPLY (R69, R437): the reply of a CAS or LDP may demote the path (R167). -/
def execRegisterReply (reply : Nat) (s : State) : Out :=
  match s.mem.replies.find? (fun r => r.id == reply) with
  | some r =>
    if r.dem then
      match (s.replied r).settleDemotion r.hart r.group r.ok with
      | .ok s1 => .next s1
      | .error f => .next (s.waitSpill r.hart f)
    else .next (s.replied r)
  | none =>
    match s.mem.loads.find? (fun l => l.id == reply) with
    | some l => .next (if s.scalarReady l then s.scalarReply l else s)
    | none =>
      match s.hub.kvx.find? (fun k => k.id == reply) with
      | some k => .next (s.kvxReply k)
      | none => .next s

/-- STORE_BUFFER_DEPARTURE (R248). -/
def execStoreBufferDeparture (hart : Nat) (s : State) : Out := .next ((s.depart hart).getD s)

/-- STORE_ACKNOWLEDGEMENT (R206, R248): that of a CAS may demote the path (R167). -/
def execStoreAcknowledgement (ack : Nat) (s : State) : Out :=
  match s.mem.acks.find? (fun a => a.id == ack) with
  | none => .next s
  | some a =>
    match a.dem with
    | none => .next (s.acked a)
    | some (h, g, ok) =>
      match (s.acked a).settleDemotion h g ok with
      | .ok s1 => .next s1
      | .error f => .next (s.waitSpill h f)

/-- Answer a held LDP with the current value: its level reads it again, as for any read there (R254, R268). -/
def State.answerLdp (s : State) (r : Req) : State :=
  (s.modMem (fun m => { m with reqs := m.reqs.filter (fun q => q.id != r.id) })).performData r

/-- LDP_HOLD_RELEASE: another agent wrote the line (R254); lanes at one location are answered in order (R252). -/
def execLdpHoldRelease (req : Nat) (s : State) : Out :=
  match s.mem.reqs.find? (fun r => r.id == req && r.kind.isLdp && r.parked && r.released) with
  | some r => .next (if s.laneAhead r true then s else s.answerLdp r)
  | none => .next s

/-- LDP_HOLD_TIMEOUT: held for 4,096 cycles (R254). -/
def execLdpHoldTimeout (req : Nat) (s : State) : Out :=
  match s.mem.reqs.find? (fun r => r.id == req && r.kind.isLdp && r.parked && r.since + 4096 ≤ s.cycles.toNat) with
  | some r => .next (if s.laneAhead r true then s else s.answerLdp r)
  | none => .next s

/-- SPLIT_STACK_REFILL: the uppermost spilled entry comes back while the pipe has room for it (R162). One that cannot be
translated stays, for the form that pops it to trap (R183). -/
def execSplitStackRefill (hart : Nat) (s : State) : Out :=
  let t := s.hart hart
  if t.spilled == 0 || t.stack.length ≥ 16 then .next s
  else match s.refill hart with
    | .ok s1 => .next (s1.modHart hart (fun u => { u with sched := { u.sched with wait := .none } }))
    | .error f => .next (s.waitSpill hart f)

/-- SCOPED_CACHE_EVICTION (R228): a line leaves an L1 or cluster cache, its dirty bytes written back. -/
def execScopedCacheEviction (cluster : Bool) (cache line : Nat) (s : State) : Out :=
  let sel (a : Nat) : Bool := a / 128 == line
  if (s.cursorMig (line * 128)).isSome then .next s
  else if cluster then
    if !s.routeOpen (8 * cache) (line * 128) then .next s else
    let s1 := s.clusterBack cache sel
    .next ((s1.setCluster cache ((s1.cluster cache).dropAll sel)).countEvicted (fun c => decide (c < 192) && clusterOf c == cache) line)
  else if cache ≥ 192 then .next s
  else
    let s1 := s.l1Back cache sel
    .next ((s1.setL1 cache ((s1.core cache).l1.dropAll sel)).countEvicted (· == cache) line)

end Sys2Proof.Machine
end

