-- ==== Sys2Proof/Machine/Atomic.lean ====
section
/-! DEFINITION. Class 7's atomics and reductions (11_access R261 to R267). -/
namespace Sys2Proof.Machine

/-- Send an atomic form's lanes: each counts in %uasc from issue (R264), and the reply is kept or dropped. -/
def State.sendAtomic (s : State) (x : Args) (size order : Nat) (refs : List LaneRef) (reg : Option Nat)
    (kind : Nat → ReqKind) (ru : LaneRef → Bool) : State :=
  let s1 := s.modNow (fun t => { t with uasc := t.uasc + refs.length })
  let s2 := if reg.isSome then s1.modNow (fun t => t.markEmpty x.d (dSpan x) (refs.map LaneRef.lane)) else s1
  s2.sendReqs x size order x.rm.toNat refs (perLane x) reg kind ru

/-- The checks that AMO, CAS and REDU share, and what they wait for (R251, R264, R270). -/
def atomicForm (o : Op) (x : Args) (f : State → List LaneRef → Nat → Out) (s : State) : Out :=
  memIssue o x s (fun s1 =>
    let size := accessSize o x
    match s1.checkAll ⟨0, size, .atomic, true, true, .atomic⟩ (s1.laneAddrs o x size) with
    | .out o => o
    | .ok refs s2 =>
      if s2.strongWaits refs x.sub.toNat x.rm.toNat || s2.now.uasc + refs.length > 65535 then
        s1.block .form
      else f s2 refs size)

/-- The operation that B's modifier names (R32). -/
def atomicOp (x : Args) : Nat := modOf x.b % 16

/-- B of a lane as the operand of an atomic at T's width. -/
def State.atomicB (s : State) (x : Args) (l : Nat) : Nat := s.src x.ty x.b l

/-- AMO (R262). -/
def execAmo (x : Args) (s : State) : Out :=
  atomicForm .amo x (fun s1 refs size =>
    let reg := if x.d == .none || (kindOf x.d == .s && regOf x.d == 0) then none else some (regOf x.d)
    (s1.sendAtomic x size x.sub.toNat refs reg (fun l => .amo (atomicOp x) x.ty (s1.atomicB x l)) (fun _ => false)).done) s

/-- The new value of a CAS in a lane: B, or its pair (R263). -/
def State.casNew (s : State) (x : Args) (l : Nat) : Nat :=
  match x.b with
  | .s r _ m => if m == 1 then (s.now.getS r.toNat).v.toNat + (s.now.getS (r.toNat + 1)).v.toNat * 2 ^ 64 else s.src x.ty x.b l
  | _ => s.src x.ty x.b l

/-- CAS (R263): on a path with siblings the team waits for the reply (R167). -/
def execCas (x : Args) (s : State) : Out :=
  atomicForm .cas x (fun s1 refs size =>
    let reg := if kindOf x.d == .s && regOf x.d == 0 then none else some (regOf x.d)
    let g := s1.nextId
    let s2 := s1.sendAtomic x size x.sub.toNat refs reg
      (fun l => .cas (ofBytes (s1.storeData x size l).1) (s1.casNew x l)) (fun _ => false)
    (if refs.isEmpty then s2 else s2.modNow (fun t => t.awaitDemotion g)).done) s

/-- REDU: at the die's coherent agent for an RU page and a scope of DIE or wider, otherwise an AMO with a dropped reply
(R267). -/
def execRedu (x : Args) (s : State) : Out :=
  atomicForm .redu x (fun s1 refs size =>
    let ru (r : LaneRef) : Bool := r.ru && x.rm.toNat ≥ 2 && !r.uncached
    (s1.sendAtomic x size x.sub.toNat refs none (fun l => .redu (atomicOp x) x.ty (s1.atomicB x l)) ru).done) s

end Sys2Proof.Machine
end

