-- ==== Sys2Proof/Machine/Keeping.lean ====
section
/-! DEFINITION. Sibling-keeping cells: vectors, cell records and the pool, the keeping forms, plain stores to keeping
pages, hold queues, replication and compaction (13_keeping R294 to R320). -/
namespace Sys2Proof.Machine

/-! ### Vectors and dots (R297, R298) -/

/-- A vector: the counter of each of the sixteen replicas (R297). -/
abbrev Vec := List Nat

/-- The counter of a replica. -/
def Vec.at_ (v : Vec) (r : Nat) : Nat := v.getD r 0

/-- A vector from its counters by replica. -/
def vecOf (f : Nat → Nat) : Vec := (List.range 16).map f

/-- Whether a vector covers a dot (R298). -/
def Vec.covers (v : Vec) (dot : Nat) : Bool := dot % 4096 ≤ v.at_ (dot / 4096)

/-- Whether a context covers a dot; the empty context covers none (R299). -/
def ctxCovers (c : Option Vec) (dot : Nat) : Bool := match c with | some v => v.covers dot | none => false

/-- The join of two vectors (R298). -/
def Vec.join (a b : Vec) : Vec := vecOf (fun r => max (a.at_ r) (b.at_ r))

/-- A vector joined with a dot. -/
def Vec.joinDot (a : Vec) (dot : Nat) : Vec := vecOf (fun r => if r == dot / 4096 then max (a.at_ r) (dot % 4096) else a.at_ r)

/-- The entries of a vector as dots: those with a nonzero counter in ascending replica number (R297). -/
def Vec.entries (v : Vec) : List Nat := ((List.range 16).filter (fun r => v.at_ r != 0)).map (fun r => r * 4096 + v.at_ r)

/-- The vector of some dots. -/
def ofEntries (es : List Nat) : Vec := vecOf (fun r => ((es.find? (fun e => e / 4096 == r)).map (· % 4096)).getD 0)

/-- The context word of a vector of at most four entries (R297). -/
def packVec (es : List Nat) : Nat := bits (es.foldr (fun e acc => e + acc * 65536) 0) 0 64

/-- The four entries of a context word. -/
def wordEntries (w : Nat) : List Nat := (List.range 4).map (fun j => bits w (16 * j) 16)

/-- Whether entries are packed from entry 0 upward in strictly ascending replica number, the rest 0 (R297). -/
def packedOk : List Nat → Bool
  | [] => true
  | e :: r =>
    if e % 4096 == 0 then e == 0 && r.all (· == 0)
    else packedOk r && r.all (fun f => f == 0 || e / 4096 < f / 4096)

/-- Whether a word is a handle (R297). -/
def isHandle (w : Nat) : Bool := bits w 0 16 == 0xF000

/-- The handle of an extended record (R297). -/
def handleWord (gen index : Nat) : Nat := 0xF000 + gen % 65536 * 65536 + index % 2 ^ 32 * 2 ^ 32

/-! ### Regions (R296) -/

/-- A field of a region descriptor (R296). -/
def State.region (s : State) (r lo w : Nat) : Nat := bits (s.natAt (s.rdtAt r) 64) lo w

/-- LOCAL (R296). -/
def State.localOf (s : State) (r : Nat) : Nat := s.region r 1 4
/-- The members of a region (R296). -/
def State.membersOf (s : State) (r : Nat) : List Nat := (List.range 16).filter (fun i => bit (s.region r 5 16) i)
/-- EPOCH (R296). -/
def State.epochOf (s : State) (r : Nat) : Nat := s.region r 21 8
/-- SWEEP (R296). -/
def State.sweeping (s : State) (r : Nat) : Bool := s.region r 29 1 == 1
/-- LCTR (R296). -/
def State.lctrOf (s : State) (r : Nat) : Nat := s.region r 32 12

/-- Write LCTR. -/
def State.setLctr (s : State) (r v : Nat) : State :=
  s.pokeNat (s.rdtAt r + 4) 2 (putBits (s.natAt (s.rdtAt r + 4) 2) 0 12 v)

/-- Whether a region is replicated (R296). -/
def State.replicated (s : State) (r : Nat) : Bool := (s.membersOf r).any (· != s.localOf r)

/-- The outbound queue of a region. -/
def State.outQueue (s : State) (r : Nat) : List OutRec := sget [] s.hub.outq r

/-- Replace the outbound queue of a region. -/
def State.setOutQueue (s : State) (r : Nat) (q : List OutRec) : State := s.modHub (fun u => { u with outq := sset [] u.outq r q })

/-- The hold queue of a region. -/
def State.holdQueue (s : State) (r : Nat) : List Held := sget [] s.hub.holdq r

/-- Whether a hold queue has no room (R296, R316). -/
def State.holdFull (s : State) (r : Nat) : Bool := (s.holdQueue r).length ≥ 2 ^ s.region r 276 4

/-- STALE-REPLICA of a region (R317). The package of replica i has number i (log entry 14). -/
def State.stale (s : State) (r : Nat) : Bool :=
  let t := s.region r 48 8
  t != 0 &&
  (((s.outQueue r).head?.map (fun o => decide (o.since + t * 2 ^ 20 < s.cycles.toNat))).getD false ||
   (s.membersOf r).any (fun i => i != s.localOf r && s.pkg.unreachable.contains i))

/-! ### Cells (R294, R295, R300, R301) -/

/-- The region of the frame that an address lies in (R295). -/
def State.regionAt (s : State) (pa : Nat) : Nat := (s.frame (s.recFrame (pa / 4096))).region

/-- The cell number of an address (R295). -/
def State.cellNo (s : State) (pa : Nat) : Nat := ((s.frame (s.recFrame (pa / 4096))).rpage * 4096 + pa % 4096) / 8

/-- The address of a cell of a region in this package, where a frame holds it: one that firmware has given the region page, or a
KEEPING one (R295). -/
def State.cellPa (s : State) (region cell : Nat) : Option Nat :=
  (s.mem.frames.find? (fun p => p.2.region == region && p.2.rpage == cell * 8 / 4096 && (p.2.kept || s.isKeeping p.1))).map
    (fun p => p.1 * 4096 + cell * 8 % 4096)

/-- The record of a cell (R300). -/
def State.cellRec (s : State) (pa : Nat) : CellRec := sget CellRec.init s.hub.cells (s.readAddr pa / 8)

/-- Write the record of a cell, in both frames while its line is forwarded (R320, R420). -/
def State.setCellRec (s : State) (pa : Nat) (c : CellRec) : State :=
  s.modHub (fun u => { u with cells := (s.writeAddrs pa).foldl (fun m a => sset CellRec.init m (a / 8) c) u.cells })

/-- The address of a pool record (R301). -/
def State.poolRec (s : State) (region idx : Nat) : Nat := s.region region 64 52 + 128 * idx

/-- A sibling: its value, its dot and whether its value is uncorrectable. -/
structure Sib where
  value : Nat
  dot : Nat
  bad : Bool
  deriving DecidableEq, Repr

/-- A cell as its home reads it: its siblings in dominance order, its vector, its record, and whether its record is
uncorrectable. -/
structure CellView where
  sibs : List Sib
  vec : Vec
  rc : CellRec
  bad : Bool
  deriving DecidableEq, Repr

/-- Bytes of an address range and whether any sector of it is marked. -/
def State.badRange (s : State) (a n : Nat) : Bool := (s.cohPeek a n).2

/-- Read a cell at its home (R300, R301). -/
def State.cellView (s : State) (pa : Nat) : CellView :=
  let region := s.regionAt pa
  let c := s.cellRec pa
  let page := s.cohPeek pa 8
  let sb := s.poolRec region c.sibrec
  let sibs :=
    if c.count ≤ 1 then [⟨ofBytes page.1, c.dot0, page.2⟩]
    else (List.range c.count).map (fun i =>
      ⟨s.natAt (sb + 8 * i) 8, s.natAt (sb + 64 + 2 * i) 2, if i == 0 then page.2 else s.badRange (sb + 8 * i) 8⟩)
  let ext := s.poolRec region (bits c.vec.toNat 32 32)
  let vec := if c.esc then vecOf (fun r => s.natAt (ext + 2 * r) 2 % 4096) else ofEntries (wordEntries c.vec.toNat)
  ⟨sibs, vec, c, c.bad || (c.esc && s.badRange ext 34) || (c.count ≥ 2 && s.badRange (sb + 64) 16)⟩

/-- Whether a sibling with one dot ranks before a sibling with another: greater counter first, then greater replica
(R298). -/
def dotBefore (a b : Nat) : Bool := b % 4096 < a % 4096 || (a % 4096 == b % 4096 && b / 4096 < a / 4096)

/-- Put a sibling into dominance order: ahead of one with an equal dot, which was written earlier (R298). -/
def insertSib (x : Sib) : List Sib → List Sib
  | [] => [x]
  | y :: r => if dotBefore y.dot x.dot then y :: insertSib x r else x :: y :: r

/-- Siblings in dominance order, later ones of the list keeping their place behind earlier ones of equal rank. -/
def sortSibs (l : List Sib) : List Sib := l.foldr insertSib []

/-- A free record of a region's pool, the lowest (R296, R301). -/
def State.poolFree (s : State) (region : Nat) (taken : List Nat) : Option Nat :=
  (List.range (s.region region 128 24)).find? (fun i => i != 0 && !taken.contains i && !s.hub.poolUsed.contains (region, i))

/-- Write a cell with new siblings and a new vector; none where a pool record it needs is not free (R301). -/
def State.putCell (s : State) (pa : Nat) (v : CellView) (sibs : List Sib) (vec : Vec) : Option State :=
  let region := s.regionAt pa
  let c := v.rc
  let needS := sibs.length ≥ 2
  let needX := vec.entries.length > 4
  let oldX := bits c.vec.toNat 32 32
  let sIdx := if !needS then some 0 else if c.sibrec != 0 then some c.sibrec else s.poolFree region []
  let xIdx := if !needX then some 0 else if c.esc then some oldX else s.poolFree region [sIdx.getD 0]
  match sIdx, xIdx with
  | some si, some xi =>
    let used := s.hub.poolUsed.filter (fun p =>
      !(p.1 == region && ((c.sibrec != 0 && p.2 == c.sibrec) || (c.esc && p.2 == oldX))))
    let used' := used ++ (if needS then [(region, si)] else []) ++ (if needX then [(region, xi)] else [])
    let s1 := s.modHub (fun u => { u with poolUsed := used' })
    let sb := s1.poolRec region si
    let s2 := if needS then
        s1.cohPoke noHart (placed sb ((sibs.map (fun x => toBytes 8 x.value)).flatten ++ List.replicate (64 - 8 * sibs.length) 0 ++
          (sibs.map (fun x => toBytes 2 x.dot)).flatten ++ List.replicate (64 - 2 * sibs.length) 0))
          (((List.range sibs.length).filter (fun i => ((sibs[i]?).map Sib.bad).getD false)).map (fun i => sb + 8 * i))
      else s1
    let ext := s2.poolRec region xi
    let gen := if c.esc then s2.natAt (ext + 32) 2 + b2n (vec != v.vec) else Config.openGen s.tick
    let s3 := if needX then
        s2.cohPoke noHart (placed ext (((List.range 16).map (fun r =>
          toBytes 2 (if vec.at_ r == 0 then 0 else r * 4096 + vec.at_ r))).flatten ++ toBytes 2 gen ++ List.replicate 94 0)) []
      else s2
    let top := sibs.headD ⟨0, 0, false⟩
    let s4 := s3.cohPoke noHart (placed pa (toBytes 8 top.value)) (if top.bad then [pa] else [])
    some (s4.setCellRec pa { c with
      vec := BitVec.ofNat 64 (if needX then handleWord gen xi else packVec vec.entries)
      count := sibs.length, esc := needX
      dot0 := if needS then 0 else top.dot, sibrec := if needS then si else 0 })
  | _, _ => none

/-! ### Reports (R302, R303) -/

/-- A report for a cell as it stands (R302). -/
def State.keepReport (s : State) (pa status : Nat) (ctx : Bool) (dot : Nat) : Word :=
  let r := s.regionAt pa
  let c := s.cellRec pa
  BitVec.ofNat 64 (status + c.count * 16 + b2n ctx * 2 ^ 8 + b2n c.ovf * 2 ^ 9 + b2n (s.stale r) * 2 ^ 10 +
    b2n c.esc * 2 ^ 11 + s.epochOf r * 2 ^ 12 + dot * 2 ^ 20)

/-- The context that a form supplies, when it is effective (R299). -/
def State.context (s : State) (pa : Nat) (info ctx : Word) : Option Vec :=
  let r := s.regionAt pa
  let w := ctx.toNat
  let c := s.cellRec pa
  if !(bit info.toNat 8 && bits info.toNat 12 8 == s.epochOf r && !s.sweeping r) then none
  else if isHandle w then
    let idx := bits w 32 32
    if idx < s.region r 128 24 && c.esc && bits c.vec.toNat 32 32 == idx &&
        s.natAt (s.poolRec r idx + 32) 2 == bits w 16 16 then some (s.cellView pa).vec
    else none
  else
    let es := wordEntries w
    if packedOk es && es.all (fun e => e == 0 || (s.membersOf r).contains (e / 4096)) then some (ofEntries es) else none

/-! ### Writing a cell (R307, R308, R313) -/

/-- Append an update record to the outbound queue, in a slot that no other record holds, with the clock it carries (R291, R313). -/
def State.appendOut (s : State) (pa : Nat) (value : Word) (dot : Nat) (c : Option Vec) (clock : Nat) : State :=
  let r := s.regionAt pa
  let others := (s.membersOf r).filter (· != s.localOf r)
  let u : Update :=
    { cell := s.cellNo pa, region := r, origin := s.localOf r, ectx := c.isNone, epoch := s.epochOf r, value := value,
      dot := BitVec.ofNat 16 dot,
      ctx := (List.range 16).map (fun i => match c with
        | some v => BitVec.ofNat 16 (if v.at_ i == 0 then 0 else i * 4096 + v.at_ i)
        | none => 0)
      clock := clock }
  let n := 2 ^ s.region r 212 4
  let slot := (((List.range n).map (fun i => (dot % 4096 + i) % n)).find? (fun k => !(s.outQueue r).any (fun o => o.slot == k))).getD 0
  let bytes := toBytes 5 u.cell ++ toBytes 1 r ++ toBytes 1 (u.origin + b2n u.ectx * 16) ++ toBytes 1 u.epoch ++
    toBytes 8 value.toNat ++ toBytes 2 dot ++ List.replicate 14 0 ++ (u.ctx.map (fun d => toBytes 2 d.toNat)).flatten
  (s.cohPoke noHart (placed (s.region r 160 52 + 64 * slot) bytes) []).setOutQueue r
    (s.outQueue r ++ [⟨u, slot, others, others, s.cycles.toNat⟩])

/-- Write a value beside the siblings that stay, with a new dot (R307, R308): the dot and the state, or the status of
R303 that says why not. -/
def State.keepWrite (s : State) (pa : Nat) (v : CellView) (keep : List Sib) (value : Word) (bad : Bool) (c : Option Vec)
    (clock : Nat) : Except Nat (Nat × State) :=
  let r := s.regionAt pa
  if keep.length == 8 then .error 3
  else if s.lctrOf r == 4095 then .error 4
  else if s.replicated r && (s.outQueue r).length ≥ 2 ^ s.region r 212 4 then .error 5
  else
    let n := s.lctrOf r + 1
    let u := s.localOf r * 4096 + n
    let joined := match c with | some x => v.vec.join x | none => v.vec
    match s.putCell pa v (insertSib ⟨value.toNat, u, bad⟩ keep) (joined.joinDot u) with
    | none => .error 6
    | some s1 =>
      let s2 := s1.setLctr r n
      .ok (u, if s2.replicated r then s2.appendOut pa value u c clock else s2)

/-- KST at the home (R307): the status, dot and state, with whether the context was effective. -/
def State.keepStore (s : State) (pa : Nat) (info value ctx : Word) (bad : Bool) (clock : Nat) : Nat × Nat × Bool × State :=
  let v := s.cellView pa
  let c := s.context pa info ctx
  let keep := v.sibs.filter (fun x => !ctxCovers c x.dot)
  match s.keepWrite pa v keep value bad c clock with
  | .error st => (st, 0, c.isSome, s)
  | .ok (u, s1) => (if keep.isEmpty then 2 else 1, u, c.isSome, s1)

/-- The siblings' values combined by a merge of KREC: 1 ADD, 2 MIN, 3 MAX, 4 OR, 5 XOR (R308). -/
def mergeSibs (sub : Nat) (ty : Ty) : List Sib → Nat
  | [] => 0
  | x :: r => r.foldl (fun acc y =>
      combine (match sub with | 1 => 0 | 2 => 1 | 3 => 2 | 4 => 4 | _ => 5) (ty == .i64) 64 acc y.value) x.value

/-- What a KREC does when it is performed (R308): its report, whether the report register is POISON, and the state;
none while it must wait at the home. -/
def State.keepReconcile (s : State) (pa sub : Nat) (ty : Ty) (info value ctx : Word) (clock : Nat) : Option (Word × Bool × State) :=
  let v := s.cellView pa
  let c := s.context pa info ctx
  if v.bad then some (0, true, s)
  else if sub == 0 then
    if v.sibs.any (fun x => !ctxCovers c x.dot) then some (s.keepReport pa 8 c.isSome 0, false, s)
    else match s.keepWrite pa v [] value false c clock with
      | .ok (u, s1) => some (s1.keepReport pa 7 c.isSome u, false, s1)
      | .error _ => none
  else if v.rc.count ≤ 1 then some (s.keepReport pa 7 false v.rc.dot0, false, s)
  else if v.sibs.any Sib.bad then some (0, true, s)
  else match s.keepWrite pa v [] (BitVec.ofNat 64 (mergeSibs sub ty v.sibs)) false (some v.vec) clock with
    | .ok (u, s1) => some (s1.keepReport pa 7 false u, false, s1)
    | .error _ => none

/-! ### Hold queues (R311, R316) -/

/-- Set OVF of a cell by what the hold queue holds for it (R316). -/
def State.setOvf (s : State) (region cell : Nat) : State :=
  match s.cellPa region cell with
  | none => s
  | some pa =>
    let held := (s.holdQueue region).any (fun h => match h with
      | .store _ c _ _ => c == cell
      | .update u => u.cell == cell)
    s.setCellRec pa { s.cellRec pa with ovf := held }

/-- Put a record into a region's hold queue. -/
def State.hold (s : State) (region cell : Nat) (h : Held) : State :=
  (s.modHub (fun u => { u with holdq := sset [] u.holdq region (sget [] u.holdq region ++ [h]) })).setOvf region cell

/-- The origin and cell of a held record; a plain store's origin is the local replica. -/
def State.heldKey (s : State) (h : Held) : Nat × Nat :=
  match h with
  | .store r c _ _ => (s.localOf r, c)
  | .update u => (u.origin, u.cell)

/-- Whether an earlier record of an origin for a cell is held. -/
def State.heldFor (s : State) (region origin cell : Nat) : Bool :=
  (s.holdQueue region).any (fun h => s.heldKey h == (origin, cell))

/-- A plain store of one whole cell: a KST with the empty context, or a held record; none while the hold queue is full
(R311, R316). -/
def State.plainCell (s : State) (pa : Nat) (value : Word) (bad : Bool) : Option State :=
  let r := s.regionAt pa
  let cell := s.cellNo pa
  let try_ := if s.heldFor r (s.localOf r) cell then .error 3
    else s.keepWrite pa (s.cellView pa) (s.cellView pa).sibs value bad none 0
  match try_ with
  | .ok (_, s1) => some s1
  | .error _ => if s.holdFull r then none else some (s.hold r cell (.store r cell value bad))

/-- Apply an incoming update, or find that it must be held (R314). The clock it carries reaches the line (R291). -/
def State.applyUpdate (s : State) (u : Update) : Option State :=
  match s.cellPa u.region u.cell with
  | none => none
  | some pa =>
    let v := s.cellView pa
    let dot := u.dot.toNat
    if v.vec.covers dot then some s
    else
      let c : Option Vec := if u.ectx then none else some (vecOf (fun i => ((u.ctx[i]?).getD 0).toNat % 4096))
      let keep := v.sibs.filter (fun x => !ctxCovers c x.dot)
      if keep.length == 8 then none
      else
        let joined := match c with | some x => v.vec.join x | none => v.vec
        (s.putCell pa v (insertSib ⟨u.value.toNat, dot, false⟩ keep) (joined.joinDot dot)).map (fun s1 =>
          s1.setStamp 0 (pa / 128) u.clock)

/-- Retry held records in arrival order; records of one origin for one cell keep their order (R316). -/
def State.retryHeld (s : State) (region : Nat) (blocked : List (Nat × Nat)) : List Held → List Held × State
  | [] => ([], s)
  | h :: r =>
    let key := s.heldKey h
    let done := if blocked.contains key then none
      else match h with
        | .store _ cell value bad =>
          if s.sweeping region then none
          else (s.cellPa region cell).bind (fun pa =>
            match s.keepWrite pa (s.cellView pa) (s.cellView pa).sibs value bad none 0 with
            | .ok (_, s1) => some s1
            | .error _ => none)
        | .update u => (s.applyUpdate u).map (fun s1 => s1.send (.updateAck u.origin region u.dot.toNat))
    match done with
    | some s1 => State.retryHeld s1 region blocked r
    | none =>
      let (rest, s1) := State.retryHeld s region (key :: blocked) r
      (h :: rest, s1)

/-- Take an incoming update: it is dropped or applied, and acknowledged, or held; none while the hold queue has no room for it (R314,
R316). -/
def State.takeUpdate (s : State) (u : Update) : Option State :=
  let try_ := if s.heldFor u.region u.origin u.cell then
      -- an update that the vector already covers is dropped even then
      (match s.cellPa u.region u.cell with
       | some pa => if (s.cellView pa).vec.covers u.dot.toNat then some s else none
       | none => none)
    else s.applyUpdate u
  match try_ with
  | some s1 => some (s1.send (.updateAck u.origin u.region u.dot.toNat))
  | none => if s.holdFull u.region then none else some (s.hold u.region u.cell (.update u))

/-- Take the updates that stand in the receiving queues of the fabric ports, of each port in order (R316). -/
def State.retryStalled (s : State) (ports : List Nat) : List Update → List Update × State
  | [] => ([], s)
  | u :: r =>
    let p := s.portOf u.origin
    match (if ports.contains p then none else s.takeUpdate u) with
    | some s1 => State.retryStalled (s1.unqueueFlit (portOut p + 1)) ports r
    | none =>
      let (rest, s1) := State.retryStalled s (p :: ports) r
      (u :: rest, s1)

/-- HOLD_QUEUE_RETRY: the held records are retried, and then what stands behind them in the fabric's queues (R316). -/
def execHoldQueueRetry (region : Nat) (s : State) : Out :=
  let q := s.holdQueue region
  let (rest, s1) := s.retryHeld region [] q
  let s2 := s1.modHub (fun u => { u with holdq := sset [] u.holdq region rest })
  let s3 := ((q.map (fun h => (s.heldKey h).2)).eraseDups).foldl (fun st c => st.setOvf region c) s2
  let (left, s4) := s3.retryStalled [] s3.hub.stalled
  .next (s4.modHub (fun u => { u with stalled := left }))

/-- KEEPING_UPDATE_APPLY at a member (R314), behind what stands in the receiving queue of its fabric port (R316). -/
def execKeepingUpdateApply (u : Update) (s : State) : Out :=
  let p := s.portOf u.origin
  match (if s.hub.stalled.any (fun v => s.portOf v.origin == p) then none else s.takeUpdate u) with
  | some s1 => .next s1
  | none => .next ((s.modHub (fun h => { h with stalled := h.stalled ++ [u] })).queueFlit (portOut p + 1))

/-- UPDATE_SEND: records go to each member in queue order; one read as uncorrectable stays, with a RAS event (R313,
R315). -/
def execUpdateSend (region dot member : Nat) (s : State) : Out :=
  let q := s.outQueue region
  match q.find? (fun o => o.unsent.contains member) with
  | none => .next s
  | some o =>
    if o.upd.dot.toNat != dot || !s.linkFree (portOut (s.portOf member)) then .next s
    else if s.badRange (s.region region 160 52 + 64 * o.slot) 64 then .next (s.ras (s.region region 160 52 + 64 * o.slot))
    else .next ((s.setOutQueue region (updWhere (fun p => p.upd.dot == o.upd.dot)
      (fun p => { p with unsent := p.unsent.filter (· != member) }) q)).send (.update member o.upd))

/-- UPDATE_ACK: a record leaves the queue when every other member has acknowledged it (R313). -/
def execUpdateAck (region dot member : Nat) (s : State) : Out :=
  .next (s.setOutQueue region (((s.outQueue region).map (fun o =>
    if o.upd.dot.toNat == dot then { o with unacked := o.unacked.filter (· != member) } else o)).filter
      (fun o => !o.unacked.isEmpty)))

/-! ### Performing at the home (R305, R306, R309, R310) -/

/-- Whether a request on a KEEPING page acts on its cells; a load reads the page's bytes (R311). -/
def ReqKind.onCell : ReqKind → Bool
  | .kld => true
  | .ksib _ => true
  | .kst .. => true
  | .krec .. => true
  | .store .. => true
  | _ => false

/-- Whether a request is one of the keeping forms (R304). -/
def ReqKind.keeping : ReqKind → Bool
  | .store .. => false
  | k => k.onCell

/-- Whole cells among the bytes of a plain store: their addresses, in ascending order. -/
def wholeCells (data : List (Nat × Byte)) : List Nat :=
  ((data.map (fun p => p.1 / 8 * 8)).eraseDups).filter (fun a => (List.range 8).all (fun i => data.any (fun p => p.1 == a + i)))

/-- A keeping access that its home rejects: a store is discarded and acknowledged, and each register of a form is POISON, with the
fault record of the crew (R310, R517; log entry 93). -/
def State.rejectKeep (s : State) (r : Req) (ts : Nat) : State :=
  let s1 := s.lostAccess r.hart 0x14 r.va
  let d := r.reg.getD 0
  let none_ (n : Nat) : State := s1.reply r ((List.range n).map (fun i => (false, d + i, 0, 0, true))) ts true
  match r.kind with
  | .kld => none_ 3
  | .ksib _ => none_ 2
  | .store .. => s1.acknowledge r.place r.tag r.core ts (r.pa / 128) r.order r.scope none
  | _ => none_ 1

/-- Perform a request on a KEEPING page at the home, and answer it; none while it must wait there (R309, R311). The home recalls
copies and partials as for a home access, and may reject the request (R452, R457, R461). -/
def State.performKeep (s0 : State) (r : Req) : Option State :=
  let region := s0.regionAt r.pa
  let (ts, s1) := if r.weak then (0, s0) else s0.stampFor r.level r.core r.pa r.order r.clock
  let (s, ok) := s1.cohTouch (agentOf r.core) r.guest (r.mode == .fw) (r.pa / 128) r.kind.writes true
  let v := s.cellView r.pa
  let d := r.reg.getD 0
  let clock := if r.scope == 4 then ts else 0
  let answer (st : State) (regs : List (Bool × Nat × Nat × Word × Bool)) : State := st.reply r regs ts true
  if !r.kind.onCell then some (s0.performData r)
  else if r.kind.writes && s.sweeping region then none
  else if !ok then some (s.rejectKeep r ts)
  else match r.kind with
  | .kld =>
    let top := v.sibs.headD ⟨0, 0, false⟩
    some (answer s [(false, d, 0, BitVec.ofNat 64 top.value, top.bad || v.bad), (false, d + 1, 0, v.rc.vec, v.bad),
      (false, d + 2, 0, s.keepReport r.pa 0 true top.dot, v.bad)])
  | .ksib i =>
    match v.sibs[i]? with
    | some x => some (answer s [(false, d, 0, BitVec.ofNat 64 x.value, x.bad || v.bad),
        (false, d + 1, 0, s.keepReport r.pa 0 false x.dot, v.bad)])
    | none => some (answer s [(false, d, 0, 0, v.bad), (false, d + 1, 0, s.keepReport r.pa 9 false 0, v.bad)])
  | .kst info value ctx =>
    if v.bad then some (answer s [(false, d, 0, 0, true)])
    else
      let (st, u, eff, s2) := s.keepStore r.pa info value ctx false clock
      some (answer s2 [(false, d, 0, s2.keepReport r.pa st eff u, false)])
  | .krec sub ty info value ctx =>
    (s.keepReconcile r.pa sub ty info value ctx clock).map (fun q => answer q.2.2 [(false, d, 0, q.1, q.2.1)])
  | .store data marks =>
    let put := (wholeCells data).foldl (fun (acc : Option State) a =>
      acc.bind (fun st => st.plainCell a
        (BitVec.ofNat 64 (ofBytes ((List.range 8).map (fun i => ((data.find? (fun p => p.1 == a + i)).map Prod.snd).getD 0))))
        (marks.any (fun m => m / 8 * 8 == a)))) (some s)
    put.map (fun st => st.acknowledge r.place r.tag r.core ts (r.pa / 128) r.order r.scope none)
  | _ => some (s.performData r)

/-! ### The forms (R304) -/

/-- A keeping form: checked, then sent to the home of the local replica. -/
def keepForm (o : Op) (x : Args) (write : Bool) (regs order : Nat) (kind : State → ReqKind) (s : State) : Out :=
  memIssue o x s (fun s1 =>
    match s1.checkAll ⟨0, 8, .atomic, true, write, .form⟩ (s1.laneAddrs o x 8) with
    | .out o => o
    | .ok refs s2 =>
      if s2.strongWaits refs order x.rm.toNat then s1.block .form
      else
        let k := kind s2
        let s3 := s2.modNow (fun t => t.markEmpty (.s (BitVec.ofNat 8 (regOf x.d)) false 0) regs [0])
        (s3.sendReqs x 8 order x.rm.toNat refs false (some (regOf x.d)) (fun _ => k) (fun _ => false)).done)

/-- The info word and the pair of KST and KREC. -/
def State.keepOperands (s : State) (x : Args) : Word × Word × Word :=
  ((s.now.getS (regOf x.d)).v, (s.now.getS (regOf x.b)).v, (s.now.getS (regOf x.b + 1)).v)

/-- KLD (R305). -/
def execKld (x : Args) (s : State) : Out := keepForm .kld x false 3 x.sub.toNat (fun _ => .kld) s

/-- KSIB (R306). -/
def execKsib (x : Args) (s : State) : Out := keepForm .ksib x false 2 x.sub.toNat (fun s1 => .ksib (s1.scalar x.b)) s

/-- KST (R307). -/
def execKst (x : Args) (s : State) : Out :=
  keepForm .kst x true 1 x.sub.toNat (fun s1 => let (i, v, c) := s1.keepOperands x; .kst i v c) s

/-- KREC (R308): its order is ACQREL (R304). -/
def execKrec (x : Args) (s : State) : Out :=
  keepForm .krec x true 1 3 (fun s1 =>
    let (i, v, c) := s1.keepOperands x
    if x.sub == 0 then .krec 0 x.ty i v c else .krec x.sub.toNat x.ty i 0 0) s

/-! ### Compaction (R319) -/

/-- A counter after a sweep. -/
def rebased (d : Vec) (dot : Nat) : Nat := dot / 4096 * 4096 + (dot % 4096 - d.at_ (dot / 4096))

/-- Rebase a cell as one step (R319). -/
def State.rebaseCell (s : State) (pa : Nat) (d : Vec) : State :=
  let v := s.cellView pa
  let sibs := sortSibs (v.sibs.map (fun x => { x with dot := rebased d x.dot }))
  (s.putCell pa v sibs (vecOf (fun r => v.vec.at_ r - d.at_ r))).getD s

/-- Rebase an update record that is held (R319); an all-zero context stays one that is not empty (R313). -/
def rebaseUpdate (d : Vec) (u : Update) : Update :=
  { u with
    dot := BitVec.ofNat 16 (rebased d u.dot.toNat)
    ctx := (List.range 16).map (fun i =>
      let n := ((u.ctx[i]?).getD 0).toNat % 4096 - d.at_ i
      BitVec.ofNat 16 (if n == 0 then 0 else i * 4096 + n)) }

/-- The advance of each replica of a sweep (R319): the LCTR that its member holds, and one below the lowest of its dots in
held records. -/
def State.advances (s : State) (region : Nat) (others : List SweepShare) : Vec :=
  let mine := s.localOf region
  let own := (s.holdQueue region).filterMap (fun h => match h with | .update u => some u.dot.toNat | _ => none)
  let held := own ++ (others.map (fun o => o.held.map BitVec.toNat)).flatten
  vecOf (fun r =>
    let l := if r == mine then s.lctrOf region else ((others.find? (fun o => o.replica == r)).map SweepShare.lctr).getD 0
    let h := ((held.filter (fun e => e / 4096 == r)).map (· % 4096)).foldl min (l + 1)
    min l (h - 1))

end Sys2Proof.Machine
end

