-- ==== Sys2Proof/Machine/HomeOps.lean ====
section
/-! DEFINITION. Steps of the home agents: accesses performed at the home, reductions at a coherent agent, requests of
agents and peers, merging of units, failed holders and homes, and failed device checks (20_directories R449 to R464;
11_access R267, R268; 18_translation R420, R421; 10_spaces R239). -/
namespace Sys2Proof.Machine

/-! ### Requests of teams at the home -/

/-- Whether the stalled-write window of some migration holds a request (R420). -/
def State.windowHolds (s : State) (id : Nat) : Bool := s.hub.migs.any (fun m => m.held.contains id)

/-- Perform a waiting request at the home: none while it must wait there (R308, R309). What the issuing core holds of the line below
it by then goes first, as at issue (R251). -/
def State.performHome (s : State) (r : Req) : Option State :=
  let s0 := s.modMem (fun m => { m with reqs := m.reqs.filter (fun q => q.id != r.id) })
  let s1 := if r.weak then s0 else s0.preStrong r.core r.level (r.pa / 128)
  if r.keep then s1.performKeep r else some (s1.performData r)

/-- A MOVING migration passes to ABORTING, to end with a status (R419). -/
def State.abortMig (s : State) (id status : Nat) : State :=
  match s.hub.migs.find? (fun q => q.id == id && q.st == .moving) with
  | none => s
  | some m =>
    -- the lines already copied are served by the old frame again, with their stamps
    let s1 := (List.range m.cursor).foldl (fun st i => st.raiseStamp (m.src * 32 + i) (sget 0 s.mem.stamps (m.dest * 32 + i))) s
    (s1.modHub (fun u => { u with
      migs := updWhere (fun q => q.id == id) (fun q => { q with st := .aborting, status := status }) u.migs })).modFrame m.src
        (fun r => { r with mstate := 4 })

/-- Hold a write at the cursor of a migration; a 33rd makes the migration abort with status 6 (R420, R421). -/
def State.holdWrite (s : State) (m : Mig) (id : Nat) : State :=
  let s1 := s.modHub (fun u => { u with
    migs := updWhere (fun q => q.id == m.id) (fun q => { q with held := q.held ++ [id] }) u.migs })
  if m.held.length ≥ 32 then s1.abortMig m.id 6 else s1

/-- Whether an earlier store of the same hart to a request's line is still on its way to the home, behind which it keeps its place
(R248, R274). -/
def State.storeAhead (s : State) (r : Req) : Bool :=
  s.mem.reqs.any (fun q => q.hart == r.hart && q.id < r.id && q.pa / 128 == r.pa / 128 && !s.windowHolds q.id &&
    (match q.kind with | .store .. => true | _ => false))

/-- HOME_ACCESS (R16, R250, R252, R452, R309, R420): a request crosses the links of its route; lanes at one location, and stores of
one hart to a line, come in order; a write or keeping form at the cursor of a migration is held, and a plain read is not (R320); a KREC
that cannot be performed stays deferred at the home (R308). -/
def execHomeAccess (req : Nat) (s : State) : Out :=
  match s.mem.reqs.find? (fun r => r.id == req && !r.parked && !r.ru) with
  | none => .next s
  | some r =>
    if !s.reachable r.core r.level r.pa r.kind.writes || s.windowHolds req || s.storeAhead r || s.laneAhead r (!s.wouldHold r) || (selector r.pa == 14 && s.mmioBusy r.mode r.pa) then .next s
    else
      let cur := if r.kind.writes || r.kind.keeping then s.cursorMig r.pa else none
      match cur with
      | some m => .next (s.holdWrite m req)
      | none =>
        if !r.weak && r.level ≥ 2 && s.backWaits r.core (fun a => a / 128 == r.pa / 128) then .next s else
        match s.performHome r with
        | some s1 => .next s1
        | none =>
          (match r.kind with
           | .krec .. => .next (if s.sweeping (s.regionAt r.pa) then s
              else s.modMem (fun m => { m with reqs := updWhere (fun q => q.id == req) (fun q => { q with parked := true }) m.reqs }))
           | _ => .next s)

/-- KREC_DEFERRED: a KREC that waits at the home is performed once what it needs is there (R308). -/
def execKrecDeferred (req : Nat) (s : State) : Out :=
  match s.mem.reqs.find? (fun r => r.id == req && r.parked && !r.kind.isLdp) with
  | none => .next s
  | some r =>
    if (s.cursorMig r.pa).isSome then .next s
    else .next ((s.performHome { r with parked := false }).getD s)

/-- Apply a reduction to an agent's partial of an element; one of another op, type or width on the element first sends the
agent's partials of the line to the home (R267). -/
def State.applyPartial (s : State) (a pa size op : Nat) (ty : Ty) (b : Nat) : State :=
  let same (p : Partial) : Bool := p.agent == a && p.pa == pa && p.size == size && p.op == op && p.ty == ty
  let clash := s.mem.partials.any (fun p => p.agent == a && p.pa < pa + size && pa < p.pa + p.size && !same p)
  let s1 := if clash then
      let mine (p : Partial) : Bool := p.agent == a && p.pa / 128 == pa / 128
      let st := (s.mem.partials.filter mine).foldl State.mergePartial s
      st.modMem (fun m => { m with partials := m.partials.filter (fun p => !mine p) })
    else s
  let old := ((s1.mem.partials.find? same).map Partial.value).getD (identityOf op (tySigned ty) (8 * size))
  let p : Partial := ⟨a, pa, size, op, ty, combine op (tySigned ty) (8 * size) old b⟩
  s1.modMem (fun m => { m with partials := m.partials.filter (fun q => !same q) ++ [p] })

/-- A reduction reaches its agent's partial: an LDP held on the line sees a write by another agent (R254), and on a page that is
moving, by either frame, the partial goes home at once, so that every access to the page finds it (R290, R293). -/
def State.reduceAt (s : State) (h a pa size op : Nat) (ty : Ty) (b : Nat) : State :=
  let s1 := (s.applyPartial a pa size op ty b).modMem (fun m => { m with
    reqs := releaseLdp h (fun q => q.level ≥ 2) [pa / 128] m.reqs })
  if (s.migOf pa).isSome || s.recFrame (pa / 4096) != pa / 4096 then s1.mergeLines (pa / 128) 1 else s1

/-- REDU_AT_AGENT (R267): the line enters U at the issuing die's agent, and the reduction is applied to its partial and
acknowledged. A rejected one is discarded and acknowledged (R517). The home of a peer's line is asked over the fabric. -/
def execReduAtAgent (req : Nat) (s : State) : Out :=
  match s.mem.reqs.find? (fun r => r.id == req && r.ru) with
  | none => .next s
  | some r =>
    match r.kind with
    | .redu op ty b =>
      let line := r.pa / 128
      if (s.cursorMig r.pa).isSome || s.backWaits r.core (fun a => a / 128 == line) then .next s
      else
        let a := agentOf r.core
        let s0 := (s.modMem (fun m => { m with reqs := m.reqs.filter (fun q => q.id != req) })).preStrong r.core r.level line
        let (s2, ok) := match homeOf r.pa with
          | some h =>
            let mine := (s0.home h).dir.any (fun e => e.covers line && e.state == 4 && e.hold.contains a && e.guest == r.guest)
            let (s1, got) := if mine then (s0, Grant.home) else s0.dirServe h line a r.guest (r.mode == Mode.fw) .redu
            (if mine || got == Grant.no then s1 else s1.count r.pa true, got != Grant.no)
          | none => (s0, true)
        let (ts, s3) := s2.stampFor r.level r.core r.pa r.order r.clock
        let s4 := if ok then s3.reduceAt r.hart a r.pa r.size op ty b else s3.lostAccess r.hart 0x14 r.va
        .next (s4.acknowledge r.id r.tag r.core ts line r.order r.scope none)
    | _ => .next s

/-! ### Requests of coherent agents -/

/-- RD: a coherent agent asks for a clean copy of a line (R452). -/
def execRd (agent guest pa : Nat) (s : State) : Out := .next (s.cohTouch agent guest false (pa / 128) false false).1

/-- RDX: a coherent agent asks for an exclusive copy of a line (R452). -/
def execRdx (agent guest pa : Nat) (s : State) : Out := .next (s.cohTouch agent guest false (pa / 128) true false).1

/-- UNIT_MERGE: the two halves of a unit join (R455); `base` and `size` name the joined unit, and ages are counted modulo the 2^42
cycles that LAST tells apart. Its halves belong to one guest, since no coherence domain spans two (R461). -/
def execUnitMerge (home : Home) (base size : Nat) (s : State) : Out :=
  let h := homeNo home
  let m := s.home h
  if size == 0 || 9 < size || base % 2 ^ size != 0 then .next s
  else
    let half := 2 ^ (size - 1)
    let now := bits s.cycles.toNat 0 42
    let quiet (e : DirEntry) : Bool := decide (2 ^ m.mquiet < (now + 2 ^ 42 - e.last * 1024) % 2 ^ 42)
    match m.dir.find? (fun e => e.base == base && e.size == size - 1), m.dir.find? (fun e => e.base == base + half && e.size == size - 1) with
    | some a, some b =>
      let em (x : DirEntry) : Bool := x.state == 2 || x.state == 3
      let joins := (a.state == b.state && (a.state == 1 || a.state == 4)) || (em a && em b && a.owner == b.owner) ||
        a.state == 0 || b.state == 0
      if m.merge && quiet a && quiet b && joins && a.guest == b.guest then
        let e : DirEntry :=
          { a with
            state := max a.state b.state, size := size
            hold := a.hold ++ b.hold.filter (fun x => !a.hold.contains x)
            last := max a.last b.last }
        .next (s.modHome h (fun q => { q with dir := q.dir.filter (fun d => d != a && d != b) ++ [e] }))
      else .next s
    | _, _ => .next s

/-- WRITE_BACK_ARRIVAL: bytes that an agent holding a line in M writes back reach the home, in coherence order before any
later request (R453, R271). Offsets are within the line. -/
def execWriteBackArrival (agent guest pa : Nat) (data : List (Nat × Byte)) (s : State) : Out :=
  match homeOf pa with
  | none => .next s
  | some h =>
    let line := pa / 128
    if (s.home h).dir.any (fun e => e.covers line && e.state == 3 && e.owner == agent && e.guest == guest) &&
        (s.cursorMig pa).isNone then
      let s1 := (s.cohPoke noHart ((data.filter (fun p => p.1 < 128)).map (fun p => (line * 128 + p.1, p.2))) []).count pa true
      .next (s1.modHome h (fun m => { m with dir := m.dir.map (fun e => if e.covers line then { e with last := s.lastStamp } else e) }))
    else .next s

/-! ### Peer packages (R458, R459) -/

/-- Peer entries of HA-H0 and HA-H1 by number (R458). -/
def peerCapacity : Nat := 65536

/-- The LAST of the local entry over a granule. -/
def HomeSt.granuleLast (m : HomeSt) (p : PeerEntry) : Nat :=
  maxN ((m.dir.filter (fun e => e.base < p.base * 16 + 16 && p.base * 16 < e.base + e.lines)).map DirEntry.last)

/-- Apply a peer's request for a copy to its granule's peer entry (R459). -/
def State.peerTouch (s : State) (h pkg pa : Nat) (write : Bool) : State :=
  let g := pa / 2048
  let m := s.home h
  let put (st : State) (e : PeerEntry) : State :=
    st.modHome h (fun q => { q with peers := q.peers.filter (fun p => p.base != g) ++ [e] })
  match m.peers.find? (fun p => p.base == g) with
  | some e =>
    if write then put (s.probePeers h e (some pkg)) ⟨[pkg], 2, pkg, g⟩
    else if e.state == 2 && e.owner != pkg then put (s.probePeers h e (some pkg)) ⟨[e.owner, pkg], 1, 0, g⟩
    else if e.state == 2 then s
    else put s { e with mask := if e.mask.contains pkg then e.mask else e.mask ++ [pkg] }
  | none =>
    let s1 := if m.peers.length ≥ peerCapacity then
        (match leastBy (HomeSt.granuleLast m) m.peers with
         | some v => (s.probePeers h v none).modHome h
             (fun q => { q with peers := q.peers.filter (fun p => p.base != v.base) })
         | none => s)
      else s
    put s1 ⟨[pkg], if write then 2 else 1, if write then pkg else 0, g⟩

/-- The report of PGCNT for a frame of this package, but for PARKED (R474). -/
def State.countReport (s : State) (pa guest : Nat) (below : Bool) : Nat :=
  if selector pa ≥ 14 then 0
  else
    let (f0, n) := s.pageOf (s.recFrame (s.normPa pa / 4096))
    let rs := (List.range n).map (fun i => s.frame (f0 + i))
    let sat := rs.any (fun r => r.rd == 2 ^ 20 - 1 || r.wr == 2 ^ 20 - 1)
    let foreign := below && (s.frame f0).guest != guest
    (if foreign then 2 ^ 61 else sumN (rs.map FrameRec.total) % 2 ^ 32) + b2n sat * 2 ^ 62

/-- PEER_REQUEST: a request of another package, applied as agent 4 (R459, R461) at the local address that it names (R232); a rejected
one is answered without data, and one that is served at the home leaves no peer copy. -/
def execPeerRequest (pkg guest at_ : Nat) (kind : PeerKind) (s : State) : Out :=
  let pa := s.normPa at_
  match homeOf pa with
  | none => .next (s.send (.peerReply pkg pa []))
  | some h =>
    let line := pa / 128
    let a := line * 128
    let copy (write : Bool) : Out :=
      if h ≥ 2 then .next (s.send (.peerReply pkg pa []))
      else
        let (s1, got) := s.dirServe h line 4 guest false (if write then .rdx else .rd)
        if got == Grant.no then .next (s1.send (.peerReply pkg pa []))
        else
          let s2 := (s1.mergeLines line 1).count a write
          let s3 := if got == Grant.copy then s2.peerTouch h pkg pa write else s2
          .next (s3.send (.peerReply pkg pa (s3.cohPeek a 128).1))
    match kind with
    | .rd => copy false
    | .rdx => if (s.cursorMig pa).isSome then .next s else copy true
    | .read len =>
      let (s1, ok) := s.cohTouch 4 guest false line false true
      .next (s1.send (.peerReply pkg pa (if ok then (s1.cohPeek pa len).1 else [])))
    | .write data =>
      if (s.cursorMig pa).isSome then .next s
      else
        let (s1, ok) := s.cohTouch 4 guest false line true true
        .next ((if ok then s1.cohPoke noHart (placed pa data) [] else s1).send (.peerReply pkg pa []))
    | .pgcnt => .next (s.send (.peerReply pkg pa (toBytes 8 (s.countReport pa guest (guest != 0)))))

/-- A peer's address for its own HBM, as this package addresses it (R232). -/
def peerAddr (pkg pa : Nat) : Nat :=
  if selector pa ≤ 1 then 3 * 2 ^ 48 + pkg * 2 ^ 39 + selector pa * 2 ^ 38 + bits pa 0 38 else pa

/-- PEER_INVALIDATION: this package gives up its copies of a granule of a peer's HBM, written back where they are dirty
(R459). -/
def execPeerInvalidation (pkg pa : Nat) (recalled : Bool) (s : State) : Out :=
  let a := peerAddr pkg (pa / 2048 * 2048)
  let s1 := s.flushPage a 2048
  .next (s1.send (.peerReply pkg pa (if recalled then s1.bytesAt a 2048 else [])))

/-! ### Failures (R239, R463, R464) -/

/-- Mark every sector of some lines uncorrectable and count the lines as lost (R464, R476). -/
def State.loseLines (s : State) (line n : Nat) : State :=
  let secs := (List.range (4 * n)).map (4 * line + ·)
  let s1 := s.modMem (fun m => { m with marks := m.marks ++ secs.filter (fun k => !m.marks.contains k) })
  s1.modHub (fun u => { u with counters := sset 0 u.counters 0x49 (sget 0 u.counters 0x49 + BitVec.ofNat 64 n) })

/-- The lines of a unit that an agent of this package holds modified, or of a peer's those it may (R450, R464). -/
def State.heldM (s : State) (h agent : Nat) (e : DirEntry) : List Nat :=
  if agent == 4 then (List.range e.lines).map (e.base + ·)
  else ((sget [] s.mem.copies (cacheOf agent h)).filter (fun c => c.dirty && e.covers c.line)).map CohLine.line

/-- A failed holder leaves the entries of a home (R464): the lines that it held in M, and those in U of which it had a partial, are
lost, and no others (log entry 15). -/
def State.dropHolder (s : State) (h agent : Nat) (pkg : Option Nat) : State :=
  let m := s.home h
  let granules : List Nat := match pkg with
    | some p => (m.peers.filter (fun (e : PeerEntry) => e.state == 2 && e.owner == p)).map PeerEntry.base
    | none => []
  let s1 : State := match pkg with
    | some p =>
      let leave (e : PeerEntry) : PeerEntry :=
        { e with mask := e.mask.filter (· != p), state := if e.state == 2 && e.owner == p then 0 else e.state }
      s.modHome h (fun q => { q with peers := ((q.peers.map leave).filter (fun e => !e.mask.isEmpty)) })
    | none => s
  let peersLeft := (s1.home h).peers
  let gone (e : DirEntry) : Bool :=
    e.hold.contains agent &&
    (pkg.isNone || !peersLeft.any (fun p => p.base * 16 < e.base + e.lines && e.base < p.base * 16 + 16))
  let hit := m.dir.filter gone
  let dead (st : State) (e : DirEntry) : List Nat :=
    if e.state == 3 && e.owner == agent then
      (st.heldM h agent e).filter (fun k => pkg.isNone || granules.contains (k / 16))
    else if e.state == 4 then
      ((st.mem.partials.filter (fun p => p.agent == agent && e.covers (p.pa / 128))).map (fun p => p.pa / 128)).eraseDups
    else []
  let s2 := hit.foldl (fun (st : State) (e : DirEntry) => (dead st e).foldl (fun u k => u.loseLines k 1) st) s1
  let s3 := (s2.modMem (fun q => { q with
    partials := q.partials.filter (fun p => !(p.agent == agent && hit.any (fun e => e.covers (p.pa / 128)))) })).modCopies
      (· == agent) 0 (2 ^ 45) (fun c => if hit.any (fun e => e.covers c.line) then none else some c)
  let leave (e : DirEntry) : DirEntry :=
    if gone e then { e with
      hold := e.hold.filter (· != agent), state := if e.owner == agent && e.state ≥ 2 && e.state ≤ 3 then 0 else e.state }
    else e
  s3.modHome h (fun q => { q with dir := ((q.dir.map leave).filter (fun e => !e.hold.isEmpty)) })

/-- HOLDER_FAILURE: an agent, or a peer package when the agent is 4, fails while the homes survive (R464). -/
def execHolderFailure (agent : Nat) (pkg : Nat) (s : State) : Out :=
  .next ((List.range 4).foldl (fun st h => st.dropHolder h agent (if agent == 4 then some pkg else none)) s)

/-- Discard what every cache holds of a lost range, modified lines too (R463). -/
def State.discardRange (s : State) (sel : Nat → Bool) : State :=
  let s1 := s.modMem (fun m => { m with
    partials := m.partials.filter (fun p => !sel p.pa)
    copies := (m.copies.map (fun p => (p.1, p.2.filter (fun c => !sel (c.line * 128))))).filter (fun p => !p.2.isEmpty) })
  let s2 := (s1.cores.map Prod.fst).foldl (fun st c => st.setL1 c ((st.core c).l1.dropAll sel)) s1
  (s2.mem.clusters.map Prod.fst).foldl (fun st c => st.setCluster c ((st.cluster c).dropAll sel)) s2

/-- Lose one home: its directory and every copy of what it homes in surviving caches (R463). -/
def State.loseHome (s : State) (h : Nat) : State :=
  (s.modHome h (fun m => { m with dir := [], peers := [], failed := true })).discardRange (fun a => homeOf a == some h)

/-- The homes that a die has: a compute die its own, the hub die HA-L and HA-P (R449). -/
def homesOn : Nat → List Nat
  | 0 => [0]
  | 1 => [1]
  | 2 => [2, 3]
  | _ => []

/-- The coherent agent that a die is (R449). -/
def agentOfDie : Nat → Nat
  | 2 => 3
  | 3 => 2
  | d => d

/-- A die fails: its homes are lost, and its agent is a failed holder at the others (R463, R464). -/
def State.loseDie (s : State) (die : Nat) : State :=
  let s1 := (homesOn die).foldl State.loseHome s
  ([0, 1, 2, 3].filter (fun h => !(homesOn die).contains h)).foldl (fun st h => st.dropHolder h (agentOfDie die) none) s1

/-- Firmware has rewritten every leaf that maps a lost frame with V = 0, and its shootdown is over (R463, R489): `n` numbers what is lost.
It finds the leaves by the frames' records. -/
def State.shoot (s : State) (n : Nat) (lost : Nat → Bool) : State :=
  let mine := s.mem.frames.filter (fun p => lost (p.1 * 4096) && p.2.ptea != 0)
  let s1 := mine.foldl (fun st p => (List.range (st.pageOf p.1).2).foldl (fun u i =>
    u.cohPoke noHart (placed (p.2.ptea + 8 * i) (toBytes 8 (putBits (u.natAt (u.readAddr (p.2.ptea + 8 * i)) 8) 0 1 0))) []) st) s
  s1.modPkg (fun p => { p with shot := if p.shot.contains n then p.shot else p.shot ++ [n] })

/-- The homes of a die that are lost and whose shootdown is not over (R463). -/
def State.unshot (s : State) (die : Nat) : List Nat := (homesOn die).filter (fun h => (s.home h).failed && !s.pkg.shot.contains h)

/-- HOME_LOSS: a failed compute die loses its home agent, a failed hub die HA-L and HA-P; where homes are lost already, firmware's
shootdown of what maps them completes (R463). -/
def execHomeLoss (die : Nat) (s : State) : Out :=
  .next (match s.unshot die with
    | [] => ((homesOn die).filter (fun h => !(s.home h).failed)).foldl State.loseHome s
    | hs => hs.foldl (fun st h => st.shoot h (fun a => homeOf a == some h)) s)

/-- ON_DIE_CHECK_FAIL: a sector that refresh cannot correct is marked uncorrectable, and counted by its tier (R239,
R476). The record of the keeping cell at address a, which firmware memory holds, is named 2^52 + a (R300, R310; log entry 69). -/
def execOnDieCheckFail (pa : Nat) (s : State) : Out :=
  let sec := pa / 32
  if 2 ^ 52 ≤ pa then .next (s.setCellRec (pa - 2 ^ 52) { s.cellRec (pa - 2 ^ 52) with bad := true })
  else if s.mem.marks.contains sec then .next s
  else
    let n := match tierOf pa with | 0 => 0x41 | 1 => 0x43 | _ => 0x44
    .next ((s.modMem (fun m => { m with marks := m.marks ++ [sec] })).bump n)

end Sys2Proof.Machine
end

