-- ==== Sys2Proof/Machine/Async.lean ====
section
/-! DEFINITION. Asynchronous operations: how one is issued and numbered, what its completion does, and copies
(17_engine_queues R382 to R393, R402; 12_ordering R280, R286). -/
namespace Sys2Proof.Machine

/-! ### Issue and completion -/

/-- The translation an operation works under: that of its issuer (R390). -/
def AOp.ctx (o : AOp) : XCtx := ⟨o.core, o.guest, o.mode, o.s1ptb, o.s2ptb, 2 ^ 21 + o.id⟩

/-- The handle of an operation (R391). -/
def opHandle (kind engine core n : Nat) (tag : Option Nat) : Word :=
  BitVec.ofNat 64 (tag.getD 0 + (if kind == 0 then engine * 2 ^ 6 else 0) + kind * 2 ^ 12 +
    (if kind == 0 then n else core % 256 * 2 ^ 24 + n) * 2 ^ 16)

/-- The register that receives a future: none for NONE and for s0, whose writes are discarded (R63). -/
def futureReg (d : Operand) : Option Nat := if kindOf d == .s && regOf d != 0 then some (regOf d) else none

/-- Mark the register of a future EMPTY, holding its handle (R388, R69). -/
def Hart.awaitFuture (t : Hart) (d : Operand) (h : Word) : Hart :=
  match futureReg d with | some r => t.putS r ⟨.future, h⟩ | none => t

/-- ISSUE an operation of the running hart: it is numbered, its tag counts it, and D holds its handle (R388, R391). -/
def State.startOp (s : State) (kind : AKind) (hk engine : Nat) (d : Operand) (tag : Option Nat) (scope : Nat) : Nat × State :=
  let h := s.cur
  let t := s.now
  let core := coreOf h
  let (n, s1) := s.number (agentKey hk engine core 0) (kindBits hk) t.guest scope
  let hv := opHandle hk engine core n tag
  let (id, s2) := s1.fresh
  let op : AOp :=
    { id := id, kind := kind, handle := hv, hart := h, dreg := futureReg d, crew := t.place.crewKey, core := core,
      guest := t.guest, mode := t.mode, s1ptb := t.sup.s1ptb.toNat, s2ptb := t.sup.s2ptb.toNat, tag := tag,
      scope := scope, clock := (s.core core).lamport.toNat, before := id, cancelled := false, silent := false,
      status := none, addr := 0, hold := none }
  let s3 := (s2.modNow (fun u => u.awaitFuture d hv)).modRun (fun r => { r with ops := r.ops ++ [op] })
  let s4 := match tag with
    | none => s3
    | some i => s3.modCrew t.place.crewKey (fun c => { c with
        tagmap := BitVec.ofNat 64 (putBits c.tagmap.toNat i 1 0)
        tagCount := sset 0 c.tagCount i (sget 0 c.tagCount i + 1)
        tagSeen := sset 0 c.tagSeen i 0 })
  (id, s4)

/-- A core observes a completion: an acquire at the operation's scope, and its clock (R280, R283, R286). -/
def State.observe (s : State) (core scope clock : Nat) : State := (s.acquire core scope).clockTo core clock

/-- A handle register becomes FULL with the status, and its team observes the completion (R393). -/
def State.fillFuture (s : State) (hart : Nat) (dreg : Option Nat) (handle : Word) (status scope clock : Nat) : State :=
  match dreg with
  | none => s
  | some r =>
    if (s.hart hart).getS r == ⟨.future, handle⟩ then
      (s.modHart hart (fun t => t.setS r (handle + BitVec.ofNat 64 (status * 2 ^ 48)))).observe (coreOf hart) scope clock
    else s

/-- Whether a status reports a failure of the kind that R402 names ASYNC: failure codes of copies and drains. -/
def AKind.fails (k : AKind) (status : Nat) : Bool :=
  match k with
  | .copy .. => status / 256 != 0
  | .drain .. => status / 256 != 0
  | _ => false

/-- Whether a team of an operation's crew waits on it at this moment (R402). -/
def State.waitedOn (s : State) (o : AOp) : Bool :=
  match s.crew? o.crew with
  | none => false
  | some c => !c.draining && c.harts.any (fun h => !(s.hart h).sched.stopped && match (s.hart h).sched.wait with
      | .future l => l.contains o.handle
      | .awaitOp v => v == o.handle
      | .tags m => (match o.tag with | some i => bit m i | none => false)
      | _ => false)

/-- COMPLETE an operation (R393): its window, its handle register, its tag; a failure that nobody waits for is reported
(R402). -/
def State.completeOp (s : State) (o : AOp) (status : Nat) : State :=
  let clock := max o.clock (s.core o.core).lamport.toNat
  let s1 := s.recordStatus o.handle.toNat status clock
  let s2 := if o.kind.fails status && !o.silent && !s.waitedOn o then
      s1.crewFault o.crew 0x20 (s.hart o.hart).place.team true (o.handle.toNat + status * 2 ^ 48) o.addr
    else s1
  let s3 := s2.fillFuture o.hart o.dreg o.handle status o.scope clock
  let s4 := match o.tag with
    | none => s3
    | some i => s3.modCrew o.crew (fun c =>
        let n := sget 0 c.tagCount i - 1
        { c with
          tagCount := sset 0 c.tagCount i n
          tagmap := if n == 0 then BitVec.ofNat 64 (putBits c.tagmap.toNat i 1 1) else c.tagmap
          tagSeen := sset 0 c.tagSeen i (max (sget 0 c.tagSeen i) (o.scope + 1)) })
  s4.modRun (fun r => { r with
    ops := r.ops.filter (fun p => p.id != o.id)
    engines := (r.engines.map (fun p => (p.1, p.2.filter (· != o.id)))).filter (fun p => !p.2.isEmpty) })

/-- Set the status of an operation whose work is done. -/
def State.opDone (s : State) (id status addr : Nat) : State :=
  s.modRun (fun r => { r with ops := updWhere (fun p => p.id == id) (fun p => { p with status := some status, addr := addr }) r.ops })

/-- Whether what a hart did before a number was given has been performed, as a release asks (R279). -/
def State.releasedBefore (s : State) (hart before : Nat) : Bool :=
  !(s.hart hart).sb.any (fun e => e.id < before) &&
  !s.mem.acks.any (fun a => a.tag == s.tagOf hart && a.id < before) && !s.earlierOut hart before

/-- Whether what the issuer did before an operation has been performed (R286). -/
def State.opReleased (s : State) (o : AOp) : Bool := s.releasedBefore o.hart o.before

/-! ### Copies (R385 to R390) -/

/-- The engine that serves a compute core (R382). -/
def copyEngine (core : Nat) : Nat := 24 * (core / 96) + 2 * (core % 96 / 8) + core % 8 % 2

/-- The coherent agent of a copy engine (R382, R449). -/
def engineAgent (e : Nat) : Nat := if e < 24 then 0 else if e < 48 then 1 else 3

/-- Bytes of a crew's scratchpad footprint (R219). -/
def Kernel.footprint (k : Kernel) : Nat := k.scratch + 16 * k.barriers

/-- Bytes of a crew's scratchpad. -/
def State.scratchRead (s : State) (key a n : Nat) : List Byte :=
  match s.crew? key with
  | some c => (List.range n).map (fun i => sget 0 c.scratch (a + i))
  | none => List.replicate n 0

/-- A number in a crew's scratchpad. -/
def State.scratchNat (s : State) (key a n : Nat) : Nat := ofBytes (s.scratchRead key a n)

/-- The conversion of a CONV code: source format and element-size code, destination format (R386). -/
def convOf : Nat → Option (Fmt × Nat × Fmt)
  | 1 => some (fmtF32, 2, fmtBF16)
  | 2 => some (fmtF32, 2, fmtF16)
  | 3 => some (fmtBF16, 1, fmtF32)
  | 4 => some (fmtF16, 1, fmtF32)
  | 5 => some (fmtF32, 2, fmtE4M3)
  | 6 => some (fmtF32, 2, fmtE5M2)
  | 7 => some (fmtE4M3, 0, fmtF32)
  | 8 => some (fmtE5M2, 0, fmtF32)
  | _ => none

/-- A copy descriptor as the form reads it (R385, R388). `kind` is 0 CPY, 1 CPYG, 2 CPYS. -/
def copyCmd (kind d : Nat) : CopyCmd :=
  let conv := bits d 328 4
  let esz := bits d 320 3
  let crnd := bits d 332 3
  let idx := bits d 352 32
  let bad := esz ≥ 5 || bits d 325 3 ≥ 5 || conv ≥ 9 || bits d 336 16 != 0 || bits d 384 128 != 0 ||
    bits d 128 32 == 0 || bits d 160 16 == 0 || bits d 176 16 == 0 ||
    (if conv == 0 then crnd != 0 else !(1 ≤ crnd && crnd ≤ 6) || (convOf conv).map (fun c => c.2.1) != some esz) ||
    (if kind == 0 then idx != 0 else idx % 4 != 0)
  { kind := kind, src := bits d 0 64, dst := bits d 64 64, xn := bits d 128 32, yn := bits d 160 16, zn := bits d 176 16,
    sys := toSigned 32 (bits d 192 32), szs := toSigned 32 (bits d 224 32), dys := toSigned 32 (bits d 256 32),
    dzs := toSigned 32 (bits d 288 32), esz := esz, ssp := bit d 323, dsp := bit d 324, scope := bits d 325 3,
    conv := conv, crnd := crnd, sat8 := bit d 335, idx := idx, bad := bad }

/-- How an element access ends: with its value, with a failure code, or by waiting; a wait for a POOL page names it, and one for a
promotion leaves the state that waits for it. -/
inductive Elem where
  | ok (v : List Byte) (s : State)
  | fail (code : Nat) (s : State)
  | wait (page : Option Nat) (s : State)

/-- A core on the die of a coherent agent, from which its accesses set out (R16, R449). -/
def agentCore : Nat → Nat
  | 0 => 0
  | 1 => 96
  | 2 => 192
  | _ => 256

/-- The failure code of a translation fault (R342, R392). -/
def faultCode (c : Nat) : Nat := if c == 5 then 1 else 2

/-- Translate an element of an operation and gain its page's ownership (R390, R429). -/
def State.elemAt (s : State) (o : AOp) (va : Nat) (write : Bool) : Except Elem (Trans × Nat × State) :=
  match s.translate o.ctx (va % 2 ^ 64) (if write then .store else .load) write with
  | (.fault c _, s1) => .error (.fail (faultCode c) s1)
  | (.hold, s1) => .error (.wait none s1)
  | (.ok t pa, s1) =>
    if selector pa ≥ 14 then .error (.fail 2 s1)
    else if t.pooled pa then
      let p := poolPage pa
      if s1.owns p then .ok (t, pa, s1)
      else if o.hold == some (holdEnded p false) || o.hold == some (holdEnded p true) then .error (.fail 11 s1)
      else
        let (ok, s2) := s1.ownStep p
        if ok then .ok (t, pa, s2) else .error (.wait (some p) s2)
    else .ok (t, pa, s1)

/-- Read an element of a global source at its coherent point, over the links of its route (R16, R390). -/
def State.elemRead (s : State) (o : AOp) (agent va n : Nat) : Elem :=
  match s.elemAt o va false with
  | .error e => e
  | .ok (t, pa, s1) =>
    if !s1.routeOpen (agentCore agent) pa then .wait none s
    else
      let (s2, ok) := s1.cohTouch agent o.guest false (pa / 128) false (t.shr || t.pcls == 3)
      if !ok then .fail 6 s2
      else
        let (bs, bad) := s2.cohPeek pa n
        if bad then .fail 5 s2 else .ok bs s2

/-- Write an element of a global destination at its coherent point, over the links of its route, as software of the issuer's mode does
(R6, R16, R312, R390). -/
def State.elemWrite (s : State) (o : AOp) (agent va : Nat) (bs : List Byte) : Elem :=
  match s.elemAt o va true with
  | .error e => e
  | .ok (t, pa, s1) =>
    if t.pcls == 3 then .fail 3 s1
    else if (s1.cursorMig pa).isSome || !s1.routeOpen (agentCore agent) pa then .wait none s
    else
      let (s2, ok) := s1.cohTouch agent o.guest false (pa / 128) true t.shr
      if !ok then .fail 6 s2 else .ok [] (s2.cohPoke noHart (s2.guarded o.mode (placed pa bs)) [])

/-- Read an element of either side (R389, R390, R392). -/
def State.copyRead (s : State) (o : AOp) (agent : Nat) (k : Kernel) (scr : Bool) (a n : Nat) : Elem :=
  if a % n != 0 then .fail 8 s
  else if scr then
    if k.footprint < a % 2 ^ 64 + n then .fail 7 s
    else if ((s.crew? o.crew).map (fun c => c.smarks.contains (a / 32))).getD false then .fail 5 s
    else .ok (s.scratchRead o.crew a n) s
  else s.elemRead o agent a n

/-- Write an element of either side. -/
def State.copyWrite (s : State) (o : AOp) (agent : Nat) (k : Kernel) (scr : Bool) (a : Nat) (bs : List Byte) : Elem :=
  if a % bs.length != 0 then .fail 8 s
  else if scr then
    if k.footprint < a % 2 ^ 64 + bs.length then .fail 7 s else .ok [] (s.scratchPut o.crew (placed a bs) [])
  else s.elemWrite o agent a bs

/-- The bytes an element is written as, and the flags of its conversion (R386). -/
def CopyCmd.conv_ (c : CopyCmd) (bs : List Byte) : List Byte × Flags :=
  match convOf c.conv with
  | none => (bs, 0)
  | some (f, _, g) =>
    let r := g.convert ⟨c.crnd, false, false, c.sat8, false⟩ (f.value (ofBytes bs))
    (toBytes (g.width / 8) r.1, r.2)

/-- Size of a destination element (R386). -/
def CopyCmd.dstSize (c : CopyCmd) : Nat := match convOf c.conv with | some (_, _, g) => g.width / 8 | none => 2 ^ c.esz

/-- How a run of elements ends. -/
inductive CopyEnd where
  | done (fl : Flags) (s : State)
  | fail (code addr : Nat) (fl : Flags) (s : State)
  | wait (page : Option Nat) (s : State)

/-- The row that an index array gives for a row number, read once for the row's elements; none beyond the footprint (R389). -/
def State.copyRow (s : State) (o : AOp) (k : Kernel) (c : CopyCmd) (j : Nat) : Option Int :=
  if c.kind == 0 then some (j % c.yn : Nat)
  else if k.footprint < c.idx + 4 * j + 4 then none
  else some (s.scratchNat o.crew (c.idx + 4 * j) 4 : Nat)

/-- One element of a copy, by its place in the order of R389, in a row whose index entry has been read. -/
def State.copyElem (s : State) (o : AOp) (agent : Nat) (k : Kernel) (c : CopyCmd) (i : Nat) (entry : Option Int) (fl : Flags) :
    CopyEnd :=
  let x := i % c.xn
  let y := i / c.xn % c.yn
  let z := i / (c.xn * c.yn)
  match entry with
  | none => .fail 7 (c.idx + 4 * (z * c.yn + y)) fl s
  | some row =>
    let e : Nat := 2 ^ c.esz
    let sy : Int := if c.kind == 1 then row else y
    let dy : Int := if c.kind == 2 then row else y
    let sa := wrap 64 (c.src + z * c.szs + sy * c.sys + x * e)
    let da := wrap 64 (c.dst + z * c.dzs + dy * c.dys + x * c.dstSize)
    match s.copyRead o agent k c.ssp sa e with
    | .fail code s1 => .fail code sa fl s1
    | .wait p st => .wait p st
    | .ok bs s1 =>
      let (w, f) := c.conv_ bs
      match s1.copyWrite o agent k c.dsp da w with
      | .fail code s2 => .fail code da (fl ||| f) s2
      | .wait p st => .wait p st
      | .ok _ s2 => .done (fl ||| f) s2

/-- The elements of a copy from one place on: a failure stops it with every earlier element written (R389, R390). The first
element of a row reads the row's index entry. -/
def State.copyFrom (o : AOp) (agent : Nat) (k : Kernel) (c : CopyCmd) : Nat → Nat → Option Int → Flags → State → CopyEnd
  | 0, _, _, fl, s => .done fl s
  | n + 1, i, entry, fl, s =>
    let entry' := if i % c.xn == 0 then s.copyRow o k c (i / c.xn) else entry
    match s.copyElem o agent k c i entry' fl with
    | .done fl' s' => State.copyFrom o agent k c n (i + 1) entry' fl' s'
    | r => r

/-- A copy form (R387, R388): its descriptor is read at issue. -/
def copyForm (o : Op) (kind : Nat) (x : Args) (s : State) : Out :=
  memIssue o x s (fun s1 =>
    let t := s1.now
    let k := s1.kernelOf s1.cur
    let off := match x.a with | .spa n => n.toNat * 16 | _ => s1.scalar x.a
    let tag := match x.b with | .tag n => n.toNat | _ => 0
    let e := copyEngine (coreOf s1.cur)
    if off % 64 != 0 then s1.raise 7 off 64 1
    else if k.scratch < off + 64 then
      (match x.a with
       | .spa _ => s1.raise 0x17 0 (operandReport s1.cur 2 x.a) 0
       | _ => s1.raise 8 (max off k.scratch % 2 ^ 63 + 2 ^ 63) 0 1)
    else if (sget [] s1.run.engines e).length ≥ 64 then s1.block .form
    else if ((s1.crewOf s1.cur).map (fun c => sget 0 c.tagCount tag)).getD 0 ≥ 64 then s1.block .form
    else
      let c := copyCmd kind (s1.scratchNat t.place.crewKey off 64)
      let (id, s2) := s1.startOp (.copy e c) 0 e x.d (some tag) (if c.scope ≤ 4 then c.scope else 0)
      (s2.modRun (fun r => { r with engines := sset [] r.engines e (sget [] r.engines e ++ [id]) })).done)

/-- CPY (R387). -/
def execCpy (x : Args) (s : State) : Out := copyForm .cpy 0 x s

/-- CPYG (R387). -/
def execCpyg (x : Args) (s : State) : Out := copyForm .cpyg 1 x s

/-- CPYS (R387). -/
def execCpys (x : Args) (s : State) : Out := copyForm .cpys 2 x s

/-- The operation of a number. -/
def State.op? (s : State) (id : Nat) : Option AOp := s.run.ops.find? (fun o => o.id == id)

/-- COPY_COMMAND_START: an engine performs the elements of its next command, once the release of R286 holds. A
cancellation that has come before takes effect here (R397). -/
def execCopyCommandStart (engine : Nat) (s : State) : Out :=
  match (sget [] s.run.engines engine).findSome? (fun id => (s.op? id).filter (fun o => o.status.isNone)) with
  | none => .next s
  | some o =>
    match o.kind with
    | .copy _ c =>
      if !s.opReleased o then .next s
      else if o.cancelled then .next (s.opDone o.id (9 * 256) 0)
      else if c.bad then .next (s.opDone o.id (10 * 256) 0)
      else if o.scope ≥ 2 && s.backWaits o.core (fun _ => true) then .next s
      else
        let k := ((s.crew? o.crew).map Crew.kernel).getD Kernel.none
        let s1 := s.release o.core o.scope
        match State.copyFrom o (engineAgent engine) k c (c.xn * c.yn * c.zn) 0 none 0 s1 with
        | .done fl s2 => .next (s2.opDone o.id fl.toNat 0)
        | .fail code a fl s2 => .next (s2.opDone o.id (fl.toNat + code * 256) a)
        | .wait none st => .next (s.keepPromos st)
        | .wait (some p) _ =>
          .next ((s.ownStep p).2.modRun (fun r => { r with
            ops := updWhere (fun q => q.id == o.id) (fun q => { q with hold := some p }) r.ops }))
    | _ => .next s

end Sys2Proof.Machine
end

