-- ==== Sys2Proof/Machine/Launch.lean ====
section
/-! DEFINITION. Launch queues and records, LNCH, region control blocks with their effective values, kernel headers and
patches, and the start of a record (16_launch R360 to R369; 02_encoding R40 to R42; 03_assembly R57 to R60). -/
namespace Sys2Proof.Machine

/-- A number in memory as the hub reads it: what agents hold of it as partials is merged in (R268). -/
def State.peekNat (s : State) (pa n : Nat) : Nat :=
  ofBytes ((s.mergeLines (pa / 128) ((pa % 128 + n + 127) / 128)).cohPeek pa n).1

/-- Write a number to memory as the hub does, at its home (R449). -/
def State.hubPoke (s : State) (pa n v : Nat) : State := s.homeWrite pa n v

/-! ### Launch queues (R360) -/

/-- The address of a queue's descriptor, modulo 2^64. -/
def State.lqDesc (s : State) (q : Nat) : Nat := (s.pkg.sys.lqt + 32 * q) % 2 ^ 64

/-- A field of a queue's descriptor. -/
def State.lqField (s : State) (q lo w : Nat) : Nat := bits (s.peekNat (s.lqDesc q) 32) lo w

/-- GUEST of a queue. -/
def State.lqGuest (s : State) (q : Nat) : Nat := s.lqField q 1 6

/-- The address of the ring slot of a record number. -/
def State.lqSlot (s : State) (q n : Nat) : Nat := s.lqField q 64 52 + 64 * (n % 2 ^ s.lqField q 8 4)

/-- Whether a queue's ring is full. -/
def State.lqFull (s : State) (q : Nat) : Bool :=
  (s.lqField q 224 32 + 2 ^ 32 - s.lqField q 192 32) % 2 ^ 32 ≥ 2 ^ s.lqField q 8 4

/-- The number and the 64 bytes of a queue's head record, when its ring holds one. -/
def State.lqHead (s : State) (q : Nat) : Option (Nat × Nat) :=
  let head := s.lqField q 192 32
  if q ≥ 1024 || s.lqField q 0 1 == 0 || head == s.lqField q 224 32 then none
  else some (head, s.peekNat (s.lqSlot q head) 64)

/-- The handle of a launch (R391). -/
def launchHandle (q n : Nat) : Nat := q % 64 * 2 ^ 6 + 3 * 2 ^ 12 + n % 2 ^ 28 * 2 ^ 16 + q / 64 * 2 ^ 44

/-- Append a record to a queue whose ring has room: the record, TAIL, the handle's number and the future of the running
hart (R361, R366). The window records the queue's guest. -/
def State.appendRecord (s : State) (q v : Nat) (d : Operand) : State :=
  let t := s.now
  let n := s.lqField q 224 32
  let g := s.lqGuest q
  let h := launchHandle q n
  let s1 := s.cohPoke s.cur (placed (s.lqSlot q n) (toBytes 64 (putBits v 243 1 (b2n (modeRank t.mode ≥ 1))))) []
  let s2 := s1.hubPoke (s1.lqDesc q + 28) 4 ((n + 1) % 2 ^ 32)
  let a := agentKey 3 0 0 q
  let s3 := ((s2.modWindow a (fun w => { w with cur := (n + 2 ^ 28 - 1) % 2 ^ 28 })).number a 28 g 4).2
  let (id, s4) := s3.fresh
  let wait : LaunchWait :=
    { id := id, queue := q, number := n, handle := h, hart := s.cur, dreg := futureReg d, cancelled := false,
      clock := (s.core (coreOf s.cur)).lamport.toNat }
  (s4.modNow (fun u => u.awaitFuture d (BitVec.ofNat 64 h))).modRun (fun r => { r with waits := r.waits ++ [wait] })

/-- LNCH (R366): the source is read as weak loads, then the queue is checked, then the form waits for room and for what
its release waits for (R292). -/
def execLnch (x : Args) (s : State) : Out :=
  memIssue .lnch x s (fun s1 =>
    let h := s1.cur
    let t := s1.now
    let q := s1.scalar x.b
    match s1.checkAll ⟨0, 64, .load, true, false, .read⟩ [(0, s1.scalar x.a)] with
    | .out o => o
    | .ok refs s2 =>
      if q ≥ 1024 || s2.lqField q 0 1 == 0 || (modeRank t.mode < 2 && s2.lqGuest q != t.guest) then
        s1.raise 6 (s1.lqDesc q) 2 1
      else if s2.lqFull q then s1.block .form
      else if !t.sb.isEmpty || t.uasc != 0 || s1.earlierOut h s1.nextId then s1.block .form
      else if s1.backWaits (coreOf h) (fun _ => true) then s1.block .form
      else
        let pa := (refs.map LaneRef.pa).headD 0
        let va := (refs.map LaneRef.va).headD 0
        let read (st : State) (a : Nat) : List Byte × Bool × State :=
          st.weakRead (coreOf h) t.guest (t.mode == .fw) (refs.any LaneRef.nc) (refs.any LaneRef.uncached) false false a 32
        let (b0, _, s3) := read s2 pa
        let (b1, _, s4) := read s3 (pa + 32)
        if s4.rejCount != s2.rejCount then s4.raise 0x14 va 0 1
        else ((s4.release (coreOf h) 4).appendRecord q (ofBytes (b0 ++ b1)) x.d).done)

/-! ### Region control blocks (R363, R364) -/

/-- The launch unit has read an RCB, and keeps its HW fields from then on (R6, R363). -/
def State.noteRcb (s : State) (cx : XCtx) (va : Nat) : State :=
  match (s.translate cx va .load false).1 with
  | .ok _ pa => s.modRun (fun r => { r with rcbs := noted pa r.rcbs })
  | _ => s

/-- The state in which an RCB of a path is waited for, because its page lies in the PARK store or another package owns it (R425, R429). -/
def State.pathGate (s : State) (cx : XCtx) : Nat → Nat → Option State
  | 0, _ => none
  | n + 1, va =>
    if va % 256 != 0 then none
    else match s.virtHeld cx [(va, 256)] with
      | some st => some st
      | none =>
        match (s.readVirt cx va 256).map (fun p => bits (ofBytes p.1) 64 64) with
        | some (p + 1) => State.pathGate s cx n (p + 1)
        | _ => none

/-- The RCBs of a path from the named one upward, each with its address and, when it can be read, its 256 bytes. -/
def State.rcbPath (s : State) (cx : XCtx) : Nat → Nat → List (Nat × Option Nat) × State
  | 0, _ => ([], s)
  | n + 1, va =>
    if va % 256 != 0 then ([(va, none)], s)
    else match s.readVirt cx va 256 with
      | none => ([(va, none)], s)
      | some (b, s0) =>
        let x := ofBytes b
        let s1 := s0.noteRcb cx va
        if bits x 64 64 == 0 then ([(va, some x)], s1)
        else
          let (r, s2) := State.rcbPath s1 cx n (bits x 64 64)
          ((va, some x) :: r, s2)

/-- Whether a ladder's valid rungs are contiguous from rung 0 and its reserved bits 0 (R376). -/
def ladderOk (l : Nat) : Bool :=
  (List.range 4).all (fun i => !bit l (32 * i + 3) && (i == 0 || !bit l (32 * i + 2) || bit l (32 * i - 30)))

/-- Whether an RCB is valid, its reserved bits are 0 and its fields are in range (R363, R365). -/
def rcbOk (x : Nat) : Bool :=
  let within (lo w a b : Nat) : Bool := decide (a ≤ bits x lo w) && decide (bits x lo w ≤ b)
  bit x 0 && !bit x 7 && bits x 22 2 == 0 && bits x 40 24 == 0 && bits x 168 8 == 0 && bits x 217 7 == 0 &&
  bits x 292 28 == 0 && bits x 416 32 == 0 && bits x 725 43 == 0 && bits x 960 1088 == 0 &&
  within 8 8 1 255 && within 128 8 1 192 && within 136 8 0 16 && within 144 8 0 32 && within 152 8 0 96 &&
  within 160 8 0 64 && within 176 16 0 2048 && within 192 16 0 1024 && within 208 9 16 256 && within 288 4 4 15 &&
  bits x 320 64 % 64 == 0 && bits x 384 32 % 64 == 0 && bits x 448 64 % 4096 == 0 && bits x 512 64 % 8 == 0 &&
  ladderOk (bits x 576 128)

/-- The values an RCB gives by itself; they are effective at a root (R364). -/
def Eff.own (x : Nat) : Eff :=
  { prio := bits x 4 2, weight := bits x 8 8, cores := bits x 128 8, accb := bits x 136 8, chkb := bits x 144 8
    barb := bits x 152 8, tagb := bits x 160 8, vub := bits x 176 16, scrb := bits x 192 16, fdom := bits x 24 8
    frq := bits x 224 64, frqlg := bits x 288 4, save := bits x 320 64, savestr := bits x 384 32
    ladder := bits x 576 128, wakew := bits x 512 64, seq := bits x 704 20, seqv := bit x 724
    parena := bits x 448 64, sslimit := bits x 208 9, guest := bits x 16 6, retire := bit x 6, path := [], budgets := [] }

/-- The effective budget of an RCB. -/
def Eff.budget (e : Eff) : List Nat := [e.cores, e.accb, e.chkb, e.barb, e.tagb, e.vub, e.scrb]

/-- The effective values of a child under those of its parent (R364). -/
def Eff.child (p : Eff) (x : Nat) : Eff :=
  let o := Eff.own x
  let v (i : Nat) : Bool := bit x (32 + i)
  let b (own par : Nat) : Nat := if v 2 then min own par else par
  { prio := if v 0 then min o.prio p.prio else p.prio, weight := if v 1 then o.weight else p.weight
    cores := b o.cores p.cores, accb := b o.accb p.accb, chkb := b o.chkb p.chkb, barb := b o.barb p.barb
    tagb := b o.tagb p.tagb, vub := b o.vub p.vub, scrb := b o.scrb p.scrb, fdom := if v 3 then o.fdom else p.fdom
    frq := if v 4 then o.frq else p.frq, frqlg := if v 4 then o.frqlg else p.frqlg
    save := if v 5 then o.save else p.save, savestr := if v 5 then o.savestr else p.savestr
    ladder := if v 6 then o.ladder else p.ladder, wakew := if v 6 then o.wakew else p.wakew
    seq := if v 6 then o.seq else p.seq, seqv := if v 6 then o.seqv else p.seqv
    parena := if v 7 then o.parena else p.parena, sslimit := if v 7 then o.sslimit else p.sslimit
    guest := p.guest, retire := o.retire, path := p.path, budgets := p.budgets }

/-- The effective values of the first RCB of a path that ends at a root (R364); budgets stand beside the keys of the
RCBs they bind. -/
def effOf (guest : Nat) : List (Nat × Nat) → Option Eff
  | [] => none
  | (va, x) :: r =>
    let e := match effOf guest r with | none => Eff.own x | some p => p.child x
    some { e with path := e.path ++ [guest * 2 ^ 64 + va], budgets := e.budgets ++ [e.budget] }

/-- The RCBs of a path whose bytes could be read. -/
def pathRead (p : List (Nat × Option Nat)) : List (Nat × Nat) := p.filterMap (fun q => q.2.map (fun x => (q.1, x)))

/-- Whether an RCB on a path cannot carry a launch: the second case of R367. -/
def pathUnfit (p : List (Nat × Option Nat)) : Bool :=
  (p.take 8).any (fun q => match q.2 with
    | none => true
    | some x => !bit x 0 || bits x 1 3 == 6 || bits x 1 3 == 7)

/-- Whether a path holds an RCB that a device-level fault made FAULTED, so that its unplaced records are held (R214). -/
def State.pathHeld (s : State) (cx : XCtx) (p : List (Nat × Option Nat)) : Bool :=
  (p.take 8).any (fun q => (q.2.map (fun x => bits x 1 3 == 6)).getD false &&
    (match (s.translate cx q.1 .load false).1 with
     | .ok _ pa => s.run.devFaults.contains pa
     | _ => false))

/-- Whether a path breaks R365, but for the wake word and the guest context entry. -/
def pathBad (root guest : Nat) (p : List (Nat × Option Nat)) : Bool :=
  p.length > 8 || p.any (fun q => match q.2 with
    | none => true
    | some x => !rcbOk x || bits x 16 6 != guest) ||
  !p.any (fun q => q.1 == root) ||
  (match (pathRead p).head? with | some q => bits q.2 1 3 == 6 || bits q.2 1 3 == 7 | none => true)

/-- Whether a wake word is 0 or lies in a frame homed by HA-L or HA-P (R365). -/
def State.wakeOk (s : State) (cx : XCtx) (w : Nat) : Bool :=
  w == 0 || (match (s.translate cx w .load false).1 with
    | .ok _ pa => decide (1 ≤ tierOf pa) && (homeOf pa).isSome
    | _ => false)

/-- Whether the guest context entry of a guest is valid, with its reserved bits 0 (R484). -/
def State.gctOk (s : State) (g : Nat) : Bool := s.peekNat (s.gct g + 32) 32 == 1

/-! ### Kernel headers and patches (R40, R41, R57 to R59) -/

/-- The header fields that the launch unit holds. -/
def kernelAt (base x : Nat) : Kernel :=
  ⟨base, bits x 48 16, bits x 64 8, bits x 72 8, bits x 80 8, bits x 96 16, bits x 112 16, bits x 128 32, bits x 160 8,
    bits x 168 8, bits x 176 8, bits x 184 8, bits x 192 32, bits x 224 32, bits x 256 32, bits x 288 32, bits x 320 32,
    bits x 352 32⟩

/-- The checks of R59 on a header. -/
def headerOk (base x : Nat) : Bool :=
  let k := kernelAt base x
  let pt := bits x 416 8
  base % 256 == 0 && bits x 0 32 == 0x4C59534B && bits x 32 16 == 1 &&
  (k.width == 1 || (32 ≤ k.width && k.width ≤ 1024 && k.width % 32 == 0)) &&
  1 ≤ k.crew && k.crew ≤ 16 && (k.width != 1 || k.crew == 1) && 1 ≤ k.psreg && k.psreg ≤ k.fsreg && k.fsreg ≤ 128 &&
  bits x 88 8 == 0 && k.pvreg ≤ k.fvreg && k.fvreg ≤ 256 && k.scratch % 16 == 0 && k.scratch ≤ 1048576 &&
  k.acc ≤ 16 && k.chucks ≤ 32 && k.barriers ≤ 96 && k.tags ≤ 64 && 1 ≤ k.codeLen && k.codeLen ≤ 1048576 &&
  k.entry < k.codeLen && k.preempt < k.codeLen && k.resume < k.codeLen && k.paramSz ≤ 65536 && pt ≤ 64 &&
  bits x 424 1624 == 0 && bits x 384 32 == (if pt == 0 then 0 else roundUp (256 + 12 * k.codeLen) 8) &&
  (k.width != 1 || (k.scratch == 0 && k.acc == 0 && k.chucks == 0 && k.barriers == 0 && k.tags == 0))

/-- Bytes of the value of a patch by its WCODE, and whether it is signed (R40). -/
def patchWidth : Nat → Option (Nat × Bool)
  | 0 => some (1, false) | 1 => some (1, true) | 2 => some (2, false) | 3 => some (2, true)
  | 4 => some (4, false) | 5 => some (4, true) | 6 => some (8, true) | _ => none

/-- Whether a value fits the operand that a patch of a word names (R41): field 0 D, 1 A, 2 B, 3 WIDE. The top four bits of B are
read as its kind where A is WIDE too: the spec does not say whether B has one there, and it is the model's choice (log entry 79). -/
def patchFits (word field : Nat) (v : Int) : Bool :=
  let kind (f : Nat) : Nat := bits word (48 + 20 * f) 4
  if field == 3 then kind 1 == 15 && decide (-(2 ^ 35 : Int) ≤ v) && decide (v < 2 ^ 35)
  else (kind field == 5 && decide (-32768 ≤ v) && decide (v ≤ 32767)) ||
    (kind field == 10 && decide (0 ≤ v) && decide (v ≤ 65535))

/-- One patch record of a kernel, checked and its value read (R41); none where the launch is refused. -/
def State.patchValue (s : State) (cx : XCtx) (k : Kernel) (params r : Nat) : Option (Nat × Nat × Int) :=
  let idx := bits r 0 20
  let field := bits r 20 2
  let poff := bits r 22 16
  match patchWidth (bits r 38 4) with
  | none => none
  | some (n, signed) =>
    if bits r 42 22 != 0 || poff % n != 0 || k.paramSz < poff + n || k.codeLen ≤ idx then none
    else match s.readVirt cx (params + poff) n, s.readVirt cx (k.base + 256 + 12 * idx) 12 with
      | some (vb, _), some (wb, _) =>
        let v : Int := if signed then toSigned (8 * n) (ofBytes vb) else ofBytes vb
        let w := ofBytes wb
        if bits w 0 10 == 0x144 || !patchFits w field v then none else some (idx, field, v)
      | _, _ => none

/-- Whether patch records stand in ascending order of instruction and field, none twice (R41, R58). -/
def patchOrder : List (Nat × Nat × Int) → Bool
  | a :: b :: r => decide (a.1 * 4 + a.2.1 < b.1 * 4 + b.2.1) && patchOrder (b :: r)
  | _ => true

/-- All patches of a kernel (R41). -/
def State.patchTable (s : State) (cx : XCtx) (k : Kernel) (header params : Nat) : Option (List (Nat × Nat × Int)) :=
  match s.readVirt cx (k.base + bits header 384 32) (8 * bits header 416 8) with
  | none => if bits header 416 8 == 0 then some [] else none
  | some (tb, _) =>
    let rs := (List.range (bits header 416 8)).map (fun j => s.patchValue cx k params (bits (ofBytes tb) (64 * j) 64))
    if rs.all Option.isSome && patchOrder (rs.filterMap id) then some (rs.filterMap id) else none

/-- Vector units of a crew's full allotment on its busiest pipe (R369). -/
def Kernel.busiest (k : Kernel) : Nat := ceilDiv k.crew 4 * k.fvreg * k.width / 32

/-- BUDGET: a crew exceeds its effective budget on an empty core (R362, R369). -/
def Kernel.overBudget (k : Kernel) (e : Eff) : Bool :=
  k.width != 1 && (e.accb < k.acc || e.chkb < k.chucks || e.barb < k.barriers || e.tagb < k.tags ||
    e.vub < k.busiest || e.scrb * 1024 < k.footprint)

/-- CAPACITY: a crew cannot be admitted to an empty, unfenced core or thread (R64, R219, R369). -/
def State.overCapacity (s : State) (k : Kernel) : Bool :=
  if k.width == 1 then s.run.distThreads.all (fun h => (s.core (coreOf h)).fenced)
  else decide (2048 < k.busiest) || decide (1048576 < k.footprint) || (List.range 192).all (fun c => (s.core c).fenced)

/-! ### The first placement and the start of a record (R362, R367) -/

/-- The ranges that the patch records of a kernel read: their parameters and the instructions they change (R41). -/
def patchRanges (k : Kernel) (params : Nat) (table : List Byte) : List (Nat × Nat) :=
  ((List.range (table.length / 8)).map (fun j =>
    let r := bits (ofBytes table) (64 * j) 64
    match patchWidth (bits r 38 4) with
    | none => []
    | some (n, _) => [(params + bits r 22 16, n), (k.base + 256 + 12 * bits r 0 20, 12)])).flatten

/-- The state in which the first placement of a launch waits for a page that it reads: of its RCBs, the wake word, the header, the patch
records and what they name, each where the checks before it pass (R59, R425, R429). -/
def State.firstGate (s : State) (l : Launch) : Option State :=
  let cx := s.guestCtx l.guest
  let path := (s.rcbPath cx 9 l.rcb).1
  if l.bad then none
  else (s.pathGate cx 9 l.rcb).orElse fun _ =>
    match effOf l.guest (pathRead path) with
    | none => none
    | some e => (if e.wakew == 0 then none else s.virtHeld cx [(e.wakew, 8)]).orElse fun _ =>
      if pathBad (s.lqField l.queue 128 64) l.guest path || !s.wakeOk cx e.wakew || !s.gctOk l.guest || l.depFailed then none
      else (s.virtHeld cx [(l.kobj, 256)]).orElse fun _ =>
        match (s.readVirt cx l.kobj 256).map (fun p => ofBytes p.1) with
        | none => none
        | some x =>
          let at_ := l.kobj + bits x 384 32
          if !headerOk l.kobj x || bits x 416 8 == 0 then none
          else (s.virtHeld cx [(at_, 8 * bits x 416 8)]).orElse fun _ =>
            (s.readVirt cx at_ (8 * bits x 416 8)).bind (fun p => s.virtHeld cx (patchRanges (kernelAt l.kobj x) l.params p.1))

/-- The statuses of the first placement in their order 6, 5, 7, 1, 2, 4, 3; 0 when the launch may run, with the effective
values, header and patches it then holds. -/
def State.firstCheck (s : State) (l : Launch) : Nat × Launch × State :=
  let cx := s.guestCtx l.guest
  if l.bad then (6, l, s)
  else
    let (p, s1) := s.rcbPath cx 9 l.rcb
    match effOf l.guest (pathRead p) with
    | none => (5, l, s1)
    | some e =>
      if pathBad (s.lqField l.queue 128 64) l.guest p || !s.wakeOk cx e.wakew || !s.gctOk l.guest then (5, l, s1)
      else if l.depFailed then (7, l, s1)
      else match s1.readVirt cx l.kobj 256 with
        | none => (1, l, s1)
        | some (hb, s2) =>
          let x := ofBytes hb
          let k := kernelAt l.kobj x
          if !headerOk l.kobj x then (1, l, s2)
          else match s2.patchTable cx k x l.params with
            | none => (2, l, s2)
            | some ps =>
              if k.overBudget e then (4, l, s2)
              else if s2.overCapacity k then (3, l, s2)
              else (0, { l with eff := some e, kernel := some k, patches := ps, first := true }, s2)

/-- Whether a launch of a queue has started and has crews still to place, so that its queue's next record waits
(R367). -/
def State.placing (s : State) (q : Nat) : Bool :=
  s.run.launches.any (fun l => l.queue == q && !l.ended && l.next < l.gx * l.gy * l.gz)

/-- Crews of a launch's grid. -/
def Launch.total (l : Launch) : Nat := l.gx * l.gy * l.gz

/-- RECORD-BAD of a record (R362). -/
def recordBad (v : Nat) : Bool :=
  let gx := bits v 192 16
  let gy := bits v 208 16
  let gz := bits v 224 16
  bits v 244 12 != 0 || bits v 384 128 != 0 || gx * gy * gz == 0 || decide (2 ^ 31 < gx * gy * gz) ||
  bits v 0 64 % 256 != 0 || bits v 64 64 % 8 != 0

/-- How a record's dependences stand: none while one is pending, else whether one failed (R361, R367). -/
def State.depsOf (s : State) (guest v : Nat) : Option Bool :=
  let js := ([(241, 256), (242, 320)].filter (fun p => bit v p.1)).map (fun p => s.judge guest .user (bits v p.2 64))
  if js.contains .pending then none else some (js.any (fun j => j != .complete 0))

/-- How the head record of a queue may start (R367). -/
inductive Start where
  | no
  | drop
  | unfit
  | go (depFailed : Bool) (path : List (Nat × Option Nat))
  deriving DecidableEq, Repr

/-- Whether, and in which case, the head record of a queue may start. -/
def State.startOf (s : State) (q : Nat) : Start :=
  match s.lqHead q with
  | none => .no
  | some (n, v) =>
    if s.placing q then .no
    else if s.run.waits.any (fun w => w.queue == q && w.number == n && w.cancelled) then
      (if s.run.waits.any (fun w => w.queue == q && w.number == n && s.run.pending.any (fun p => p.1 == w.id)) then .no else .drop)
    else
      let g := s.lqGuest q
      match s.depsOf g v with
      | none => .no
      | some failed =>
        let p := (s.rcbPath (s.guestCtx g) 9 (bits v 128 64)).1
        if (s.pathGate (s.guestCtx g) 9 (bits v 128 64)).isSome then .no
        else if s.pathHeld (s.guestCtx g) p then .no
        else if pathUnfit p then .unfit
        else match (pathRead p).head? with
          | some (_, x) => if bits x 1 3 == 0 then .go failed p else .no
          | none => .no

/-- LAUNCH_RECORD_START: HEAD passes the head record of a queue; in the first case its RCB becomes READY and names the
launch, in the second the record is refused with RCB-BAD and no RCB changes (R367, R379). A record whose RCBs cannot be read yet waits
for them (R425, R429). -/
def execLaunchRecordStart (queue : Nat) (s : State) : Out :=
  if s.quiesced then .next s else
  match s.lqHead queue with
  | none => .next s
  | some (n, v) =>
    let pass (st : State) : State := st.hubPoke (st.lqDesc queue + 24) 4 ((n + 1) % 2 ^ 32)
    let g := s.lqGuest queue
    let (id, s0) := match s.run.waits.find? (fun w => w.queue == queue && w.number == n) with
      | some w => (w.id, s)
      | none => s.fresh
    let handle := launchHandle queue n
    match s.startOf queue with
    | .no => .next ((s.pathGate (s.guestCtx g) 9 (bits v 128 64)).getD s)
    | .drop => .next ((pass s0).modRun (fun r => { r with waits := r.waits.filter (fun w => w.id != id) }))
    | .unfit => .next ((pass s0).modRun (fun r => { r with pending := r.pending ++ [(id, 5, handle)] }))
    | .go failed path =>
      let rcb := bits v 128 64
      let cx := s.guestCtx g
      let pa := match (s.translate cx rcb .load false).1 with | .ok _ a => a | _ => 0
      let l : Launch :=
        { id := id, queue := queue, number := n, kobj := bits v 0 64, params := bits v 64 64, rcb := rcb, rcbPa := pa
          gx := bits v 192 16, gy := bits v 208 16, gz := bits v 224 16, restart := bit v 240, gmode := bit v 243
          bad := recordBad v, depFailed := failed, guest := g, eff := effOf g (pathRead path), kernel := none
          patches := [], next := 0, saved := [], retired := 0, first := false, wakes := []
          since := s.cycles.toNat, ended := false, handle := handle, s1ptb := 0, s2ptb := 0, die := 0
          clock := ((s.run.waits.find? (fun w => w.id == id)).map LaunchWait.clock).getD 0, endClock := 0, exits := [], sinces := [] }
      -- a record whose grid is empty is still to be placed once, to be refused
      let l' : Launch := if l.gx * l.gy * l.gz == 0 then { l with gx := 1, gy := 1, gz := 1 } else l
      let s1 := (pass (s0.rcbPath cx 9 rcb).2).modRun (fun r => { r with launches := r.launches ++ [l'] })
      .next ((s1.setRcb id 1).hubPoke (s1.rcbAt l' 112) 8 handle)

/-! ### The queue mapper (R368) -/

/-- Whether a queue is pending (R368). -/
def State.pendingQueue (s : State) (q : Nat) : Bool := s.placing q || s.startOf q != .no

/-- Effective PRIO of the RCB that a queue's head launch or record names. -/
def State.queuePrio (s : State) (q : Nat) : Nat :=
  match s.run.launches.find? (fun l => l.queue == q && !l.ended && l.next < l.gx * l.gy * l.gz) with
  | some l => (l.eff.map Eff.prio).getD 0
  | none =>
    match s.lqHead q with
    | some (_, v) =>
      let g := s.lqGuest q
      ((effOf g (pathRead (s.rcbPath (s.guestCtx g) 9 (bits v 128 64)).1)).map Eff.prio).getD 0
    | none => 0

/-- Whether a slot holds a queue. -/
def State.bound (s : State) (q : Nat) : Bool := s.run.slots.any (fun p => p.2 == q + 1)

/-- Slots release the queues that are no longer pending (R368). -/
def State.trimSlots (s : State) : State :=
  s.modRun (fun r => { r with slots := r.slots.filter (fun p => s.pendingQueue (p.2 - 1)) })

/-- The queue that a free slot binds next: the highest class, then the lowest number above the queue bound last. -/
def State.nextQueue (s : State) : Option Nat :=
  let qs := (List.range 1024).filter (fun q => s.pendingQueue q && !s.bound q)
  leastBy (fun q => (3 - min 3 (s.queuePrio q)) * 1024 + (q + 1023 - s.run.lastBound) % 1024) qs

/-- Whether a slot holds a queue that is no longer pending (R368). -/
def State.staleSlot (s : State) : Bool := s.run.slots.any (fun p => !s.pendingQueue (p.2 - 1))

/-- QUEUE_BINDING: slots release what is no longer pending, and a free slot binds a pending queue, whose turn is a new one (R368). -/
def execQueueBinding (slot : Nat) (s : State) : Out :=
  let s1 := s.trimSlots
  if s.quiesced || slot ≥ 32 || sget 0 s1.run.slots slot != 0 then .next s1
  else match s1.nextQueue with
    | none => .next s1
    | some q => .next (s1.modRun (fun r => { r with
        slots := sset 0 r.slots slot (q + 1), lastBound := q, turnLeft := if r.served == slot then 0 else r.turnLeft }))

end Sys2Proof.Machine
end

