-- ==== Sys2Proof/Machine/Placement.lean ====
section
/-! DEFINITION. Placement forms and migration: TLBI, PIN, UNPIN, HINT, OWNR, MIGR, the checks of a move, and how a
migration runs, aborts and commits (18_translation R411 to R426, R430; 13_keeping R319, R320). -/
namespace Sys2Proof.Machine

/-! ### TLBI (R411) -/

/-- Whether a core lies in the part of the machine that a scope gives another (R278). -/
def sameInstance (core scope c : Nat) : Bool :=
  let kind (n : Nat) : Nat := if n < 192 then 0 else if n < 256 then 1 else 2
  if scope ≥ 3 then true
  else if scope == 2 then kind core == kind c && (core ≥ 192 || dieOf core == dieOf c)
  else if scope == 1 && core < 192 then kind c == 0 && clusterOf core == clusterOf c
  else core == c

/-- The translation caches that serve a core of that part of the machine (R410, R411). -/
def scopeTlb (core scope key : Nat) : Bool :=
  scope ≥ 3 ||
  (if key < 256 then sameInstance core scope key
   else if key < 2000 then core < 192 && (if scope == 2 then dieOf core == dieOf ((key - 1000) * 8) else key == 1000 + clusterOf core)
   else if key == 2003 then core ≥ 192
   else core < 192 && key == 2000 + dieOf core)

/-- Whether an address may have been translated by a cached entry. -/
def Trans.mayReach (t : Trans) (pa : Nat) : Bool := !t.inter.isEmpty || (t.frame ≤ pa && pa < t.frame + t.size)

/-- Whether an access that cached entries may have translated is still to be performed by a core of a scope (R411). -/
def State.inFlight (s : State) (core scope : Nat) (ts : List Trans) : Bool :=
  s.mem.reqs.any (fun r => sameInstance core scope r.core && ts.any (fun t => t.mayReach r.pa)) ||
  s.mem.loads.any (fun l => sameInstance core scope (coreOf l.hart) &&
    l.sectors.any (fun q => !q.scratch && ts.any (fun t => t.mayReach (32 * q.addr))))

/-- What the operands of a TLBI select, by the mode (R411). -/
def Hart.tlbiSelect (t : Hart) (sub a b : Nat) (e : Trans) : Bool :=
  let low := t.mode == .guest
  match sub with
  | 0 => if low then e.guest == t.guest && e.va ≤ a && a < e.va + e.size
      else e.guest == b && e.gpa / e.gsize == a / e.gsize
  | 1 => e.guest == (if low then t.guest else b)
  | _ => true

/-- The decode checks of TLBI that depend on the mode: the failed check, or none (R411). -/
def Hart.tlbiCheck (t : Hart) (x : Args) : Option Nat :=
  if !tlbiKinds t.mode x then some 7 else if kindOf x.b == .imm && !(0 ≤ immInt x.b && immInt x.b ≤ 63) then some 8 else none

/-- TLBI (R411): what it waits for, its release actions, and the entries that go. Frames that no KEEPING leaf maps any longer have no
cell records then (R300; log entry 92). -/
def execTlbi (x : Args) (s : State) : Out :=
  match (if ((checkArgs .tlbi x).isNone || checkArgs .tlbi x == some 8) && modeRank s.now.mode ≥ 1 then s.now.tlbiCheck x else none) with
  | some c => s.illegal c
  | none =>
    if (checkArgs .tlbi x).isNone && s.now.mode == .guest && x.sub == 2 then s.raise 0x16 0 0 0
    else issue .tlbi x s (fun s1 =>
      let t := s1.now
      let core := coreOf s1.cur
      let scope := x.rm.toNat
      let a := s1.scalar x.a
      let b := s1.scalar x.b
      if kindOf x.b == .s && b > 63 then s1.raise 6 0 0 1
      else if !t.sb.isEmpty || t.uasc != 0 then s1.block .form
      else if scope ≥ 2 && s1.backWaits core (fun _ => true) then s1.block .form
      else
        let gone (p : Nat × List Trans) : List Trans := if scopeTlb core scope p.1 then p.2.filter (t.tlbiSelect x.sub.toNat a b) else []
        let ts := (s1.mem.tlbs.map gone).flatten
        if s1.inFlight core scope ts then s1.block .form
        else
          let s2 := s1.release core scope
          let s2 := if scope == 4 then s2.send (.tlbi x.sub.toNat a b t.guest (t.mode == .guest)) else s2
          (s2.modMem (fun m => { m with
            tlbs := (m.tlbs.map (fun p => (p.1, p.2.filter (fun e => !(gone p).contains e)))).filter (fun p => !p.2.isEmpty) })).endKeeping.done)

/-! ### What the placement forms share (R413) -/

/-- Gain a POOL page for the form that runs, or say how the form ends (R429); ownership does not apply to KEEPING pages (R295). -/
def State.gainPage (s : State) (t : Trans) (pa va : Nat) : Option Out × State :=
  if t.pooled pa then s.ownAll [(poolPage pa, va, 0)] else (none, s)

/-- Translate the address of a placement form, with the failures raised precisely in the order of R191: TRANSLATION and PERMISSION, the
permission that `deny` finds lacking, OWNERSHIP of a page that the form gains, and the home's PARTITION (R413, R414, R517). `write` asks
for W, as ACCESS 2, of a form that stores nothing. -/
def State.placed1 (s : State) (o : Op) (x : Args) (write : Bool) (deny : Trans → Option Nat) (f : Trans → Nat → Nat → State → Out) :
    Out :=
  let va := s.addrOf o { x with b := .none } 1 0
  let acc : AccessKind := if write then .store else .load
  match s.translate (s.xctx s.cur) va .load write with
  | (.fault c g, s1) => s1.raise c va (accessNo acc + 16 * g) 1
  | (.hold, s1) => s1.block .form
  | (.ok t pa, s1) =>
    match deny t with
    | some g => s1.raise 6 va (accessNo acc + 16 * g) 1
    | none =>
      match (if o == .pin then s1.gainPage t pa va else (none, s1)) with
      | (some out, _) => out
      | (none, s2) =>
        match (if o == .migr then none else s2.rejected pa (agentOf (coreOf s2.cur)) s2.now.guest (s2.now.mode == .fw)) with
        | some s3 => s3.raise 0x14 va 0 1
        | none => f t pa va s2

/-- Write the report of a placement form (R413). -/
def State.report (s : State) (d : Operand) (count status : Nat) : Out :=
  (s.modNow (fun t => if kindOf d == .s then t.setS (regOf d) (BitVec.ofNat 64 (count + status * 2 ^ 8)) else t)).done

/-! ### Ends of migrations (R417, R418, R425) -/

/-- The promotion that walks wait for has ended: the walks start again, or each of their accesses faults (R425). -/
def State.endPromo (s : State) (leaf status : Nat) : State :=
  let mine (p : Promo) : Bool := p.leaf == leaf && p.status.isNone
  s.modHub (fun u => { u with promos :=
    if status == 0 then u.promos.filter (fun p => p.leaf != leaf) else updWhere mine (fun p => { p with status := some status }) u.promos })

/-- End a command with a status: the migration counters, the completion window with the register that waits for it,
which observes the completion at SYSTEM scope (R280; log entry 72), and CPLA, the block it belongs to, and the walks that wait for it. -/
def State.migDone (s : State) (c : MigCmd) (status : Nat) : State :=
  let g := bits c.cmd 8 6
  let s1 :=
    if bits c.cmd 0 4 != 0 then s
    else if status == 0 then s.bump (migKey g 0x20)
    else if (2 ≤ status && status ≤ 5) || (9 ≤ status && status ≤ 11) then s.bump (migKey g 0x21)
    else if 6 ≤ status && status ≤ 8 then s.bump (migKey g 0x22)
    else s
  let s2 := s1.recordStatus c.handle.toNat status c.clock
  let s3 := match c.hart with | some h => s2.fillFuture h c.dreg c.handle status 4 c.clock | none => s2
  let cpla := bits c.cmd 128 64
  let s4 := if cpla == 0 then s3 else s3.hubPoke cpla 8 (c.handle.toNat + status * 2 ^ 48)
  let s5 := match c.block with
    | some b =>
      let bad := decide (1 < status)
      let page (m : BlockMove) : BlockMove :=
        { m with moving := m.moving - 1, failed := m.failed || bad, pages := if bad then [] else m.pages }
      s4.modHub (fun u => { u with moves := updWhere (fun m => m.id == b) page u.moves })
    | none => s4
  match c.walk with
  | some leaf =>
    let s6 := if status == 0 && c.block.isNone then s5.bump (migKey g 0x25) else s5
    s6.endPromo leaf status
  | none => s5

/-- The free list that a frame number belongs to: 0 and 1 HBM by die, 2 LPM, 3 POOL, 4 PARK store. -/
def frameList (f : Nat) : Nat :=
  match selector (f * 4096) with
  | 0 => 0 | 1 => 1 | 2 => 2 | 8 => 4 | _ => 3

/-- The frame number of a PARK store block (R488). -/
def storeFrame (b : Nat) : Nat := 8 * 2 ^ 36 + b

/-- A free-frame list (R418). -/
def State.freeList (s : State) (k : Nat) : List Nat := sget [] s.hub.free k

/-- The first frame of a page of n frames that a list can yield (R418). -/
def pickFrames (l : List Nat) (n : Nat) : Option Nat :=
  l.find? (fun f => n == 1 || (f % 16 == 0 && (List.range n).all (fun i => l.contains (f + i))))

/-- Take n frames from a list. -/
def State.takeFrames (s : State) (f n : Nat) : State :=
  let left := (s.freeList (frameList f)).filter (fun g => !(f ≤ g && g < f + n))
  s.modHub (fun u => { u with free := sset [] u.free (frameList f) left })

/-- Return n frames to their list (R418). -/
def State.giveFrames (s : State) (f n : Nat) : State :=
  let all := s.freeList (frameList f) ++ (List.range n).map (f + ·)
  s.modHub (fun u => { u with free := sset [] u.free (frameList f) all })

/-- The destination of a page of n frames in a tier: on a given HBM die, else on the die with more free frames, die 0 on a
tie, or the other die (R417). -/
def State.findDest (s : State) (tier : Nat) (die : Option Nat) (n : Nat) : Option Nat :=
  match tier, die with
  | 0, some d => pickFrames (s.freeList d) n
  | 0, none =>
    let first := if (s.freeList 0).length ≥ (s.freeList 1).length then 0 else 1
    (pickFrames (s.freeList first) n).orElse (fun _ => pickFrames (s.freeList (1 - first)) n)
  | t, _ => pickFrames (s.freeList (t + 1)) n

/-- The die that a command names for an HBM target, when it names one. -/
def MigCmd.die (c : MigCmd) : Option Nat := if bit c.cmd 6 then some (bits c.cmd 7 1) else none

/-- CMD-BAD (R417, R418). -/
def MigCmd.bad (c : MigCmd) : Bool :=
  bits c.cmd 0 4 > 1 || bits c.cmd 14 2 != 0 || bits c.cmd 24 40 != 0 || bits c.cmd 104 24 != 0 || bits c.cmd 192 320 != 0

/-- The page that a command names, by the frame of this package that it means (R232, R419): its first frame and number of frames. -/
def State.cmdPage (s : State) (c : MigCmd) : Nat × Nat := s.pageOf (s.recFrame (s.normPa (bits c.cmd 64 40 * 4096) / 4096))

/-- The checks of a MOVE from SAME to OWNERSHIP in the order of R418: the status of the first that fails, or the first
frame, the number of frames, the leaf and the destination. The ladder moves MIGRATABLE pages of 4 KiB only (R433), and ownership does not
apply to KEEPING pages (R295). -/
def State.checkMove (s : State) (c : MigCmd) : Except Nat (Nat × Nat × Nat × Nat) :=
  let tier := bits c.cmd 4 2
  let (f, n) := s.cmdPage c
  let pa := f * 4096
  let r := s.frame f
  let leaf := if r.ptea == 0 then 0 else s.natAt (s.readAddr r.ptea) 8
  let pcls := bits leaf 10 2
  if (homeOf pa).isSome && tierOf pa == tier && (tier != 0 || (match c.die with | some d => selector pa == d | none => true)) then
    .error 1
  else if (homeOf pa).isNone || r.ptea == 0 || pcls == 1 || pcls == 2 || bits leaf 8 2 > 1 || (pcls == 3 && tier == 3) ||
      (c.block.isSome && (pcls != 0 || bits leaf 8 2 != 0)) then .error 2
  else if tier < 3 && (!bit leaf (52 + tier) || (c.taff1 != 0 && !bit c.taff1 tier)) then .error 3
  else if r.pin != 0 then .error 4
  else match s.findDest tier c.die n with
    | none => .error 5
    | some d =>
      if r.mstate != 0 then .error 9
      else if r.multi || r.peer then .error 10
      else if tierOf pa == 2 && pcls != 3 && !((List.range n).all (fun i => s.owns (poolPage pa + i))) then .error 11
      else .ok (f, n, r.ptea, d)

/-- A command that passes its checks becomes a QUEUED migration, its destination taken (R419). -/
def State.queueMig (s : State) (c : MigCmd) (src n leaf dest : Nat) : State :=
  let (id, s1) := s.fresh
  let m : Mig := ⟨id, c, bits c.cmd 4 2, bits c.cmd 8 6, n, src, dest, leaf, 0, .queued, [], 0, []⟩
  let s2 := (s1.takeFrames dest n).modHub (fun u => { u with migs := u.migs ++ [m] })
  if (homeOf (src * 4096)).isSome then s2.modFrame src (fun r => { r with mstate := 1 }) else s2

/-- End a migration that has not moved its page: the destination frame is freed, with the cell records copied there (R300,
R419). -/
def State.dropMig (s : State) (m : Mig) (status : Nat) : State :=
  let s1 := (s.giveFrames m.dest m.frames).modHub (fun u => { u with migs := u.migs.filter (fun q => q.id != m.id) })
  let s2 := if (homeOf (m.src * 4096)).isSome then s1.modFrame m.src (fun r => { r with mstate := 0 }) else s1
  let s3 := m.notices.foldl (fun st q => st.send (.mappingReply q.1 q.2 true)) (s2.dropCells m.dest m.frames)
  s3.migDone m.cmd status

/-- The migration of a page, by a frame of it. -/
def State.migOfFrame (s : State) (f : Nat) : Option Mig :=
  s.hub.migs.find? (fun m => m.src ≤ f && f < m.src + m.frames)

/-- End a QUEUED migration or abort a MOVING one; no other is touched (R414, R423, R424). -/
def State.stopMig (s : State) (m : Mig) (status : Nat) : State :=
  match m.st with
  | .queued => s.dropMig m status
  | .moving => s.abortMig m.id status
  | _ => s

/-! ### PIN, UNPIN, HINT and OWNR (R413 to R415, R430) -/

/-- The permission of PIN and UNPIN below HOST (R413). -/
def State.pinDenied (s : State) (t : Trans) : Option Nat :=
  if modeRank s.now.mode ≥ 2 || (t.upin1 && t.upin2) then none else some (if !t.upin1 then 0 else 1)

/-- PIN and UNPIN at the home of the effective frame (R414): while the frame moves they wait, and a PIN stops the
migration. A POOL page that other packages wait for is pinned for them too (R429). -/
def pinForm (o : Op) (x : Args) (s : State) : Out :=
  issue o x s (fun s1 => s1.placed1 o x false s1.pinDenied (fun t pa _ s2 =>
    let f := (s2.pageOf (s2.recFrame (pa / 4096))).1
    let r := s2.frame f
    if !(t.pcls == 0 || t.pcls == 3) || selector pa ≥ 14 then s2.report x.d r.pin 1
    else if o == .pin then
      if r.mstate == 2 || r.mstate == 1 then
        (match s2.migOfFrame f with
         | some m => (s2.stopMig m 7).block .form
         | none => s2.block .form)
      else if r.mstate ≥ 3 then s2.block .form
      else if r.pin ≥ 255 then s2.report x.d r.pin 2
      else
        let s3 := s2.modFrame f (fun q => { q with pin := q.pin + 1, pguest := s2.now.guest })
        (if t.pooled pa then s3.waitPinned (poolPage pa) else s3).report x.d (r.pin + 1) 0
    else if r.pin == 0 then s2.report x.d 0 3
    else (s2.modFrame f (fun q => { q with pin := q.pin - 1, pguest := s2.now.guest })).report x.d (r.pin - 1) 0))

/-- PIN (R414). -/
def execPin (x : Args) (s : State) : Out := pinForm .pin x s

/-- UNPIN (R414). -/
def execUnpin (x : Args) (s : State) : Out := pinForm .unpin x s

/-- HINT at the frame of its address: a translation failure drops it, and one that meets a park entry waits for the page (R415, R425). -/
def hintForm (x : Args) (s : State) : Out :=
  issue .hint x s (fun s1 =>
    match s1.translate (s1.xctx s1.cur) (s1.addrOf .hint x 1 0) .load false with
    | (.ok _ pa, s2) =>
      if selector pa ≥ 14 then s2.done
      else (s2.modFrame (s2.pageOf (s2.recFrame (pa / 4096))).1 (fun r => { r with hintv := x.sub.toNat + 1 })).done
    | (.hold, s2) => s2.block .form
    | (.fault .., s2) => s2.done)

/-- HINT (R415): it never traps after decode, so that one whose operand would trap is dropped. -/
def execHint (x : Args) (s : State) : Out :=
  match precheck .hint x s with
  | .trap c _ _ => if c == 1 || c == 0x16 then hintForm x s else s.unwait.done
  | _ => hintForm x s

/-- OWNR.REQUEST (R429, R430): the protocol of an access; a wait without GRANT reports TIMEOUT. -/
def execOwnrRequest (x : Args) (s : State) : Out :=
  issue .ownrRequest x s (fun s1 => s1.placed1 .ownrRequest x true (fun _ => none) (fun _ pa _ s2 =>
    if tierOf pa != 2 then s2.report x.d 0 6
    else
      let p := poolPage pa
      let owner (st : State) : Nat := ownOwner (st.ownWord p)
      let waited := s.now.sched.hold == some p
      let ended := s.now.sched.hold == some (holdEnded p false) || s.now.sched.hold == some (holdEnded p true)
      let calm (st : State) : State := st.modNow (fun t => { t with sched := { t.sched with hold := none } })
      if ownKeep (s2.ownWord p) then (calm s2).report x.d (owner s2) 7
      else if s2.owns p then (calm s2).report x.d (owner s2) (if waited || ended then 0 else 4)
      else if ended then (calm s2).report x.d (owner s2) 5
      else if (s2.ownStep p).1 then (calm (s2.ownStep p).2).report x.d (owner (s2.ownStep p).2) 0
      else ((s2.ownStep p).2.modNow (fun t => { t with sched := { t.sched with hold := some p } })).block .form))

/-- OWNR.RELEASE (R430): waits until PIN reaches 0, and for the metadata package to make the change (R487). -/
def execOwnrRelease (x : Args) (s : State) : Out :=
  issue .ownrRelease x s (fun s1 => s1.placed1 .ownrRelease x true (fun _ => none) (fun _ pa _ s2 =>
    if tierOf pa != 2 then s2.report x.d 0 6
    else
      let p := poolPage pa
      let w := s2.ownWord p
      let f := (s2.pageOf (s2.recFrame (pa / 4096))).1
      let mark (st : State) (v : Option Nat) : State := st.modNow (fun t => { t with sched := { t.sched with hold := v } })
      let waited := s.now.sched.hold == some p
      if ownKeep w then (mark s2 none).report x.d (ownOwner w) 7
      else if !s2.owns p then (mark s2 none).report x.d (ownOwner w) (if waited then 0 else 4)
      else if (s2.frame f).pin != 0 || (s2.frame f).mstate != 0 || s2.flushWaits (poolAddr p) 4096 then s2.block .form
      else match (s2.recallPage (poolAddr p) 4096).setOwn p (ownNext w (ownOwner w) 0 0) with
        | (true, s3) => (mark s3 none).report x.d (ownOwner w) 0
        | (false, s3) => (mark s3 (some p)).block .form))

/-! ### MIGR (R416) -/

/-- MIGR (R416, R417): the page's frame goes to the migration command queue, which it waits for while it is full; the command
carries the clock of its issue (R280, R283). -/
def execMigr (x : Args) (s : State) : Out :=
  issue .migr x s (fun s1 => s1.placed1 .migr x false (fun _ => none) (fun t pa _ s2 =>
    if s2.hub.migQueue.length ≥ migQueueLen then s1.block .form
    else
      let b := if x.b == .none then 0 else s2.scalar x.b
      let guest := s2.now.guest
      let first := if t.pcls == 2 then pa / 4096 else pa / t.gsize * (t.gsize / 4096)
      let cmd := x.sub.toNat * 16 + b2n (bit b 1) * 64 + b2n (bit b 1 && bit b 0) * 128 + guest * 256 + first * 2 ^ 64
      let (h, s3) := s2.migNumber cmd guest
      let (id, s3) := s3.fresh
      let c : MigCmd := ⟨cmd, h, some s3.cur, futureReg x.d, t.taff1, none, none, (s.core (coreOf s.cur)).lamport.toNat, id⟩
      ((s3.modNow (fun u => u.awaitFuture x.d h)).modHub (fun u => { u with migQueue := u.migQueue ++ [c] })).done))

/-! ### A migration runs (R419 to R422) -/

/-- Migrations that run at the home of a frame. -/
def State.runningAt (s : State) (f : Nat) : Nat :=
  (s.hub.migs.filter (fun m => m.st != .queued && homeOf (m.src * 4096) == homeOf (f * 4096))).length

/-- MIGRATION_RATE_PERIOD: a home's allowance renews with its period of 2^20 cycles (R426). -/
def execMigrationRatePeriod (home : Home) (s : State) : Out :=
  let k := s.cycles.toNat / 2 ^ 20
  .next (if (s.home (homeNo home)).period == k then s
    else s.modHome (homeNo home) (fun m => { m with period := k, started := 0 }))

/-- Whether the rate of a home lets a page of n frames start now (R426). -/
def HomeSt.mayStart (m : HomeSt) (period n : Nat) : Bool :=
  let used := if m.period == period then m.started else 0
  used == 0 || used + n ≤ m.mrate

/-- MIGRATION_START: a QUEUED migration gets a slot and the rate, and its forwarding entry (R419, R426). A promotion from
the PARK store leaves no home. One to POOL first owns the pages it fills, but for a KEEPING page (R295, R429). -/
def execMigrationStart (mig : Nat) (s : State) : Out :=
  match s.hub.migs.find? (fun m => m.id == mig && m.st == .queued) with
  | none => .next s
  | some m =>
    let k := s.cycles.toNat / 2 ^ 20
    let go (st : State) : State :=
      st.modHub (fun u => { u with migs := updWhere (fun q => q.id == mig) (fun q => { q with st := .moving }) u.migs })
    let own := if m.tier == 2 && bits (s.natAt (s.readAddr m.leaf) 8) 10 2 != 3 then
        (List.range m.frames).foldl (fun (acc : Bool × State) i =>
          let (ok, st) := acc.2.ownStep (poolPage (m.dest * 4096) + i)
          (acc.1 && ok, st)) (true, s)
      else (true, s)
    if !own.1 then .next own.2 else
    let s := own.2
    match homeOf (m.src * 4096) with
    | none => .next (go s)
    | some h =>
      if s.runningAt m.src ≥ 16 || !((s.home h).mayStart k m.frames) then .next s
      else
        let used := if (s.home h).period == k then (s.home h).started else 0
        .next (((go s).modHome h (fun q => { q with period := k, started := min (used + m.frames) (max used q.mrate) })).modFrame
          m.src (fun r => { r with mstate := 2 }))

/-- Copy line i of a migration to its new frame, with its marks, cell records and stamp (R283, R320, R420). -/
def State.copyLine (s : State) (m : Mig) (i : Nat) : State :=
  let old := m.src * 4096 + 128 * i
  let new := m.dest * 4096 + 128 * i
  let bs := s.bytesAt old 128
  let bad := (List.range 4).filter (fun k => s.mem.marks.contains (old / 32 + k))
  let s1 := (s.pokeAll (placed new bs)).modMem (fun q => { q with
    marks := q.marks.filter (fun k => !(new / 32 ≤ k && k < new / 32 + 4)) ++ bad.map (fun k => new / 32 + k) })
  (s1.modHub (fun u => { u with
    cells := (List.range 16).foldl (fun c j => sset CellRec.init c (new / 8 + j) (sget CellRec.init c (old / 8 + j))) u.cells })).raiseStamp
    (new / 128) (sget 0 s.mem.stamps (old / 128))

/-- Perform held writes in arrival order; a KREC that must wait stays at the home (R308, R420, R421). -/
def State.performHeld (s : State) (ids : List Nat) : State :=
  ids.foldl (fun st id => match st.mem.reqs.find? (fun r => r.id == id) with
    | none => st
    | some r => match st.performHome r with
      | some st1 => st1
      | none => st.modMem (fun m => { m with
          reqs := updWhere (fun q => q.id == id) (fun q => { q with parked := true }) m.reqs })) s

/-- Physical addresses of the old frame that the machine holds name the new one: of accesses under way, which are served there from now
on (R420), and of records and structures that it keeps by address. -/
def State.carryAddrs (s : State) (m : Mig) : State :=
  let mv (a : Nat) : Nat := if m.src * 4096 ≤ a && a < (m.src + m.frames) * 4096 then m.toNew a else a
  let kind : ReqKind → ReqKind
    | .store d ps => .store (d.map (fun p => (mv p.1, p.2))) (ps.map mv)
    | k => k
  let piece (p : Piece) : Piece := { p with bytes := p.bytes.map (fun b => (mv b.1, b.2)) }
  let sector (q : Sector) : Sector := if q.scratch then q else { q with addr := mv (32 * q.addr) / 32, pieces := q.pieces.map piece }
  let s1 := s.modMem (fun q => { q with
    loads := q.loads.map (fun l => { l with sectors := l.sectors.map sector })
    reqs := q.reqs.map (fun r => { r with pa := mv r.pa, kind := kind r.kind })
    acks := q.acks.map (fun a => { a with line := mv (128 * a.line) / 128 })
    bound := q.bound.map (fun b => { b with recPa := mv b.recPa }) })
  s1.modRun (fun r => { r with
    rcbs := r.rcbs.map mv, frqs := r.frqs.map mv, devFaults := r.devFaults.map mv
    launches := r.launches.map (fun l => { l with rcbPa := mv l.rcbPa }) })

/-- The last line is copied: the leaves that still map the page are rewritten and the shootdown starts (R419, R422, R425). Every cache
has given the old frame up by then, and accesses use the new one from now on (log entry 91). -/
def State.startShootdown (s : State) (m : Mig) : State :=
  let base := if m.frames == 16 then m.leaf / 128 * 128 else m.leaf
  let s0 := if m.tier == 3 then s else (s.recallPage (m.src * 4096) (4096 * m.frames)).carryAddrs m
  let s1 := (List.range m.frames).foldl (fun st i =>
    let a := base + 8 * i
    let v := st.peekNat a 8
    let maps := if selector (m.src * 4096) == 8 then !bit v 0 && bits v 60 4 == 0xA && storeFrame (bits v 12 36) == m.src + i
      else bit v 0 && s.normPa (bits v 12 40 * 4096) / 4096 / m.frames * m.frames == m.src
    let w := if m.tier == 3 then putBits (putBits (putBits v 12 40 ((m.dest + i) % 2 ^ 36)) 60 4 0xA) 0 1 0
      else putBits (putBits (putBits v 12 40 m.dest) 60 4 0) 0 1 1
    if maps then st.hubPoke a 8 w else st) s0
  let s2 := s1.modHub (fun u => { u with migs := updWhere (fun q => q.id == m.id) (fun q => { q with st := .shootdown }) u.migs })
  if (homeOf (m.src * 4096)).isSome then s2.modFrame m.src (fun r => { r with mstate := 3 }) else s2

/-- Blocks on each drive of the PARK store: 122 TB over eight drives (R10, R488). -/
def driveBlocks : Nat := 3723144531

/-- Whether a command of a migration to the PARK store fails: its drive reports it, or it names a block beyond the drive (R488). -/
def State.storeFailing (s : State) (m : Mig) : Bool :=
  (m.tier == 3 && (Config.storeFails s.tick || (List.range m.frames).any (fun i => driveBlocks ≤ (m.dest + i) % 2 ^ 36 / 8))) ||
  (selector (m.src * 4096) == 8 && (Config.storeFails s.tick || (List.range m.frames).any (fun i => driveBlocks ≤ (m.src + i) % 2 ^ 36 / 8)))

/-- LINE_COPY: the cursor line is recalled and copied, the writes held at it are applied to both frames in arrival order,
and the cursor advances (R420). A command to the PARK store that fails ends the move with NO-FRAME (R488). -/
def execLineCopy (mig : Nat) (s : State) : Out :=
  match s.hub.migs.find? (fun m => m.id == mig && m.st == .moving) with
  | none => .next s
  | some m =>
    if m.cursor + 1 == 32 * m.frames && s.flushWaits (m.src * 4096) (4096 * m.frames) then .next s
    else if s.storeFailing m then .next ((s.abortMig mig 5).ras m.dest)
    else
      let line := m.src * 32 + m.cursor
      let s1 := s.mergeLines line 1
      let s2 := match homeOf (m.src * 4096) with
        | none => s1
        | some h => ((s1.home h).dir.filter (fun (e : DirEntry) => e.covers line)).foldl (fun (st : State) (e : DirEntry) => st.dropEntry h e) s1
      let s3 := s2.copyLine m m.cursor
      let s4 := s3.modHub (fun u => { u with
        migs := updWhere (fun q => q.id == mig) (fun q => { q with cursor := q.cursor + 1, held := [] }) u.migs })
      let s5 := s4.performHeld m.held
      .next (if m.cursor + 1 == 32 * m.frames then s5.startShootdown m else s5)

/-- Whether an access sent with an address of the old frame is still to be performed (R422). -/
def State.oldFrameBusy (s : State) (m : Mig) : Bool :=
  let inside (pa : Nat) : Bool := m.src ≤ pa / 4096 && pa / 4096 < m.src + m.frames
  s.mem.reqs.any (fun r => inside r.pa) || s.mem.loads.any (fun l => l.sectors.any (fun q => !q.scratch && inside (32 * q.addr)))

/-- The records of the frames after a commit: the counts and NSENT go with the page, with what walks and firmware wrote of
it, and the old frames have none (R419). -/
def State.carryRecords (s : State) (m : Mig) : State :=
  (List.range m.frames).foldl (fun st i =>
    let r := st.frame (m.src + i)
    let s1 := if m.tier == 3 || (homeOf (m.src * 4096)).isNone then st
      else st.modFrame (m.dest + i) (fun _ => { r with mstate := 0, multi := false, peer := false })
    s1.modFrame (m.src + i) (fun _ => FrameRec.zero)) s

/-- SHOOTDOWN_COMPLETE: every cache has given up the old frame, and the migration commits (R419, R422). -/
def execShootdownComplete (mig : Nat) (s : State) : Out :=
  match s.hub.migs.find? (fun m => m.id == mig && m.st == .shootdown) with
  | none => .next s
  | some m =>
    if s.oldFrameBusy m then .next s
    else
      let inside (t : Trans) : Bool := if t.inter.isEmpty then t.frame / 4096 < m.src + m.frames && m.src * 4096 < t.frame + t.size
        else t.inter.any (fun p => p.1 < m.src + m.frames && m.src < p.1 + 512)
      let s1 := (s.flushPage (m.src * 4096) (4096 * m.frames)).modMem (fun q => { q with
        tlbs := (q.tlbs.map (fun p => (p.1, p.2.filter (fun t => !inside t)))).filter (fun p => !p.2.isEmpty) })
      let s2 := (s1.carryRecords m).modHub (fun u => { u with migs := u.migs.filter (fun q => q.id != mig) })
      let s3 := s2.modHub (fun u => { u with
        cells := u.cells.filter (fun p => !(m.src * 512 ≤ p.1 && p.1 < (m.src + m.frames) * 512)) })
      let s4 := (s3.giveFrames m.src m.frames).carryAddrs m
      let s5 := m.notices.foldl (fun st q => st.send (.mappingReply q.1 q.2 false)) s4
      .next (s5.migDone m.cmd 0)

/-- ABORT_COMPLETE: the stalled writes reach the old frame in arrival order and the migration ends (R419, R421). -/
def execAbortComplete (mig : Nat) (s : State) : Out :=
  match s.hub.migs.find? (fun m => m.id == mig && m.st == .aborting) with
  | none => .next s
  | some m =>
    let s1 := (s.modHub (fun u => { u with
      migs := updWhere (fun q => q.id == mig) (fun q => { q with held := [] }) u.migs })).performHeld m.held
    .next (s1.dropMig m m.status)

/-! ### Mapping notices (R424) -/

/-- MAPPING_NOTICE at the home of a frame: one step with its placement record; a reply that waits for the migration goes
with its end (R424). -/
def execMappingNotice (pkg pa : Nat) (s : State) : Out :=
  let f := (s.pageOf (s.recFrame (s.normPa pa / 4096))).1
  let r := s.frame f
  let peer (st : State) : State := st.modFrame f (fun q => { q with peer := true })
  let later (st : State) (m : Mig) : State := st.modHub (fun u => { u with
    migs := updWhere (fun q => q.id == m.id) (fun q => { q with notices := q.notices ++ [(pkg, pa)] }) u.migs })
  match s.migOfFrame f with
  | none => .next ((peer s).send (.mappingReply pkg pa true))
  | some m =>
    match r.mstate with
    | 1 => .next (((peer s).dropMig m 10).send (.mappingReply pkg pa true))
    | 2 => .next (later ((peer s).abortMig m.id 10) m)
    | 4 => .next (later (peer s) m)
    | _ => .next (later s m)

/-! ### Compaction (R319) -/

/-- Set SWEEP in a region's descriptor (R296, step 1 of R319). -/
def State.setSweep (s : State) (region : Nat) : State :=
  s.pokeNat (s.rdtAt region) 4 (putBits (s.natAt (s.rdtAt region) 4) 29 1 1)

/-- SWEEP at the members of a region: step 1 here, and a message to each other member. -/
def State.startSweep (s : State) (c : MigCmd) : State :=
  let region := bits c.cmd 16 8
  let mine := s.localOf region
  let s1 := (s.setSweep region).modHub (fun u => { u with sweeps := u.sweeps ++ [(region, c)] })
  ((s.membersOf region).filter (· != mine)).foldl (fun st i => st.send (.sweep region i)) s1

/-- What this member gives to a sweep of a region (R319): once it has rebased, what it gave before, with the word that it has. -/
def State.ownShare (s : State) (region : Nat) : SweepShare :=
  match s.hub.rebased.contains region, s.hub.shared.find? (fun p => p.1 == region) with
  | true, some p => { p.2 with done := true }
  | _, _ =>
    ⟨s.localOf region, (s.outQueue region).isEmpty, s.lctrOf region,
     (s.holdQueue region).filterMap (fun h => match h with | .update u => some u.dot | _ => none), false⟩

/-- What others give to a sweep takes the place of what they gave before; the first of it sets SWEEP at a member that another
package's engine sweeps (R319). -/
def State.takeShares (s : State) (region : Nat) (others : List SweepShare) : State :=
  if others.isEmpty || !bit (s.natAt (s.rdtAt region) 1) 0 then s
  else (if s.sweeping region || others.all SweepShare.done then s else s.setSweep region).modHub (fun u => { u with
    shares := u.shares.filter (fun p => !(p.1 == region && others.any (fun o => o.replica == p.2.replica))) ++
      others.map (fun o => (region, o)) })

/-- Send the other members of a region what this one gives, when it has changed (R319). -/
def State.sendShare (s : State) (region : Nat) : State :=
  let o := s.ownShare region
  if !s.sweeping region || !s.replicated region || s.hub.shared.contains (region, o) then s
  else ((s.membersOf region).filter (· != o.replica)).foldl (fun st i => st.send (.sweepShare region i o))
    (s.modHub (fun u => { u with shared := u.shared.filter (fun p => p.1 != region) ++ [(region, o)] }))

/-- Steps 3 and 4 of R319 at this member: every cell and held record of a region is rebased, in frames that are KEEPING and in those
that firmware has given the region, and LCTR is lowered. -/
def State.rebaseRegion (s : State) (region : Nat) (given : List SweepShare) : State :=
  let d := s.advances region given
  let own (a : Nat) : Nat := s.recFrame (a / 4096) * 4096 + a % 4096
  let cells := ((s.hub.cells.map (fun p => own (p.1 * 8))).eraseDups).filter (fun a =>
    s.regionAt a == region && ((s.frame (a / 4096)).kept || s.isKeeping (a / 4096)))
  let s1 := cells.foldl (fun st a => st.rebaseCell a d) s
  let s2 := s1.modHub (fun u => { u with
    rebased := u.rebased ++ [region]
    holdq := sset [] u.holdq region ((sget [] u.holdq region).map (fun h => match h with
      | .update q => .update (rebaseUpdate d q)
      | h => h)) })
  s2.setLctr region (s2.lctrOf region - d.at_ (s.localOf region))

/-- Step 5 of R319 at this member: EPOCH advances and SWEEP is cleared; a sweep that this package runs completes. -/
def State.endSweep (s : State) (region : Nat) : State :=
  let w := putBits (putBits (s.natAt (s.rdtAt region) 4) 21 8 (s.epochOf region + 1)) 29 1 0
  let s1 := s.pokeNat (s.rdtAt region) 4 w
  (s1.hub.sweeps.filter (fun q => q.1 == region)).foldl (fun st q => st.migDone q.2 0) (s1.modHub (fun u => { u with
    sweeps := u.sweeps.filter (fun q => q.1 != region), shares := u.shares.filter (fun q => q.1 != region)
    shared := u.shared.filter (fun q => q.1 != region), rebased := u.rebased.filter (· != region) }))

/-- SWEEP_REBASE: what other members give is noted, and this member's share goes to them; then steps 3 and 4 of R319 at this member, once
every member's outbound queue is empty and every other member has given what the advance is taken from, and step 5 once every member has
rebased. -/
def execSweepRebase (region : Nat) (others : List SweepShare) (s0 : State) : Out :=
  let s := (s0.takeShares region others).sendShare region
  let given := (s.hub.shares.filter (fun p => p.1 == region)).map Prod.snd
  let rest := (s.membersOf region).filter (· != s.localOf region)
  let all (f : SweepShare → Bool) : Bool := rest.all (fun i => given.any (fun o => o.replica == i && f o))
  if !s.sweeping region then .next s
  else if s.hub.rebased.contains region then .next (if all SweepShare.done then s.endSweep region else s)
  else if !(all SweepShare.outqEmpty && (s.outQueue region).isEmpty) then .next s
  else
    let s1 := (s.rebaseRegion region given).sendShare region
    .next (if all SweepShare.done then s1.endSweep region else s1)

end Sys2Proof.Machine
end

