-- ==== Sys2Proof/Machine/Kv.lean ====
section
/-! DEFINITION. KV tables and parked continuations: KVX, KVR, KVW, the descent and the waking of a sequence, the block
moves of the hub, and the migration engine's taking of a command (19_kv_tables R431 to R448, 18_translation R417, R418,
R425). -/
namespace Sys2Proof.Machine

/-! ### The directory and the descriptors (R431, R432) -/

/-- The address of a sequence's descriptor (R431): VA[56:12] of the directory, sign-extended (R218). -/
def kvDescAt (kd seq : Nat) : Nat :=
  wrap 64 (toSigned 57 (bits kd 12 45 * 4096) + 64 * seq)

/-- Reason 1: the directory is not valid or a reserved bit is set (R438). -/
def kvdirBad (kd : Nat) : Bool := !bit kd 0 || bits kd 1 5 > 20 || bits kd 6 6 != 0 || bits kd 57 7 != 0

/-- Reason 3: a descriptor is not valid or a reserved bit is set (R432, R438). -/
def kvDescBad (v : Nat) : Bool := !bit v 0 || bits v 6 2 != 0 || bits v 12 4 != 0 || bits v 253 3 != 0 || bits v 320 64 != 0

/-- Reason 6: an entry has a reserved bit set, or is valid with FILL below the slot (R438). -/
def kvEntryBad (e slot : Nat) : Bool := bits e 9 3 != 0 || bits e 48 16 != 0 || (bit e 0 && decide (bits e 5 4 < slot))

/-- `%tinfo` of KV-FAULT (R438). -/
def kvInfo (reason seq : Nat) : Nat := reason + seq % 2 ^ 20 * 2 ^ 8

/-- What the hub holds of a descriptor for work on its sequence (R442). -/
def Cont.ofDesc (id launch guest s1ptb s2ptb seq at_ v die ladder pstate rungAt : Nat) : Cont :=
  { id := id, launch := launch, guest := guest, s1ptb := s1ptb, s2ptb := s2ptb, desc := at_, seq := seq,
    btab := bits v 64 64, nblk := bits v 128 32, s1 := bits v 16 16, arena := bits v 208 45, rowb := bits v 160 16,
    die := die, ladder := ladder, rung := 0, rungAt := rungAt, pstate := pstate, tried := [] }

/-- The work of the hub on a sequence: what it holds now, beside what promotions in flight still hold of an earlier park (R442). -/
def State.contFor (s : State) (guest seq : Nat) : Option Cont :=
  s.hub.conts.find? (fun k => k.guest == guest && k.seq == seq && k.pstate != 4)

/-- A continuation by its number. -/
def State.cont? (s : State) (id : Nat) : Option Cont := s.hub.conts.find? (fun k => k.id == id)

/-- Put a continuation in the place of the one with its number, or beside the others. -/
def State.putCont (s : State) (k : Cont) : State :=
  s.modHub (fun u => { u with conts := u.conts.filter (fun c => c.id != k.id) ++ [k] })

/-- The launch whose RCB a descriptor names, or a given one. -/
def State.launchOfDesc (s : State) (guest v other : Nat) : Nat :=
  match s.run.launches.find? (fun l => l.guest == guest && l.rcb == bits v 448 64) with
  | some l => l.id
  | none => other

/-- Report a KV-FAULT of the hub to the queue of a launch's RCB (R444, R447). -/
def State.kvFault (s : State) (launch addr : Nat) : State :=
  match s.launch? launch with
  | some l =>
    (match l.eff with
     | some e => s.faultRecord e ⟨0x13, false, l.restart, e.fdom, 0, 0, 0, addr⟩
     | none => s)
  | none => s

/-! ### Blocks and their pages (R433 to R435) -/

/-- The tag record that the PARK store keeps of a block (R435). -/
def State.storeTag (s : State) (guest seq block : Nat) : Option StoreTag :=
  s.hub.store.find? (fun t => t.guest == guest && t.seq == seq && t.block == block)

/-- The arena offset of a block whose entry is `e`: for a block of the PARK store its tag record holds it (R435). -/
def State.blockOff (s : State) (k : Cont) (b e : Nat) : Nat :=
  match (if bits e 1 2 == 3 then s.storeTag k.guest k.seq b else none) with
  | some t => t.off
  | none => bits e 12 36

/-- The virtual address of page i of a block (R433). -/
def Cont.pageVa (k : Cont) (off i : Nat) : Nat := (k.arena + off + i) * 4096 % 2 ^ 64

/-- Set a field of an entry as one rewrite (R435). -/
def State.editEntry (s : State) (k : Cont) (b : Nat) (f : Nat → Nat) : State :=
  match s.kvEntry k b with
  | some e => s.setKvEntry k b (f e)
  | none => s

/-- Whether a page of a walk lies in a tier, on a die of HBM. -/
def pageThere (tier die : Nat) : WalkRes → Bool
  | .found _ pa _ => (homeOf pa).isSome && tierOf pa == tier && (tier != 0 || die ≥ 2 || selector pa == die)
  | _ => false

/-- TAFF of the leaf that a walk finds, or of the park entry (R425). -/
def walkTaff : WalkRes → Nat
  | .found t _ _ => t.taff
  | .parked pte _ => bits pte 52 3
  | .fault _ _ => 0

/-- The tier and die of a promotion, chosen once: HBM of the die, else LPM, else POOL, whichever the pages' TAFF allows and
has a free frame for every page that is not there (R447). -/
def State.promoTier (s : State) (k : Cont) (die off : Nat) : Option (Nat × Nat) :=
  let ws := (List.range k.pages).map (fun i => s.walk k.ctx (k.pageVa off i))
  let d := if die < 2 then die else if (s.freeList 0).length ≥ (s.freeList 1).length then 0 else 1
  let fits (t : Nat) : Bool :=
    let need := (ws.filter (fun w => !pageThere t d w)).length
    let have_ := (s.freeList (if t == 0 then d else t + 1)).length
    ws.all (fun w => bit (walkTaff w) t) && need ≤ have_
  ([0, 1, 2].find? fits).map (fun t => (t, d))

/-! ### Block moves (R445 to R447) -/

/-- Block moves of a sequence under way at once (R445, R447). -/
def movesAtOnce : Nat := 16

/-- Change one block move. -/
def State.modMove (s : State) (id : Nat) (f : BlockMove → BlockMove) : State :=
  s.modHub (fun u => { u with moves := updWhere (fun m => m.id == id) f u.moves })

/-- Remove a block move. -/
def State.dropMove (s : State) (id : Nat) : State :=
  s.modHub (fun u => { u with moves := u.moves.filter (fun m => m.id != id) })

/-- A block move that waits to start. -/
def BlockMove.new (id cont block : Nat) (up : Bool) (tier die : Nat) (stage1 : Bool) : BlockMove :=
  ⟨id, cont, block, up, tier, die, [], 0, false, false, stage1, true⟩

/-- The command for page i of a block move: a MOVE of the frame that holds it, or for a page in the PARK store a promotion
of its leaf; none when the page cannot be found (R417, R446). -/
def State.pageCmd (s : State) (k : Cont) (m : BlockMove) (off i : Nat) : Option MigCmd :=
  let cmd := m.tier * 16 + (if m.tier == 0 && m.die < 2 then 64 + m.die * 128 else 0) + k.guest * 256
  match s.walk k.ctx (k.pageVa off i) with
  | .found _ pa _ => some ⟨cmd + pa / 4096 * 2 ^ 64, 0, none, none, 0, some m.id, none, 0, 0⟩
  | .parked pte leaf => some ⟨cmd, 0, none, none, 0, some m.id, some (parkLeaf pte leaf), 0, 0⟩
  | .fault _ _ => none

/-- The page of a block that is refused as things stand, with the status: by its own checks, or because its tier has too few free frames
for the block (R418, R446). -/
def State.refusedPage (s : State) (k : Cont) (m : BlockMove) (off : Nat) : Option (MigCmd × Nat) :=
  let cs := (List.range k.pages).filterMap (s.pageCmd k m off)
  let list := if m.tier == 0 then m.die else m.tier + 1
  let go (c : MigCmd) : Bool := c.walk.isSome || (match s.checkMove c with | .error 1 => false | _ => true)
  let own (c : MigCmd) : Option (MigCmd × Nat) :=
    if c.walk.isSome then none
    else match s.checkMove c with
      | .error 1 => none
      | .error st => some (c, st)
      | .ok _ => none
  (cs.findSome? own).orElse fun _ =>
    if (s.freeList list).length < (cs.filter go).length then (cs.find? go).map (fun c => (c, 5)) else none

/-- A command is refused: its future ends with the status, and a refusal for a pin is notified (R418, R427). -/
def State.refuse (s : State) (c : MigCmd) (st : Nat) : State :=
  let r := s.frame (s.cmdPage c).1
  (if st == 4 then s.notify r.pguest r.gpn 2 (bits c.cmd 4 2) else s).migDone c st

/-- Start a block move: a demotion is forgotten where the block no longer calls for it, and a promotion chooses its tier
(R445, R447). One of which a page would be refused moves no page, and the refusal counts (R446). -/
def State.startMove (s : State) (k : Cont) (m : BlockMove) : State :=
  let go (tier die : Nat) (pages : List Nat) (failed : Bool) : State :=
    let s1 := s.modMove m.id (fun q => { q with started := true, tier := tier, die := die, pages := pages, failed := failed })
    match (if pages.isEmpty then none else (s.kvEntry k m.block).bind (fun e =>
        s.refusedPage k { m with tier := tier, die := die } (s.blockOff k m.block e))) with
    | some (c, st) => s1.refuse c st
    | none => s1
  match s.kvEntry k m.block with
  | none => if m.up then go 0 0 [] true else s.dropMove m.id
  | some e =>
    let tier := bits e 1 2
    if !m.up then
      if !bit e 0 || !bit e 4 || bit e 3 || tier ≥ m.tier then s.dropMove m.id else go m.tier 0 (List.range k.pages) false
    else if tier == 0 then go 0 m.die [] false
    else match s.promoTier k m.die (s.blockOff k m.block e) with
      | some (t, d) => go t d (List.range k.pages) false
      | none => go 0 0 [] true

/-- The block moves of a sequence, those of an earlier park too. -/
def State.movesOf (s : State) (k : Cont) : List BlockMove :=
  let ids := (s.hub.conts.filter (fun c => c.guest == k.guest && c.seq == k.seq)).map Cont.id
  s.hub.moves.filter (fun m => ids.contains m.cont)

/-- Start the block moves of a continuation that the 16 places of its sequence allow, each block after a move of it that is under way. -/
def State.startMoves (k : Cont) : Nat → State → State
  | 0, s => s
  | n + 1, s =>
    let mine := s.hub.moves.filter (fun m => m.cont == k.id)
    let under := (s.movesOf k).filter BlockMove.started
    match mine.find? (fun m => !m.started && !under.any (fun q => q.block == m.block)) with
    | some m => if under.length < movesAtOnce then State.startMoves k n (s.startMove k m) else s
    | none => s

/-- Send one page of a started move to the migration command queue. -/
def State.sendPage (s : State) (m : BlockMove) (i : Nat) (rest : List Nat) : State :=
  let refused := s.modMove m.id (fun q => { q with failed := true, pages := [] })
  match s.cont? m.cont with
  | none => refused
  | some k =>
    match s.kvEntry k m.block with
    | none => refused
    | some e =>
      match s.pageCmd k m (s.blockOff k m.block e) i with
      | none => refused
      | some c =>
        (s.modMove m.id (fun q => { q with pages := rest, moving := q.moving + 1 })).modHub (fun u => { u with
          migQueue := u.migQueue ++ [c] })

/-- Send pages of started moves while the migration command queue has room (R384). -/
def State.feed : Nat → State → State
  | 0, s => s
  | n + 1, s =>
    if s.hub.migQueue.length ≥ migQueueLen then s
    else match s.hub.moves.find? (fun m => m.started && !m.pages.isEmpty) with
      | none => s
      | some m =>
        match m.pages with
        | [] => s
        | i :: rest => State.feed n (s.sendPage m i rest)

/-- Send what can be sent. -/
def State.feedAll (s : State) : State := State.feed (sumN (s.hub.moves.map (fun m => m.pages.length)) + 1) s

/-- Start and send the moves of a continuation. -/
def State.pump (s : State) (id : Nat) : State :=
  match s.cont? id with
  | none => s.feedAll
  | some k => (State.startMoves k (s.hub.moves.length + 1) s).feedAll

/-- Add a block move at the end of a continuation's queue, or at its front (R437). -/
def State.addMove (s : State) (k : Cont) (b : Nat) (up : Bool) (tier : Nat) (stage1 front : Bool) : State :=
  let (id, s1) := s.fresh
  let m := BlockMove.new id k.id b up tier k.die stage1
  s1.modHub (fun u => { u with moves := if front then m :: u.moves else u.moves ++ [m] })

/-- Queue a promotion of a block: PROMO is set (R447). -/
def State.promote (s : State) (k : Cont) (b : Nat) (stage1 front : Bool) : State :=
  (s.editEntry k b (fun e => putBits e 3 1 1)).addMove k b true 0 stage1 front

/-! ### Descent (R443 to R445) -/

/-- A rung of a ladder (R376): its tier, whether it is valid, and its dwell in cycles. -/
def rungOf (ladder i : Nat) : Nat × Bool × Nat :=
  if i ≥ 4 then (0, false, 0)
  else (bits ladder (32 * i) 2, bit ladder (32 * i + 2), bits ladder (32 * i + 4) 28 * 2 ^ 20)

/-- Write RUNG to the RCB of a launch (R363). -/
def State.rcbRung (s : State) (launch rung : Nat) : State :=
  match s.launch? launch with
  | none => s
  | some l => s.cohPoke noHart (placed (s.rcbAt l 96) (toBytes 1 rung)) []

/-- Enter rung i: every block of the descent above its tier is queued in ascending order, in place of the demotions that
have not moved (R445). -/
def State.enterRung (s : State) (k : Cont) (i : Nat) : State :=
  let k1 : Cont := { k with rung := i, rungAt := s.cycles.toNat }
  let s1 := (((s.putCont k1).setPstate k1 1 i).rcbRung k1.launch i).dropMoves k1 (fun m => !m.up)
  let (tier, valid, _) := rungOf k1.ladder i
  if !valid then s1
  else
    (List.range k1.nblk).foldl (fun st b =>
      match st.kvEntry k1 b with
      | some e =>
        if bit e 0 && bit e 4 && decide (bits e 1 2 < tier) && !st.hub.moves.any (fun m => m.cont == k1.id && m.block == b) then
          st.addMove k1 b false tier false false
        else st
      | none => st) s1

/-- The descriptor of the sequence that a parking launch names, where the checks of R444 pass; otherwise its address. -/
def State.descentDesc (s : State) (l : Launch) (e : Eff) : Except Nat (Nat × Nat) :=
  let kd := (sget 0 s.hub.kvdir l.guest).toNat
  let at_ := kvDescAt kd e.seq
  if kvdirBad kd || e.seq ≥ 2 ^ bits kd 1 5 then .error at_
  else match s.readVirt (hubCtx l.guest l.s1ptb l.s2ptb) at_ 64 with
    | none => .error at_
    | some (bs, _) =>
      let v := ofBytes bs
      if !bit v 0 || bits v 448 64 != l.rcb || bits v 384 64 != e.wakew then .error at_ else .ok (at_, v)

/-- The entry of a launch's RCB to PARKED begins the descent of its sequence (R443, R444). Promotions in flight keep what the hub held of
the descriptor at the park before (R442), and leave PARK set. -/
def State.enterDescent (s : State) (launch : Nat) : State :=
  match s.launch? launch with
  | none => s
  | some l =>
    match l.eff with
    | none => s
    | some e =>
      if !e.seqv then s
      else match s.descentDesc l e with
        | .error a => s.kvFault launch a
        | .ok (at_, v) =>
          let (fresh, s0) := s.fresh
          let s1 := match s0.contFor l.guest e.seq with
            | some k =>
              let s2 := s0.dropMoves k (fun _ => true)
              let left := s2.hub.moves.any (fun m => m.cont == k.id)
              s2.modHub (fun u => { u with
                conts := if left then updWhere (fun c => c.id == k.id) (fun c => { c with pstate := 4 }) u.conts
                  else u.conts.filter (fun c => c.id != k.id)
                moves := updWhere (fun m => m.cont == k.id) (fun m => { m with clearPark := false, stage1 := false }) u.moves })
            | none => s0
          let k := Cont.ofDesc fresh launch l.guest l.s1ptb l.s2ptb e.seq at_ v l.die e.ladder 1 s.cycles.toNat
          let s3 := (List.range k.nblk).foldl (fun st b =>
            st.editEntry k b (fun x => if bit x 0 then putBits x 4 1 1 else x)) (s1.putCont k)
          s3.enterRung k 0

/-- The state in which work on a sequence waits for its descriptor or its block entries, whose pages lie in the PARK store or belong to
another package (R425, R429). -/
def State.contHeld (s : State) (k : Cont) : Option State := s.virtHeld k.ctx [(k.desc, 64), (k.btab, 8 * k.nblk)]

/-- RUNG_EXPIRY: the dwell of a rung is over and the next valid one starts (R443, R445, R473). -/
def execRungExpiry (cont : Nat) (s : State) : Out :=
  match s.cont? cont with
  | none => .next s
  | some k =>
    let (_, _, dwell) := rungOf k.ladder k.rung
    let (_, more, _) := rungOf k.ladder (k.rung + 1)
    if k.pstate != 1 || !more || s.cycles.toNat < k.rungAt + dwell then .next s
    else match s.contHeld k with
    | some st => .next st
    | none => .next ((s.enterRung k (k.rung + 1)).pump k.id)

/-! ### Waking (R443, R447) -/

/-- Parked crews may be placed, and wait for it from now on (R374): the RCB becomes READY (R379). -/
def State.wakeReady (s : State) (launch : Nat) : State :=
  (s.modLaunch launch (fun l => { l with
    saved := l.saved.map (fun p => (p.1, if p.2 == 1 then 2 else p.2))
    sinces := (l.saved.filter (fun p => p.2 == 1)).foldl (fun m p => sset 0 m p.1 s.cycles.toNat) l.sinces })).setRcb launch 1

/-- The moves of a continuation are over: a sequence in STAGE2 becomes ACTIVE, and nothing is held for it any longer
(R443). -/
def State.finishCont (s : State) (id : Nat) : State :=
  match s.cont? id with
  | none => s
  | some k =>
    let mine := s.hub.moves.filter (fun m => m.cont == id)
    if k.pstate == 3 && mine.all (fun m => !m.up) then
      let s1 := s.setPstate k 0 0
      if mine.isEmpty then s1.modHub (fun u => { u with conts := u.conts.filter (fun c => c.id != id) })
      else s1.putCont { k with pstate := 0 }
    else if (k.pstate == 0 || k.pstate == 4) && mine.isEmpty then s.modHub (fun u => { u with conts := u.conts.filter (fun c => c.id != id) })
    else s

/-- Stage 2 starts: the RCB becomes READY and every other block with PARK = 1 is queued, newest first (R443, R447). -/
def State.stageTwo (s : State) (k : Cont) : State :=
  let k1 : Cont := { k with pstate := 3 }
  let s1 := ((s.putCont k1).setPstate k1 3 0).wakeReady k1.launch
  let s2 := (List.range k1.nblk).reverse.foldl (fun st b =>
    match st.kvEntry k1 b with
    | some e =>
      if bit e 0 && bit e 4 && !k1.tried.contains b then
        st.promote k1 b false false
      else st
    | none => st) s1
  (s2.pump k1.id).finishCont k1.id

/-- The blocks that stage 1 takes: the first S1 valid ones with PARK = 1, newest first (R447). -/
def State.stageOne (s : State) (k : Cont) : List Nat :=
  ((List.range k.nblk).reverse.filter (fun b =>
    match s.kvEntry k b with
    | some e => bit e 0 && bit e 4
    | none => false)).take k.s1

/-- A launch's RCB passes from PARKED to WAKING: queued demotions are dropped and stage 1 starts; without a sequence the
RCB is READY at once (R379, R443, R447). -/
def State.wakeLaunch (s : State) (launch : Nat) : State :=
  let s1 := s.setRcb launch 5
  match s1.hub.conts.find? (fun k => k.launch == launch && k.pstate == 1) with
  | none => s1.wakeReady launch
  | some k =>
    let s2 := s1.dropMoves k (fun m => !m.up)
    let picks := s2.stageOne k
    let k1 : Cont := { k with pstate := 2, tried := picks }
    let s3 := (s2.putCont k1).setPstate k1 2 0
    let s4 := picks.foldl (fun st b => st.promote k1 b true false) s3
    if picks.isEmpty then s4.stageTwo k1 else s4.pump k1.id

/-- The value of a launch's wake word (R378). -/
def State.wakeWord (s : State) (l : Launch) : Nat :=
  match l.eff with
  | none => 0
  | some e =>
    if e.wakew == 0 then 0
    else match s.range (s.guestCtx e.guest) e.wakew 8 .load false with
      | .ok (as_, st) =>
        -- an 8-byte write keeps a sector's mark, and wakes all the same (R74)
        if as_.any st.homeFailed || (st.refusedAt e.guest as_).isSome then 0
        else (let st' := st.mergeLines (as_.headD 0 / 128) 1; ofBytes (as_.map (fun a => st'.byte (st'.readAddr a))))
      | .error _ => 0

/-- A launch whose RCB is PARKED wakes when its wake word is not 0 (R378), once what its waking reads can be read. -/
def State.wakeIf (s : State) (l : Launch) : State :=
  if s.rcbState (s.rcbAt l 0) == 4 && s.wakeWord l != 0 then
    match (s.hub.conts.find? (fun k => k.launch == l.id && k.pstate == 1)).bind s.contHeld with
    | some st => st
    | none => s.wakeLaunch l.id
  else s

/-- Every parked launch whose wake word has become nonzero wakes (R378), but not during a checkpoint (R492). -/
def State.wakeAll (s : State) : State :=
  if s.quiesced then s else (s.run.launches.filter (fun l => !l.ended)).foldl (fun st l => st.wakeIf l) s

/-- WAKE_WORD_WRITE: a fabric or network write reaches memory at its home, as a store of software does (R6), and wakes the RCB whose wake
word it changes to a nonzero value (R378). -/
def execWakeWordWrite (pa : Nat) (data : List Byte) (s : State) : Out :=
  let l := placed (s.canonPa pa) data
  let s1 := ((l.map (fun p => p.1 / 128)).eraseDups).foldl (fun st k => (st.cohTouch 3 0 false k true true).1) s
  .next ((s1.cohPoke noHart (s1.guarded .user l) []).wakeAll)

/-! ### Ends of block moves (R446, R447) -/

/-- Whether a started move has nothing under way any longer. -/
def BlockMove.ended (m : BlockMove) : Bool := m.started && m.pages.isEmpty && m.moving == 0

/-- What the hub holds of a sequence now, whose earlier work may be another's. -/
def State.current (s : State) (k : Cont) : Cont := (s.contFor k.guest k.seq).getD k

/-- After a block of a descent has moved or failed: it is queued again when it still lies above the rung (R443, R445). -/
def State.descendOn (s : State) (k0 : Cont) (m : BlockMove) : State :=
  let k := s.current k0
  let (tier, valid, _) := rungOf k.ladder k.rung
  match (if k.pstate == 1 && valid && (m.up || m.tier < tier) then s.kvEntry k m.block else none) with
  | some e => if bit e 0 && bit e 4 && decide (bits e 1 2 < tier) then s.addMove k m.block false tier false false else s
  | none => s

/-- The store block numbers of a block's pages, from their park entries (R425). -/
def State.storeBlocks (s : State) (k : Cont) (off : Nat) : List Nat :=
  (List.range k.pages).filterMap (fun i =>
    match s.walk k.ctx (k.pageVa off i) with
    | .parked pte _ => some (bits pte 12 36)
    | _ => none)

/-- Rewrite the entry of a block that has been demoted; for the PARK store also its offset and tag record (R435, R446). -/
def State.demoted (s : State) (k : Cont) (m : BlockMove) : State :=
  match s.kvEntry k m.block with
  | none => s
  | some e =>
    let off := s.blockOff k m.block e
    let blocks := s.storeBlocks k off
    let s1 := s.bump (migKey k.guest 0x23)
    if m.tier != 3 then s1.setKvEntry k m.block (putBits e 1 2 m.tier)
    else
      let t : StoreTag := ⟨k.guest, k.seq, m.block, off, k.pages, k.s1ptb, k.s2ptb, k.desc, blocks⟩
      let s2 := s1.modHub (fun u => { u with
        store := u.store.filter (fun q => !(q.guest == t.guest && q.seq == t.seq && q.block == t.block)) ++ [t] })
      s2.setKvEntry k m.block (putBits (putBits e 1 2 3) 12 36 (blocks.headD 0))

/-- BLOCK_MOVE_DONE: the last page of a demoted block has moved, or one was refused and the block keeps its tier (R446). -/
def execBlockMoveDone (move : Nat) (s : State) : Out :=
  match s.hub.moves.find? (fun m => m.id == move && !m.up && m.ended) with
  | none => .next s
  | some m =>
    match s.cont? m.cont with
    | none => .next (s.dropMove move)
    | some k =>
      if (s.contHeld k).isSome then .next ((s.contHeld k).getD s) else
      let s1 := (if m.failed then s else s.demoted k m).dropMove move
      .next (((s1.descendOn k m).pump k.id).finishCont k.id)

/-- End the walks that wait for pages of a block that has settled (R425). -/
def State.endWalks (s : State) (k : Cont) (off : Nat) : State :=
  (List.range k.pages).foldl (fun st i =>
    match st.walk k.ctx (k.pageVa off i) with
    | .found t _ _ => st.endPromo t.leaf 0
    | .parked pte leaf => st.endPromo (parkLeaf pte leaf) 5
    | .fault _ _ => st) s

/-- Rewrite the entry of a block whose promotion has ended (R447): PROMO stays while another promotion of the block is queued. -/
def State.promoted (s : State) (k : Cont) (m : BlockMove) : State :=
  match s.kvEntry k m.block with
  | none => s
  | some e =>
    let off := s.blockOff k m.block e
    let s1 := s.endWalks k off
    let more := b2n ((s.movesOf k).any (fun q => q.id != m.id && q.block == m.block && q.up))
    if m.failed then s1.setKvEntry k m.block (putBits e 3 1 more)
    else
      let tier := if bits e 1 2 == 0 then 0 else m.tier
      let e1 := putBits (putBits (putBits e 1 2 tier) 12 36 off) 3 1 more
      let s2 := s1.setKvEntry k m.block (if m.clearPark then putBits e1 4 1 0 else e1)
      s2.modHub (fun u => { u with
        store := u.store.filter (fun q => !(q.guest == k.guest && q.seq == k.seq && q.block == m.block)) })

/-- BLOCK_SETTLE: a block's promotion completes or fails; either way it settles, and PROMOTED counts it in a wake's stages (R443,
R447, R476). -/
def execBlockSettle (move : Nat) (s : State) : Out :=
  match s.hub.moves.find? (fun m => m.id == move && m.up && m.ended) with
  | none => .next s
  | some m =>
    match s.cont? m.cont with
    | none => .next (s.dropMove move)
    | some k =>
      if (s.contHeld k).isSome then .next ((s.contHeld k).getD s) else
      let s0 := if 2 ≤ k.pstate then s.bump (migKey k.guest 0x24) else s
      let s1 := (s0.promoted k m).dropMove move
      let s2 := if m.failed then s1.kvFault k.launch ((k.btab + 8 * m.block) % 2 ^ 64) else s1
      let left := s2.hub.moves.filter (fun q => q.cont == k.id && q.stage1)
      if k.pstate == 2 then .next (if left.isEmpty then s2.stageTwo k else s2.pump k.id)
      else .next (((s2.descendOn k m).pump (s2.current k).id).finishCont k.id)

/-! ### The migration engine takes a command (R417, R418, R425) -/

/-- Promote the whole of a KV block in the PARK store, as a walk that met one of its pages asks (R435). -/
def State.promoteTagged (s : State) (t : StoreTag) (die : Nat) : State :=
  let cx := hubCtx t.guest t.s1ptb t.s2ptb
  let v := match s.readVirt cx t.desc 64 with | some (bs, _) => ofBytes bs | none => 0
  let (id, s1) := s.fresh
  let k := match s1.contFor t.guest t.seq with
    | some k => k
    | none => Cont.ofDesc id (s1.launchOfDesc t.guest v 0) t.guest t.s1ptb t.s2ptb t.seq t.desc v die 0 0 0
  if s1.hub.moves.any (fun m => m.cont == k.id && m.block == t.block && m.up) then s1
  else (((s1.putCont k).promote { k with die := die } t.block false true).pump k.id)

/-- Take a promotion of the page whose park entry stands at a leaf, the first of sixteen of a 64 KiB page (R406, R418, R425). -/
def State.takeWalk (s : State) (c : MigCmd) (leaf : Nat) : State :=
  let pte := s.natAt (s.readAddr leaf) 8
  let tier := bits c.cmd 4 2
  let n := if bits pte 8 2 == 1 then 16 else 1
  if bit pte 0 then s.migDone c (if c.block.isSome then 1 else 0)
  else if tier == 3 then s.migDone c 1
  else if c.block.isSome && n != 1 then s.migDone c 2
  else
    match (if c.block.isNone then s.hub.store.find? (fun t => t.blocks.contains (bits pte 12 36)) else none) with
    | some t => s.promoteTagged t (if bit c.cmd 6 then bits c.cmd 7 1 else 2)
    | none =>
      let src := storeFrame (bits pte 12 36)
      if !bit (bits pte 52 3) tier then s.migDone c 3
      else match s.findDest tier c.die n with
        | none => s.migDone c 5
        | some d => if s.hub.migs.any (fun m => m.src == src) then s.migDone c 9 else s.queueMig c src n leaf d

/-- MIGRATION_COMMAND_TAKE: once what the issuer of the head of the migration command queue did before it is performed (R280), it is
checked, and refused or queued as a migration or a
sweep (R417 to R419, R427). -/
def execMigrationCommandTake (s : State) : Out :=
  if s.quiesced then .next s else
  match s.hub.migQueue with
  | [] => .next s
  | c :: rest =>
    if !(c.hart.all (fun h => s.releasedBefore h c.before && !s.backWaits (coreOf h) (fun _ => true))) then .next s else
    let s := (c.hart.map (fun h => s.release (coreOf h) 4)).getD s
    let g := bits c.cmd 8 6
    let s1 := s.modHub (fun u => { u with migQueue := rest })
    let (h, s2) := if c.handle == 0 then s1.migNumber c.cmd g else (c.handle, s1)
    let d : MigCmd := { c with handle := h }
    let s3 :=
      if d.bad then s2.migDone d 12
      else if bits d.cmd 0 4 == 1 then
        (if !bit (s2.natAt (s2.rdtAt (bits d.cmd 16 8)) 1) 0 then s2.migDone d 13 else s2.startSweep d)
      else match d.walk with
        | some leaf => s2.takeWalk d leaf
        | none =>
          match s2.checkMove d with
          | .ok (f, n, leaf, dest) => s2.queueMig d f n leaf dest
          | .error st => s2.refuse d st
    .next s3.feedAll

/-! ### KVX, KVR and KVW (R436 to R441) -/

/-- Read bytes at their home as LDS.B64.ACQ.PACKAGE does (R251, R439): their value, whether they are uncorrectable, whether
the home took the request, the stamp, and the state. -/
def State.kvRead (s : State) (r : LaneRef) (n : Nat) : Nat × Bool × Bool × Nat × State :=
  let core := coreOf s.cur
  let line := r.pa / 128
  let s1 := s.preStrong core 3 line
  let f := s1.atPoint s.cur core s.now.guest s.now.mode 3 r.pa n false (fun _ => none)
  let (ts, s2) := f.st.stampFor 3 core r.pa 1 (s.core core).lamport.toNat
  (f.old, f.bad, f.ok, ts, s2)

/-- Read each distinct address of some accesses once, by lane: lane, value and whether it is uncorrectable; then the lanes
that the home rejected, the greatest stamp and the state. -/
def State.kvReads (s : State) (rs : List LaneRef) (n : Nat) : List (Nat × Nat × Bool) × List LaneRef × Nat × State :=
  let firsts := rs.foldl (fun (acc : List LaneRef) r => if acc.any (fun q => q.pa == r.pa) then acc else acc ++ [r]) []
  firsts.foldl (fun acc r =>
    let (v, bad, ok, ts, st) := acc.2.2.2.kvRead r n
    let mine := rs.filter (fun q => q.pa == r.pa)
    (acc.1 ++ (if ok then mine.map (fun q => (q.lane, v, bad)) else []), acc.2.1 ++ (if ok then [] else mine),
      max acc.2.2.1 ts, st)) ([], [], 0, s)

/-- PARTITION of a form whose read a home rejects (R517). -/
def State.kvPartition (s : State) (rs : List LaneRef) : Out :=
  s.raise 0x14 ((rs.map LaneRef.va).headD 0) 0 (maskOf (rs.map LaneRef.lane))

/-- The descriptor reads of a KV form: for each lane its sequence; lanes of sequences that the directory has not are left
out. The rest is told the descriptors by lane. -/
def State.kvDescs (s : State) (order : Nat) (ls : List (Nat × Nat))
    (f : List (Nat × Nat × Bool) → Nat → State → Out) : Out :=
  let kd := (s.readSr s.cur 0x050).toNat
  if kvdirBad kd then f [] 0 s
  else
    let asked := (ls.filter (fun p => decide (p.2 < 2 ^ bits kd 1 5))).map (fun p => (p.1, kvDescAt kd p.2))
    match s.checkAll ⟨0, 64, .load, true, false, .read⟩ asked with
    | .out o => o
    | .ok refs s1 =>
      if s1.strongWaits refs order 3 then s.block .form
      else
        let (vs, rejected, ts, s2) := s1.kvReads refs 64
        if !rejected.isEmpty then s2.kvPartition rejected else f vs ts s2

/-- The first of reasons 1 to 5 of R438 that holds for a sequence and, where it is given, a position or a block. -/
def kvReason (kd seq : Nat) (pos block : Option Nat) (v : Option (Nat × Bool)) : Option Nat :=
  if kvdirBad kd then some 1
  else if seq ≥ 2 ^ bits kd 1 5 then some 2
  else match v with
    | none => none
    | some (_, true) => none
    | some (w, false) =>
      if kvDescBad w then some 3
      else if pos.any (fun p => decide (bits w 32 32 ≤ p)) then some 4
      else if block.any (fun b => decide (bits w 128 32 ≤ b)) then some 5
      else none

/-- Start the promotion of a block that a WAIT lane of KVX waits for (R437): in STAGE2 as that stage does, in ACTIVE to the
issuing core's die. A block that already has one moves to the front of the queue; `start` says whether one is started otherwise. -/
def State.kvxPromote (s : State) (start : Bool) (seq block at_ v : Nat) : State :=
  if !start && !(s.contFor s.now.guest seq).any (fun k => s.hub.moves.any (fun m => m.cont == k.id && m.block == block && m.up)) then s else
  let t := s.now
  let (id, s1) := s.fresh
  let die := if isCompute s.cur then dieOf (coreOf s.cur) else 2
  let k := match s1.contFor t.guest seq with
    | some k => if k.pstate == 0 then { k with die := die } else k
    | none => Cont.ofDesc id (s1.launchOfDesc t.guest v t.place.launch) t.guest t.sup.s1ptb.toNat t.sup.s2ptb.toNat seq at_ v die 0 0 0
  let old := s1.hub.moves.filter (fun m => m.cont == k.id && m.block == block && m.up)
  let s2 := if old.isEmpty then (s1.putCont k).promote k block false true
    else s1.modHub (fun u => { u with moves := old ++ u.moves.filter (fun m => !(m.cont == k.id && m.block == block && m.up)) })
  s2.pump k.id

/-- A member lane of a KVX with what it asks for and its descriptor. -/
structure KvxAsk where
  lane : Nat
  seq : Nat
  pos : Nat
  desc : Option (Nat × Bool)
  deriving DecidableEq, Repr

/-- Raise KV-FAULT for the lanes whose reason is the least (R438). -/
def State.kvRaise (s : State) (bad : List (Nat × KvxAsk × Nat)) : Out :=
  match leastBy Prod.fst bad with
  | none => .next s
  | some (r, q, a) => s.raise 0x13 a (kvInfo r q.seq) (maskOf ((bad.filter (fun p => p.1 == r)).map (fun p => p.2.1.lane)))

/-- PSTATE of a sequence: the hub's, else the descriptor's (R432). -/
def State.kvPstate (s : State) (guest seq v : Nat) : Nat :=
  match s.contFor guest seq with
  | some k => k.pstate
  | none => bits v 1 3

/-- A WAIT lane whose block is parked and has no promotion: whether it starts one (R437). -/
def kvxStarts (pstate e : Nat) : Bool := bit e 0 && bit e 4 && !bit e 3 && (pstate == 0 || pstate == 3)

/-- Issue a KVX whose checks have passed: lanes whose descriptor or entry is uncorrectable are POISON, WAIT lanes start or
advance promotions, and its registers are EMPTY until it completes (R437). One without a member writes its K register at once (R69). -/
def State.kvxIssue (s : State) (x : Args) (kd stamp : Nat) (asks : List KvxAsk)
    (es : List (Nat × Nat × Bool)) : State :=
  let t := s.now
  let d := regOf x.d
  let wait := bit x.sub.toNat 1
  let lane (q : KvxAsk) (st : State) : KvxLane × State :=
    let v := (q.desc.map Prod.fst).getD 0
    let slot := q.pos % 16
    let part := bits v 208 45 * 4096 + slot * bits v 160 16 + bits v (if bit x.sub.toNat 0 then 192 else 176) 16
    let at_ := (bits v 64 64 + 8 * (q.pos / 16)) % 2 ^ 64
    let ent (res : KvxRes) : KvxLane := ⟨q.lane, at_, part, t.getV d q.lane, t.getV (d + 1) q.lane, res⟩
    match es.find? (fun p => p.1 == q.lane) with
    | none => (ent .poison, st)
    | some (_, e, bad) =>
      let ps := st.kvPstate t.guest q.seq v
      let res := kvxDecide wait part e bad
      if wait && !bad && ps == 1 && bit e 0 && (bit e 3 || bit e 4) then (ent .recorded, st)
      else if wait && !bad && res == .recorded && kvxStarts ps e then
        (ent .waits, st.kvxPromote true q.seq (q.pos / 16) (kvDescAt kd q.seq) v)
      else if res == .waits then (ent .waits, if ps == 3 then st.kvxPromote false q.seq (q.pos / 16) (kvDescAt kd q.seq) v else st)
      else (ent res, st)
  let (lanes, s1) := asks.foldl (fun (acc : List KvxLane × State) q =>
    let r := lane q acc.2
    (acc.1 ++ [r.1], r.2)) ([], s)
  let (id, s2) := s1.fresh
  let k := regOf x.b
  let s3 := s2.modNow (fun u => (u.markEmpty x.d 2 (asks.map KvxAsk.lane)).putK k ⟨true, (u.getK k).v⟩)
  if asks.isEmpty then s.modNow (fun u => u.setK k 0)
  else s3.modHub (fun u => { u with kvx := u.kvx ++ [⟨id, s.cur, t.guest, t.mode, d, k, stamp, lanes⟩] })

/-- KVX (R436 to R439). -/
def execKvx (x : Args) (s : State) : Out :=
  memIssue .kvx x s (fun s1 =>
    let t := s1.now
    let kd := (s1.readSr s1.cur 0x050).toNat
    let a := regOf x.a
    let ls := lanesOf t.W (t.members x)
    let ask0 := ls.map (fun l => (l, (t.getV a l).v.toNat, (t.getV (a + 1) l).v.toNat))
    s1.kvDescs 1 (ask0.map (fun q => (q.1, q.2.1))) (fun vs ts1 s2 =>
      let asks : List KvxAsk := ask0.map (fun q => ⟨q.1, q.2.1, q.2.2, (vs.find? (fun p => p.1 == q.1)).map Prod.snd⟩)
      let why (q : KvxAsk) : Option Nat := kvReason kd q.seq (some q.pos) (some (q.pos / 16)) q.desc
      let early := asks.filterMap (fun q => (why q).map (fun r => (r, q, kvDescAt kd q.seq)))
      let fine := asks.filter (fun q => (why q).isNone && (q.desc.map Prod.snd) == some false)
      let entryVa (q : KvxAsk) : Nat := (bits ((q.desc.map Prod.fst).getD 0) 64 64 + 8 * (q.pos / 16)) % 2 ^ 64
      match s2.checkAll ⟨0, 8, .load, true, false, .read⟩ (fine.map (fun q => (q.lane, entryVa q))) with
      | .out o => o
      | .ok refs s3 =>
        if s3.strongWaits refs 1 3 then s1.block .form
        else
          let (es, rejected, ts2, s4) := s3.kvReads refs 8
          if !rejected.isEmpty then s4.kvPartition rejected
          else
            let late := fine.filterMap (fun q => match es.find? (fun p => p.1 == q.lane) with
              | some (_, e, false) => if kvEntryBad e (q.pos % 16) then some (6, q, entryVa q) else none
              | _ => none)
            let bad := early ++ late
            if !bad.isEmpty then s4.kvRaise bad
            else (s4.kvxIssue x kd (max ts1 ts2) asks es).done))

/-- All W lanes with one address: a scalar KV form reports every lane (R440). -/
def State.allOf (s : State) (a : Nat) : List (Nat × Nat) := (lanesOf s.now.W (allLanes s.now.W)).map (fun l => (l, a))

/-- Write the result of KVR or KVW: the entry, or POISON (R441). -/
def State.kvWrite (s : State) (x : Args) (v : Nat) (bad : Bool) (ts : Nat) : Out :=
  let s1 := s.modNow (fun t => if kindOf x.d == .s then t.putS (regOf x.d) ⟨if bad then .poison else .full, BitVec.ofNat 64 v⟩ else t)
  ((s1.clockTo (coreOf s.cur) ts).acquire (coreOf s.cur) 3).done

/-- What KVR and KVW share: the checks of the directory, the descriptor and the block (R440), and the access to the entry. A
descriptor that is uncorrectable leaves the reasons that depend on it unchecked (R441). -/
def kvForm (o : Op) (x : Args) (late : State → Option Nat) (w : Want) (order : Nat)
    (f : State → LaneRef → Nat → Out) (s : State) : Out :=
  memIssue o x s (fun s1 =>
    let t := s1.now
    let kd := (s1.readSr s1.cur 0x050).toNat
    let seq := (t.getS (regOf x.a)).v.toNat
    let block := (t.getS (regOf x.a + 1)).v.toNat
    let fault (st : State) (r : Nat) : Out := st.raise 0x13 (kvDescAt kd seq) (kvInfo r seq) (allLanes t.W)
    s1.kvDescs order ((s1.allOf seq)) (fun vs ts s2 =>
      let v := vs.head?.map Prod.snd
      match kvReason kd seq none (some block) v with
      | some r => fault s2 r
      | none =>
        match v with
        | some (_, true) => (match late s2 with | some r => fault s2 r | none => s2.kvWrite x 0 true ts)
        | _ =>
          let at_ := (bits ((v.map Prod.fst).getD 0) 64 64 + 8 * block) % 2 ^ 64
          match s2.checkAll w (s2.allOf at_) with
          | .out o => o
          | .ok refs s3 =>
            match late s3, refs with
            | some r, _ => fault s3 r
            | none, [] => .next s3
            | none, r :: _ =>
              if s3.strongWaits [r] order 3 || (w.write && (s3.cursorMig r.pa).isSome) then s1.block .form
              else f s3 r ts))

/-- KVR (R440, R441). -/
def execKvr (x : Args) (s : State) : Out :=
  kvForm .kvr x (fun _ => none) ⟨0, 8, .load, true, false, .read⟩ 1 (fun s1 r ts0 =>
    let (v, bad, ok, ts, s2) := s1.kvRead r 8
    if !ok then s2.raise 0x14 r.va 0 (allLanes s2.now.W) else s2.kvWrite x v bad (max ts ts0)) s

/-- The status of a KVW against the entry (R441): 2 BUSY, 1 MISMATCH, 0 WRITTEN. -/
def kvwStatus (old expected : Nat) : Nat := if bit old 4 || bit old 3 then 2 else if old != expected then 1 else 0

/-- KVW: one indivisible step at the entry's home (R441). -/
def execKvw (x : Args) (s : State) : Out :=
  let expected (st : State) : Nat := (st.now.getS (regOf x.b)).v.toNat
  let new (st : State) : Nat := (st.now.getS (regOf x.b + 1)).v.toNat
  let late (st : State) : Option Nat :=
    let n := new st
    if bits n 9 3 != 0 || bits n 48 16 != 0 || bit n 3 || bit n 4 || bits n 1 2 == 3 then some 7 else none
  kvForm .kvw x late ⟨0, 8, .atomic, true, true, .atomic⟩ 3 (fun s1 r ts0 =>
    let core := coreOf s1.cur
    let line := r.pa / 128
    let s2 := (s1.release core 3).preStrong core 3 line
    let f := s2.atPoint s1.cur core s1.now.guest s1.now.mode 3 r.pa 8 true
      (fun old => if kvwStatus old (expected s1) == 0 then some (new s1) else none)
    let (ts, s3) := f.st.stampFor 3 core r.pa 3 (s1.core core).lamport.toNat
    if !f.ok then s3.raise 0x14 r.va 0 (allLanes s3.now.W)
    else s3.kvWrite x (putBits f.old 48 4 (kvwStatus f.old (expected s1))) f.bad (max ts ts0)) s

end Sys2Proof.Machine
end

