-- ==== Sys2Proof/Machine/Barrier.lean ====
section
/-! DEFINITION. Named barriers: the record in the crew's scratchpad, arrivals, status reports, and the barrier forms
(21_counters R465 to R470). -/
namespace Sys2Proof.Machine

/-- Offset of barrier b's record in a crew's scratchpad (R219, R465). -/
def Kernel.barAt (k : Kernel) (b : Nat) : Nat := k.scratch + 16 * b

/-- The record of barrier b of a crew as a number (R465). -/
def State.barRecord (s : State) (c : Crew) (b : Nat) : Nat := s.scratchNat c.key (c.kernel.barAt b) 16

/-- Rewrite the record of a barrier as one step. -/
def State.setBarRecord (s : State) (c : Crew) (b v : Nat) : State :=
  s.scratchPut c.key (placed (c.kernel.barAt b) (toBytes 16 v)) []

/-- PHASE of a record (R465). -/
def barPhase (r : Nat) : Bool := bit r 32
/-- SEEN of a team (R465). -/
def barSeen (r t : Nat) : Bool := bit r (48 + t)
/-- A record whose team t has observed the phase (R469). -/
def barObserve (r t : Nat) : Nat := putBits r (48 + t) 1 (b2n (barPhase r))

/-- One arrival (R466). -/
def barArrive (r : Nat) : Nat :=
  let n := bits r 16 16 + 1
  if n ≥ max (bits r 0 16) 1 then
    let status := bits r 64 32
    putBits (putBits (putBits (putBits r 16 16 0) 32 1 (b2n (!barPhase r))) 96 32 status) 64 32 (status &&& 0xFF00)
  else putBits r 16 16 n

/-- A status report with its unit, before its arrival (R466). -/
def barReport (r status first : Nat) : Nat :=
  let r1 := putBits r 64 32 (bits r 64 32 ||| status % 256)
  if status % 256 / 2 != 0 && !bit r 33 then putBits (putBits r1 72 8 first) 33 1 1 else r1

/-- A BINIT of a record (R468). -/
def barInit (r n : Nat) : Nat :=
  putBits (putBits (putBits (putBits (putBits r 0 16 n) 16 16 0) 33 1 0) 64 64 0) 48 16
    (if barPhase r then 2 ^ 16 - 1 else 0)

/-- An engine's completion reports to a barrier of a crew and arrives (R335, R355, R356, R466). -/
def State.engineArrive (s : State) (key b status first : Nat) : State :=
  match s.crew? key with
  | none => s
  | some c => s.setBarRecord c b (barArrive (barReport (s.barRecord c b) status first))

/-- Number of a BAR operand. -/
def barOf : Operand → Nat
  | .bar n => n.toNat
  | _ => 0

/-- A barrier form of a team of a crew. -/
def barForm (o : Op) (x : Args) (s : State) (f : State → Crew → Out) : Out :=
  issue o x s (fun s1 => match s1.crewOf s1.cur with | some c => f s1 c | none => s1.done)

/-- Whether the REL actions that come before an arrival still wait (R257, R289), or an earlier access of the team is still to
return a value, which may not come from a write after the barrier (R281; log entry 71). -/
def State.arrivalWaits (s : State) : Bool := !s.now.sb.isEmpty || s.now.uasc != 0 || s.earlierOut s.cur s.nextId

/-- The running team arrives at a barrier: REL at CORE scope, then the arrival (R469). -/
def State.teamArrive (s : State) (c : Crew) (b : Nat) : State :=
  let s1 := s.release (coreOf s.cur) 0
  s1.setBarRecord c b (barArrive (s1.barRecord c b))

/-- A team observes the phase of a barrier: SEEN, and the acquire of R280. -/
def State.observePhase (s : State) (h : Nat) (c : Crew) (b : Nat) : State :=
  (s.setBarRecord c b (barObserve (s.barRecord c b) (s.hart h).place.team)).acquire (coreOf h) 0

/-- Whether a phase that a team has not observed has completed (R469). -/
def State.phaseNew (s : State) (h : Nat) (c : Crew) (b : Nat) : Bool :=
  barPhase (s.barRecord c b) != barSeen (s.barRecord c b) (s.hart h).place.team

/-- End the barrier wait of a hart when its phase has completed (R469, R373); a BWAIT is then past. -/
def State.endBarrierWait (s : State) (h : Nat) : State :=
  match (s.hart h).sched.wait, s.crewOf h with
  | .barrier b past, some c =>
    if s.phaseNew h c b then
      (s.observePhase h c b).modHart h (fun t => { t with
        pc := if past then t.pc else t.pc + 12, sched := { t.sched with wait := .none } })
    else s
  | _, _ => s

/-- BINIT (R468). -/
def execBinit (x : Args) (s : State) : Out :=
  barForm .binit x s (fun s1 c =>
    let b := barOf x.d
    (s1.setBarRecord c b (barInit (s1.barRecord c b) (s1.scalar x.a % 2 ^ 16))).done)

/-- BARV (R469). -/
def execBarv (x : Args) (s : State) : Out :=
  barForm .barv x s (fun s1 c => if s1.arrivalWaits then s1.block .form else (s1.teamArrive c (barOf x.d)).done)

/-- BWAIT (R469). -/
def execBwait (x : Args) (s : State) : Out :=
  barForm .bwait x s (fun s1 c =>
    let b := barOf x.d
    if s1.phaseNew s1.cur c b then (s1.observePhase s1.cur c b).done else s1.block (.barrier b false))

/-- BARW: BARV, then BWAIT with the pc at the next instruction (R469). -/
def execBarw (x : Args) (s : State) : Out :=
  barForm .barw x s (fun s1 c =>
    let b := barOf x.d
    if s1.arrivalWaits then s1.block .form
    else
      let s2 := (s1.teamArrive c b).modNow Hart.advance
      if s2.phaseNew s2.cur c b then .next (s2.observePhase s2.cur c b) else s2.block (.barrier b true))

/-- BQRY (R470). -/
def execBqry (x : Args) (s : State) : Out :=
  barForm .bqry x s (fun s1 c =>
    let r := s1.barRecord c (barOf x.a)
    let v := if x.b == .imm 1 then bits r 64 64 else bits r 0 64
    (s1.modNow (fun t => t.setS (regOf x.d) (BitVec.ofNat 64 v))).done)

end Sys2Proof.Machine
end

