-- ==== Sys2Proof/Machine/FloatOps.lean ====
section
/-! DEFINITION. Class 2: floating-point arithmetic, extremes, sign, compare, classify, rounding and scaling
(07_float R132 to R144). -/
namespace Sys2Proof.Machine

/-- A BF16 pattern widened to F64: the value exactly, a NaN with its sign, its payload and its quiet bit as they are (R133;
log entry 64). -/
def widenBf16 (i : Nat) : Nat :=
  match fmtBF16.value i with
  | .nan .. => bits i 15 1 * 2 ^ 63 + 0x7FF * 2 ^ 52 + bits i 0 7 * 2 ^ 45
  | v => (fmtF64.convert ⟨1, false, false, false, false⟩ v).1

/-- A source pattern of a floating-point type: an immediate becomes a value by R133. -/
def State.fpSrc (s : State) (t : Ty) (o : Operand) (l : Nat) : Nat :=
  match o with
  | .imm i =>
    (match t with
     | .f32 => i.toNat * 2 ^ 16
     | .f64 => widenBf16 i.toNat
     | .p2f16 | .p2bf16 => i.toNat + i.toNat * 2 ^ 16
     | .e4m3 | .e5m2 | .e4m3u => i.toNat % 256
     | _ => i.toNat)
  | o => s.src t o l

/-- Elements of a lane that act as lanes of their own (R137). -/
def laneElems (t : Ty) : Nat := match t with | .p2f16 => 2 | .p2bf16 => 2 | _ => 1

/-- Element i of a lane's pattern. -/
def elemAt (t : Ty) (w i : Nat) : Nat := if laneElems t == 1 then w else bits w (16 * i) 16

/-- A result of each element, joined, their flags ORed (R137). -/
def byElem (t : Ty) (f : Nat → Res) : Res :=
  if laneElems t == 1 then f 0
  else ((f 0).1 % 2 ^ 16 + (f 1).1 % 2 ^ 16 * 2 ^ 16, (f 0).2 ||| (f 1).2)

/-- A form of class 2 of the sources A, B and D: `f` is given the format, the modes and the flushed patterns. -/
def fpOp (o : Op) (x : Args) (f : Fmt → Env → Nat → Nat → Nat → Res) (s : State) : Out :=
  fpForm o x (fun s env l =>
    let fm := fmtOf x.ty
    let a := s.fpSrc x.ty x.a l
    let b := s.fpSrc x.ty x.b l
    let d := s.fpSrc x.ty x.d l
    byElem x.ty (fun i => f fm env (fm.flushIn env (elemAt x.ty a i)) (fm.flushIn env (elemAt x.ty b i))
      (fm.flushIn env (elemAt x.ty d i)))) s

/-- FADD (R136). -/
def execFadd (x : Args) (s : State) : Out := fpOp .fadd x (fun f e a b _ => f.add e (f.value a) (f.value b)) s

/-- FSUB: a NaN operand keeps its sign (R125, R136). -/
def execFsub (x : Args) (s : State) : Out := fpOp .fsub x (fun f e a b _ => f.add e (f.value a) (f.value b).negate) s

/-- FMUL (R136). -/
def execFmul (x : Args) (s : State) : Out := fpOp .fmul x (fun f e a b _ => f.mulAdd e (f.value a) (f.value b) none) s

/-- FFMA: one rounding of a × b + d (R136). -/
def execFfma (x : Args) (s : State) : Out :=
  fpOp .ffma x (fun f e a b d => f.mulAdd e (f.value a) (f.value b) (some (f.value d))) s

/-- FMIN: the operand itself, which FTZOUT does not flush (R138; log entry 63). -/
def execFmin (x : Args) (s : State) : Out := fpOp .fmin x (fun f e a b _ => f.minMax e false (x.sub == 1) a b) s

/-- FMAX: the operand itself, which FTZOUT does not flush (R138; log entry 63). -/
def execFmax (x : Args) (s : State) : Out := fpOp .fmax x (fun f e a b _ => f.minMax e true (x.sub == 1) a b) s

/-- FABS clears the sign bit; FTZOUT does not flush what it gives (R140; log entry 63). -/
def execFabs (x : Args) (s : State) : Out := fpOp .fabs x (fun f _ a _ _ => (bits a 0 (f.eb + f.mb), 0)) s

/-- FNEG inverts the sign bit; FTZOUT does not flush what it gives (R140; log entry 63). -/
def execFneg (x : Args) (s : State) : Out :=
  fpOp .fneg x (fun f _ a _ _ => (f.signed (!bit a (f.eb + f.mb)) (bits a 0 (f.eb + f.mb)), 0)) s

/-- A comparison of CC8 with its NV (R141). -/
def cc8 (c : Nat) (a b : Fp) : Bool × Flags :=
  let un := a.isNan || b.isNan
  let sig := fIf (a.isSig || b.isSig) fNV
  let eq := !un && !a.lt b && !b.lt a
  match c with
  | 0 => (eq, sig)
  | 1 => (!eq, sig)
  | 2 => (!un && a.lt b, fIf un fNV)
  | 3 => (!un && !b.lt a, fIf un fNV)
  | 4 => (!un && b.lt a, fIf un fNV)
  | 5 => (!un && !a.lt b, fIf un fNV)
  | 6 => (un, sig)
  | _ => (!un, sig)

/-- FCMP: D is written as CMP writes it (R96, R141). -/
def execFcmp (x : Args) (s : State) : Out :=
  issue .fcmp x s (fun s1 =>
    let t := s1.now
    let env := envOf t.fpm x.rm.toNat
    let fm := fmtOf x.ty
    let rs : List (Nat × Res) := (formLanes t x).map (fun l =>
      let r := cc8 x.sub.toNat (fm.value (fm.flushIn env (s1.fpSrc x.ty x.a l)))
        (fm.value (fm.flushIn env (s1.fpSrc x.ty x.b l)))
      (l, (b2n r.1, r.2)))
    let t' := match x.d with
      | .k r _ =>
        t.setK r.toNat (((t.getK r.toNat).v &&& ~~~(t.members x)) |||
          maskOf ((rs.filter (fun (p : Nat × Res) => p.2.1 == 1)).map Prod.fst))
      | .s r _ _ => t.setS r.toNat (BitVec.ofNat 64 ((rs.head?.map (fun (p : Nat × Res) => p.2.1)).getD 0))
      | _ => t
    .next (s1.setHart s1.cur ((t'.raiseFlags (orFlags rs)).advance)))

/-- The class mask of a value (R142). -/
def classOf (f : Fmt) (w : Nat) : Nat :=
  match f.value w with
  | .nan _ g _ _ => if g then 2 ^ 8 else 2 ^ 9
  | .inf s => if s then 1 else 2 ^ 7
  | .num s n _ _ =>
    if n == 0 then (if s then 2 ^ 3 else 2 ^ 4)
    else if f.isSub w then (if s then 2 ^ 2 else 2 ^ 5)
    else (if s then 2 ^ 1 else 2 ^ 6)

/-- FCLASS (R142). -/
def execFclass (x : Args) (s : State) : Out := fpOp .fclass x (fun f _ a _ _ => (classOf f a, 0)) s

/-- FDIV (R136). -/
def execFdiv (x : Args) (s : State) : Out := fpOp .fdiv x (fun f e a b _ => f.div e (f.value a) (f.value b)) s

/-- FSQRT (R136). -/
def execFsqrt (x : Args) (s : State) : Out := fpOp .fsqrt x (fun f e a _ _ => f.sqrt e (f.value a)) s

/-- Rounding to an integral value of the same format (R143). -/
def Fmt.integral (f : Fmt) (env : Env) (w : Nat) : Res :=
  match f.value w with
  | .nan g sg p q => f.nanOf env false [.nan g sg p q]
  | .inf _ => (w, 0)
  | .num s n d e =>
    if n == 0 then (w, 0)
    else
      let (u, r, dd) := scaledBy n d e
      let k := roundMag env.rm s u r dd
      ((f.round ⟨2, false, false, false, false⟩ s k 1 0).1, fIf (r != 0) fNX)

/-- FRND (R143). -/
def execFrnd (x : Args) (s : State) : Out := fpOp .frnd x (fun f e a _ _ => f.integral e a) s

/-- a × 2^n rounded once (R144); beyond ±5000 the exponent no longer matters in any format. -/
def Fmt.scale (f : Fmt) (env : Env) (w : Nat) (n : Int) : Res :=
  match f.value w with
  | .nan g sg p q => f.nanOf env false [.nan g sg p q]
  | .inf _ => (w, 0)
  | .num s m d e => if m == 0 then (w, 0) else f.round env s m d (e + max (-5000) (min 5000 n))

/-- FSCL: n is the low 32 bits of B as I32 (R144). -/
def execFscl (x : Args) (s : State) : Out :=
  fpForm .fscl x (fun s env l =>
    let fm := fmtOf x.ty
    fm.scale env (fm.flushIn env (s.fpSrc x.ty x.a l)) (toSigned 32 (s.src .b32 x.b l))) s

end Sys2Proof.Machine
end

