-- ==== Sys2Proof/Machine/Convert.lean ====
section
/-! DEFINITION. Class 3's conversions: CVT, packed conversion with a block scale, bit-plane conversion, amax trackers
and scale derivation (07_float R148 to R155). -/
namespace Sys2Proof.Machine

/-- Whether a type is floating-point (R37). -/
def tyFloat (t : Ty) : Bool := [Ty.f16, .bf16, .f32, .f64, .e4m3, .e5m2, .e4m3u].contains t

/-- A source of CVT as a value after FTZIN, with the flag of an invalid E4M3U byte (R149). -/
def cvtSource (env : Env) (st : Ty) (w : Nat) : Fp × Flags :=
  if tyFloat st then
    if st == .e4m3u && bit w 7 then (.nan false false 0 0, fNV)
    else ((fmtOf st).value ((fmtOf st).flushIn env w), 0)
  else (.ofInt (interp st w), 0)

/-- A value in the destination type of CVT (R128, R129, R149). -/
def cvtResult (env : Env) (dt : Ty) (v : Fp) : Res :=
  if !tyFloat dt then toIntPattern env (tySigned dt) (tyBits dt) v
  else if dt == .e4m3u then
    if v.isNan then (0x7F, fIf v.isSig fNV)
    else if v.isZero then (0, 0)
    else if v.neg then (0, fNV)
    else fmtE4M3.convert env v
  else (fmtOf dt).convert env v

/-- CVT of one pattern (R148, R149). -/
def cvtOne (env : Env) (st dt : Ty) (w : Nat) : Res :=
  let (v, fl) := cvtSource env st w
  if fl != 0 then (if tyFloat dt then (fmtOf dt).canon else 0, fNV) else cvtResult env dt v

/-- CVT (R148). -/
def execCvt (x : Args) (s : State) : Out :=
  fpForm .cvt x (fun s env l =>
    let st := (tyOfCode x.sub.toNat).getD .none
    cvtOne env st x.ty (if tyFloat st then s.fpSrc st x.a l else s.src st x.a l)) s

/-! ### CVTP (R150) -/

/-- Bits of an element of a packed type (R116). -/
def packBits (t : Ty) : Nat := 32 / packCount t

/-- Whether the elements of a packed type are integers. -/
def packInt (t : Ty) : Bool := t == .p4i8 || t == .p8i4

/-- A value in a packed type's element (R128, R129). -/
def packElem (env : Env) (t : Ty) (v : Fp) : Res :=
  if packInt t then toIntPattern env true (packBits t) v else (fmtOf t).convert env v

/-- PACK of one F32 pattern under a scale (R125, R150). The scale zero sets DZ for an infinity too. -/
def packOne (env : Env) (t : Ty) (sc : Scale) (w : Nat) : Res :=
  let v := fmtF32.value (fmtF32.flushIn env w)
  let nanElem (fl : Flags) : Res :=
    if packInt t then (0, fNV) else (((fmtOf t).nanOf env false [v]).1, fl ||| fIf v.isSig fNV)
  match sc with
  | .invalid => if packInt t then (0, fNV) else (fmtOf t).nanOf env true [v]
  | .nan => nanElem 0
  | .zero =>
    if v.isNan then nanElem fNV
    else if v.isZero then (if packInt t then (0, fNV) else ((fmtOf t).canon, fNV))
    else
      let r := packElem env t (.inf v.neg)
      (r.1, r.2 ||| fDZ)
  | .value n e =>
    match v with
    | .num g m d h => packElem env t (.num g m (d * n) (h - e))
    | u => packElem env t u

/-- UNPACK of one element under a scale (R112, R125, R150). -/
def unpackOne (env : Env) (t : Ty) (sc : Scale) (w : Nat) : Res :=
  let v := if packInt t then Fp.ofInt (toSigned (packBits t) w) else (fmtOf t).value ((fmtOf t).flushIn env w)
  match sc with
  | .invalid => fmtF32.nanOf env true [v]
  | .nan => fmtF32.nanOf env false [v]
  | sc =>
    let (y, fl) := scaleValue v sc
    if fl != 0 then (fmtF32.canon, fl) else fmtF32.convert env y

/-- CVTP: PACK with SUB 0, UNPACK with SUB 1 (R150). The scale byte is a source of a floating-point format, on which FTZIN
acts (R124; log entry 63). -/
def execCvtp (x : Args) (s : State) : Out :=
  issue .cvtp x s (fun s1 =>
    let t := s1.now
    let env := envOf t.fpm x.rm.toNat
    let n := packCount x.ty
    let eb := packBits x.ty
    let scale (l : Nat) : Scale := scaleOf (if x.b == .none then 0x38 else fmtE4M3.flushIn env (s1.src .b32 x.b l % 256))
    let ls := lanesOf t.W (t.members x)
    if x.sub == 0 then
      let rs : List (Nat × Res) := ls.map (fun l =>
        let es := (List.range n).map (fun i => packOne env x.ty (scale l) (t.getV (regOf x.a + i) l).v.toNat)
        (l, sumN ((List.range n).map (fun i => ((es[i]?.map Prod.fst).getD 0) % 2 ^ eb * 2 ^ (eb * i))),
          es.foldl (fun f e => f ||| e.2) 0))
      .next (s1.setHart s1.cur (((t.wrAll .b32 x.d rs).raiseFlags (orFlags rs)).advance))
    else
      let rs : List (Nat × Nat × Res) := (ls.map (fun l => (List.range n).map (fun i =>
        (l, i, unpackOne env x.ty (scale l) (bits (t.getV (regOf x.a) l).v.toNat (eb * i) eb))))).flatten
      let t' := rs.foldl (fun u r => u.putV (regOf x.d + r.2.1) r.1 ⟨.full, BitVec.ofNat 32 r.2.2.1⟩) t
      .next (s1.setHart s1.cur ((t'.raiseFlags (rs.foldl (fun f r => f ||| r.2.2.2) 0)).advance)))

/-! ### CVTBP and CVFBP (R151, R152) -/

/-- Live lanes of processed words that are not members (R151). -/
def unconverged (t : Hart) (m : Mask) : Mask := processed t.W m &&& t.live &&& ~~~m

/-- The 128 bytes of word j of a register, lanes that are not live supplying zero (R151, R174). -/
def wordBytes (t : Hart) (r j : Nat) : List Nat :=
  ((List.range 32).map (fun i =>
    let l := 32 * j + i
    let v := if l < t.W && laneIn t.live l then (t.getV r l).v.toNat else 0
    (List.range 4).map (fun k => bits v (8 * k) 8))).flatten

/-- A bit-plane form over whole register words (R151). -/
def planeForm (o : Op) (x : Args) (f : Nat → List Nat → Nat → Nat) (s : State) : Out :=
  issue o x s (fun s1 =>
    let t := s1.now
    let m := t.members x
    let bad := unconverged t m
    if bad != 0 then s1.raise 4 0 0 bad
    else
      let ls := lanesOf t.W (processed t.W m &&& t.live)
      let words := (ls.map (· / 32)).eraseDups.map (fun j => (j, wordBytes t (regOf x.a) j))
      let val (l : Nat) : Nat :=
        let bs := ((words.find? (fun p => p.1 == l / 32)).map Prod.snd).getD []
        sumN ((List.range 4).map (fun k => f x.sub.toNat bs (4 * (l % 32) + k) * 2 ^ (8 * k)))
      let t' := ls.foldl (fun u l => u.putV (regOf x.d) l ⟨.full, BitVec.ofNat 32 (val l)⟩) t
      .next (s1.setHart s1.cur t'.advance))

/-- CVTBP: planes 7 to 8 − p of 128 elements, the other planes zero (R152). -/
def execCvtbp (x : Args) (s : State) : Out :=
  planeForm .cvtbp x (fun p bs i => if i < 16 * p then planeByte bs i else 0) s

/-- CVFBP: each element as a read of p planes gives it (R152). -/
def execCvfbp (x : Args) (s : State) : Out := planeForm .cvfbp x (fun p bs i => planeElem p bs i) s

/-! ### Amax trackers (R153 to R155) -/

/-- Whether an F32 pattern is a NaN. -/
def isNan32 (w : Nat) : Bool := (fmtF32.value w).isNan

/-- A tracker after a magnitude joins it (R153). -/
def amaxJoin (old m : Nat) : Nat :=
  if isNan32 old || isNan32 m then 0x7FC00000
  else if (fmtF32.value old).ltZ (fmtF32.value m) then m else old

/-- A source of AMAX as a magnitude in F32 after FTZIN (R153). -/
def amaxSource (env : Env) (t : Ty) (w : Nat) : Nat :=
  let f := fmtOf t
  let v := f.value (bits (f.flushIn env w) 0 (f.eb + f.mb))
  if v.isNan then 0x7FC00000 else (fmtF32.convert ⟨1, false, false, false, false⟩ v).1

/-- AMAX (R153): the update of the tracker is one step. -/
def execAmax (x : Args) (s : State) : Out :=
  issue .amax x s (fun s1 =>
    let t := s1.now
    let env := envOf t.fpm x.rm.toNat
    let ls := if kindOf x.a == .v then lanesOf t.W (t.members x) else [0]
    let n := x.sub.toNat
    let ms := ls.map (fun l => amaxSource env x.ty (s1.fpSrc x.ty x.a l))
    let y := BitVec.ofNat 32 (ms.foldl amaxJoin (amaxJoin (s1.amaxOf s1.cur n).toNat 0))
    let s2 := s1.setAmax s1.cur n y
    (s2.modNow (fun u => match x.d with | .s r _ _ => u.setS r.toNat (y.setWidth 64) | _ => u)).done)

/-- The scale byte that QSCL derives from a tracker by the steps of R155, which flush nothing (log entry 63); a result above 448 sets NX
with OF (R121; log entry 64). -/
def qscl (env : Env) (t : Ty) (tracker : Nat) : Res :=
  match fmtF32.value (bits tracker 0 31) with
  | .num _ n _ e =>
    if n == 0 then (0x38, 0)
    else
      let big := (fmtOf t).value (fmtOf t).maxCode
      match big with
      | .num _ m _ g =>
        let r := fmtE4M3.round { env with sat8 := true, ftzout := false } false n m (e - g)
        (max r.1 1, r.2 &&& ~~~fUF)
      | _ => (0x7F, fNV)
  | _ => (0x7F, fNV)

/-- QSCL (R155). -/
def execQscl (x : Args) (s : State) : Out :=
  issue .qscl x s (fun s1 =>
    let t := s1.now
    let r := qscl (envOf t.fpm x.rm.toNat) x.ty (s1.amaxOf s1.cur x.sub.toNat).toNat
    let rs := (formLanes t x).map (fun l => (l, r))
    let fl := if rs.isEmpty then 0 else r.2
    .next (s1.setHart s1.cur (((t.wrAll .b32 x.d rs).raiseFlags fl).advance)))

end Sys2Proof.Machine
end

