-- ==== Sys2Proof/Machine/Special.lean ====
section
/-! DEFINITION. Class 3's special functions, correctly rounded (07_float R145 to R147): each function is computed to
hundreds of bits in fixed point with 640 fraction bits, and rounded once. -/
namespace Sys2Proof.Machine

/-- Fraction bits of the fixed point. -/
def fixBits : Nat := 640

/-- One in fixed point. -/
def fixOne : Nat := 2 ^ fixBits

/-- Half of pi in fixed point, truncated. -/
def fixHalfPi : Nat := 7166664963380783727887865350899649915563065761450709164855436847124101877928951947489229989474418519168592235180394551152626136545096354515382124214146388240116051238163776092789750994438183638

/-- ln 2 in fixed point, truncated. -/
def fixLn2 : Nat := 3162442850577000144542819255265044123884198300717798677536341180773118696995660441338367561063358767323571958122307070903190084685977847936741854327993944726832264493303953239866611699627604094

/-- Sum of a power series in fixed point: `term` is the next term and `k` its number; each following term is the one
before times `y` over (k + 1) … (k + step). -/
def fixSeries (y step : Nat) : Nat → Nat → Nat → Nat
  | 0, _, _ => 0
  | fuel + 1, k, term =>
    term + fixSeries y step fuel (k + step)
      (term * y / fixOne / (if step == 1 then k + 1 else (k + 1) * (k + 2)))

/-- The terms of even and of odd place of an alternating series apart, as (sum of +, sum of −). -/
def fixAlternating (y : Nat) : Nat → Nat → Nat → Nat × Nat
  | 0, _, _ => (0, 0)
  | fuel + 1, k, term =>
    let r := fixAlternating y fuel (k + 2) (term * y / fixOne / ((k + 1) * (k + 2)))
    (term + r.2, r.1)

/-- exp of a fixed-point number below 1. -/
def fixExp (r : Nat) : Nat := fixSeries r 1 140 0 fixOne

/-- sin of a fixed-point number in [0, pi / 2]. -/
def fixSin (r : Nat) : Nat := let p := fixAlternating (r * r / fixOne) 80 1 r; p.1 - p.2

/-- cos of a fixed-point number in [0, pi / 2]. -/
def fixCos (r : Nat) : Nat := let p := fixAlternating (r * r / fixOne) 80 0 fixOne; p.1 - p.2

/-- The fraction bits of log2 of a number in [1, 2), given with `fixBits` fraction bits: one squaring a bit. -/
def fixLog : Nat → Nat → Nat → Nat
  | 0, _, acc => acc
  | k + 1, y, acc =>
    let z := y * y / fixOne
    if z ≥ 2 * fixOne then fixLog k (z / 2) (2 * acc + 1) else fixLog k z (2 * acc)

/-- n × 2^e in fixed point, truncated. -/
def toFix (n : Nat) (e : Int) : Nat :=
  if 0 ≤ e + fixBits then n * 2 ^ (e + fixBits).toNat else n / 2 ^ (-(e + fixBits)).toNat

/-- Round a fixed-point magnitude that is not exact: a one below its last bit stands for what was cut off. -/
def Fmt.roundFix (f : Fmt) (env : Env) (neg : Bool) (v : Nat) (e : Int) : Res :=
  f.round env neg (2 * v + 1) 1 (e - fixBits - 1)

/-- The seven special functions in the order of their opcodes. -/
inductive Fun where
  | rcp | rsq | exp2 | log2 | sin | cos | tanh
  deriving DecidableEq, Repr

/-- 2^a (R145): the whole part of a is the exponent. -/
def Fmt.exp2 (f : Fmt) (env : Env) (neg : Bool) (n : Nat) (e : Int) : Res :=
  let big : Nat := if e ≥ 12 then 2 ^ 12 else toFix n e / fixOne
  let whole : Nat := min big (2 ^ 12)
  let frac : Nat := if e ≥ 0 || whole == 2 ^ 12 then 0 else toFix n e % fixOne
  if frac == 0 then f.round env false 1 1 (if neg then -(whole : Int) else whole)
  else if neg then f.roundFix env false (fixExp ((fixOne - frac) * fixLn2 / fixOne)) (-(whole : Int) - 1)
  else f.roundFix env false (fixExp (frac * fixLn2 / fixOne)) whole

/-- log2 of a positive n × 2^e (R145). -/
def Fmt.logTwo (f : Fmt) (env : Env) (n : Nat) (e : Int) : Res :=
  let l := Nat.log2 n
  let w : Int := (l : Int) + e
  if n == 2 ^ l then f.roundInt env w 0 false
  else
    let fr := fixLog 300 (n * fixOne / 2 ^ l) 0
    -- the value is w + fr / 2^300 with more bits below
    let v : Int := 2 * (w * 2 ^ 300 + fr) + 1
    f.roundInt env v (-301) false

/-- sin or cos of ±n × 2^e (R145): quadrant and remainder by half pi. -/
def Fmt.sinCos (f : Fmt) (env : Env) (cosine neg : Bool) (n : Nat) (e : Int) : Res :=
  let x := toFix n e
  let q := x / fixHalfPi
  let r := x % fixHalfPi
  let quad := if cosine then (q + 1) % 4 else q % 4
  let v := if (quad % 2 == 1) then fixCos r else fixSin r
  f.roundFix env ((quad ≥ 2) != (neg && !cosine)) v 0

/-- tanh of ±n × 2^e (R145), by (exp 2x − 1) / (exp 2x + 1); from 64 on the result is 1 less what is cut off. -/
def Fmt.tanh (f : Fmt) (env : Env) (neg : Bool) (n : Nat) (e : Int) : Res :=
  if e ≥ 7 || toFix n e ≥ 64 * fixOne then f.roundFix env neg (fixOne - 1) 0
  else
    let y := toFix n (e + 1)
    let k := y / fixLn2
    let ex := fixExp (y % fixLn2) * 2 ^ k
    f.roundFix env neg ((ex - fixOne) * fixOne / (ex + fixOne)) 0

/-- A special function of a pattern: the special values of R147, else the exact result rounded by RNE (R145). -/
def Fmt.special (f : Fmt) (env : Env) (g : Fun) (w : Nat) : Res :=
  let v := f.value w
  let inf (s : Bool) (fl : Flags) : Res := (f.signed s f.infCode, fl)
  let zero (s : Bool) : Res := (f.signed s 0, 0)
  let one (s : Bool) : Res := f.round env s 1 1 0
  let bad : Res := f.nanOf env true [v]
  match v with
  | .nan .. => f.nanOf env false [v]
  | .inf s =>
    (match g with
     | .rcp => zero s
     | .rsq => if s then bad else zero false
     | .exp2 => if s then zero false else inf false 0
     | .log2 => if s then bad else inf false 0
     | .sin => bad
     | .cos => bad
     | .tanh => one s)
  | .num s n d e =>
    if n == 0 then
      (match g with
       | .rcp => inf s fDZ
       | .rsq => inf s fDZ
       | .exp2 => one false
       | .log2 => inf true fDZ
       | .sin => zero s
       | .cos => one false
       | .tanh => zero s)
    else
      (match g with
       | .rcp => f.round env s d n (-e)
       | .rsq => if s then bad else (let r := sqrtExact d n (-e); f.round env false r.1 1 r.2)
       | .exp2 => f.exp2 env s n e
       | .log2 => if s then bad else f.logTwo env n e
       | .sin => f.sinCos env false s n e
       | .cos => f.sinCos env true s n e
       | .tanh => f.tanh env s n e)

/-- Deliver registers later: D's lanes become EMPTY, and the values and flags arrive in a reply of their own (R69,
R135). -/
def State.laterOf (s : State) (tile : Option Nat) (ty : Ty) (d : Operand) (rs : List (Nat × Res)) : State :=
  let regs : List (Bool × Nat × Nat × Word × Bool) :=
    match d with
    | .s r _ _ =>
      (match rs with
       | [] => []
       | p :: _ => [(false, r.toNat, 0, extended ty (interp ty p.2.1), false)])
    | .v r _ _ => (rs.map (fun p =>
        let w := extended ty (interp ty p.2.1)
        if tyBits ty == 64 then [(true, r.toNat, p.1, w, false), (true, r.toNat + 1, p.1, w >>> 32, false)]
        else [(true, r.toNat, p.1, w, false)])).flatten
    | _ => []
  let (id, s1) := s.fresh
  let s2 := s1.modNow (fun t => regs.foldl (fun u g =>
    if g.1 then u.putV g.2.1 g.2.2.1 ⟨.empty, 0⟩ else u.putS g.2.1 ⟨.empty, 0⟩) t)
  s2.modMem (fun m => { m with replies := m.replies ++
    [{ id := id, hart := s.cur, regs := regs, flags := orFlags rs, stamp := 0, order := 0, scope := 0
       counts := none, group := 0, ok := true, dem := false, special := true, tile := tile }] })

/-- Results of a special function, which come later. -/
def State.later (s : State) (ty : Ty) (d : Operand) (rs : List (Nat × Res)) : State := s.laterOf none ty d rs

/-- A special function form: a long-latency producer (R135). -/
def specialForm (o : Op) (g : Fun) (x : Args) (s : State) : Out :=
  issue o x s (fun s1 =>
    let t := s1.now
    let env := (envOf t.fpm x.rm.toNat).nearest
    let f := fmtOf x.ty
    let rs := (formLanes t x).map (fun l => (l, f.special env g (f.flushIn env (s1.fpSrc x.ty x.a l))))
    (s1.later x.ty x.d rs).done)

/-- FRCP (R145). -/
def execFrcp (x : Args) (s : State) : Out := specialForm .frcp .rcp x s
/-- FRSQ (R145). -/
def execFrsq (x : Args) (s : State) : Out := specialForm .frsq .rsq x s
/-- FEXP2 (R145). -/
def execFexp2 (x : Args) (s : State) : Out := specialForm .fexp2 .exp2 x s
/-- FLOG2 (R145). -/
def execFlog2 (x : Args) (s : State) : Out := specialForm .flog2 .log2 x s
/-- FSIN (R145). -/
def execFsin (x : Args) (s : State) : Out := specialForm .fsin .sin x s
/-- FCOS (R145). -/
def execFcos (x : Args) (s : State) : Out := specialForm .fcos .cos x s
/-- FTANH (R145). -/
def execFtanh (x : Args) (s : State) : Out := specialForm .ftanh .tanh x s

end Sys2Proof.Machine
end

