-- ==== Sys2Proof/Machine/Matrix.lean ====
section
/-! DEFINITION. The matrix engine: chucks, the feed, exact accumulation, chains and drains (14_matrix), and LDACC and
STACC (11_access R258 to R260). -/
namespace Sys2Proof.Machine

/-! ### Cells (R117, R118) -/

/-- The tag after two (R118): 0 FINITE, 1 +INF, 2 −INF, 3 NAN. -/
def combineTag (a b : BitVec 2) : BitVec 2 :=
  if a == 0 then b else if b == 0 then a else if a == b then a else 3

/-- Whether |m × 2^e| is at least 2^k. -/
def magAtLeast (m e : Int) (k : Nat) : Bool := decide (2 ^ k * 2 ^ (-e).toNat ≤ m.natAbs * 2 ^ e.toNat)

/-- floor(m × 2^e × 2^64) (R118). -/
def toFixed (m e : Int) : Int :=
  if 0 ≤ e + 64 then m * 2 ^ (e + 64).toNat else m / (2 ^ (-(e + 64)).toNat : Int)

/-- A cell takes the finite contribution m × 2^e (R118). -/
def Cell.take (c : Cell) (m e : Int) : Cell :=
  if magAtLeast m e 63 then { c with tag := combineTag c.tag (if m < 0 then 2 else 1) }
  else { c with x := c.x + BitVec.ofInt 128 (toFixed m e) }

/-- A cell takes a NaN contribution (R118). -/
def Cell.takeNan (c : Cell) : Cell := { c with tag := 3 }

/-- X / 2^64 of a finite cell, divided by a scale n × 2^e, as a value (R117, R130). -/
def Cell.over (c : Cell) (n : Nat) (e : Int) : Fp := .num (decide (c.x.toInt < 0)) c.x.toInt.natAbs n (-64 - e)

/-- A cell in a floating-point format, divided by a scale (R130). -/
def Cell.toFmt (c : Cell) (f : Fmt) (env : Env) (n : Nat) (e : Int) : Nat :=
  if c.tag == 3 then f.canon
  else if c.tag == 0 then (f.convert env (c.over n e)).1
  else (f.infinity env (c.tag == 2)).1

/-- A cell as a BP8 pattern, divided by a scale (R130). -/
def Cell.toBp (c : Cell) (env : Env) (n : Nat) (e : Int) : Nat :=
  if c.tag == 0 then (toIntPattern env true 8 (c.over n e)).1
  else if c.tag == 1 then 127 else if c.tag == 2 then 128 else 0

/-- What STACC.F32 writes (R259). -/
def cellOfF32 (w : Nat) : Cell :=
  match fmtF32.value w with
  | .nan .. => ⟨0, 3⟩
  | .inf g => ⟨0, if g then 2 else 1⟩
  | .num g n _ e =>
    let m := signedSig g n
    if magAtLeast m e 63 then ⟨0, if g then 2 else 1⟩ else ⟨BitVec.ofInt 128 (toFixed m e), 0⟩

/-! ### Tiles and their images (R327, R350, R205) -/

/-- A cell of a tile by its index (R327). -/
def Tile.cell (t : Tile) (i : Nat) : Cell := sget Cell.zero t.cells i

/-- Write a cell of a tile. -/
def Tile.setCell (t : Tile) (i : Nat) (c : Cell) : Tile := { t with cells := sset Cell.zero t.cells i c }

/-- The row state of a row (R350). -/
def Tile.row (t : Tile) (r : Nat) : RowState := sget RowState.init t.rows r

/-- Write the row state of a row. -/
def Tile.setRow (t : Tile) (r : Nat) (v : RowState) : Tile := { t with rows := sset RowState.init t.rows r v }

/-- A tile whose cells are given by a function of their index; no cell is listed at its cleared value. -/
def Tile.ofCells (t : Tile) (f : Nat → Cell) : Tile :=
  { t with cells := (List.range 8192).filterMap (fun i => if f i = Cell.zero then none else some (i, f i)) }

/-- 8-byte words of a tile's image: cells, tags, row state (R205, R258). -/
def tileWords : Nat := 16768

/-- A word of a tile's image. -/
def Tile.word (t : Tile) (w : Nat) : Nat :=
  if w < 16384 then bits (t.cell (w / 2)).x.toNat (64 * (w % 2)) 64
  else if w < 16640 then
    sumN ((List.range 32).map (fun j => (t.cell (32 * (w - 16384) + j)).tag.toNat * 2 ^ (2 * j)))
  else
    let r := t.row ((w - 16640) / 2)
    if w % 2 == 0 then r.m.toNat + r.l.toNat * 2 ^ 32 else r.c.toNat

/-- Write a word of a tile's image. -/
def Tile.setWord (t : Tile) (w v : Nat) : Tile :=
  if w < 16384 then
    let c := t.cell (w / 2)
    t.setCell (w / 2) { c with x := BitVec.ofNat 128 (putBits c.x.toNat (64 * (w % 2)) 64 v) }
  else if w < 16640 then
    (List.range 32).foldl (fun u j =>
      let i := 32 * (w - 16384) + j
      u.setCell i { u.cell i with tag := BitVec.ofNat 2 (bits v (2 * j) 2) }) t
  else
    let i := (w - 16640) / 2
    let r := t.row i
    if w % 2 == 0 then t.setRow i { r with m := BitVec.ofNat 32 v, l := BitVec.ofNat 32 (v / 2 ^ 32) }
    else t.setRow i { r with c := BitVec.ofNat 32 v }

/-- A tile of a crew (R226). -/
def Crew.tile (c : Crew) (t : Nat) : Tile := sget Tile.init c.tiles t

/-- Write a tile of a crew. -/
def Crew.setTile (c : Crew) (t : Nat) (v : Tile) : Crew := { c with tiles := sset Tile.init c.tiles t v }

/-- A chuck of a crew (R226). -/
def Crew.chuck (c : Crew) (q : Nat) : Chuck := sget Chuck.init c.chucks q

/-- Write a chuck of a crew. -/
def Crew.setChuck (c : Crew) (q : Nat) (v : Chuck) : Crew := { c with chucks := sset Chuck.init c.chucks q v }

/-! ### Operands (R322, R323, R324, R328, R329) -/

/-- Bytes of an element of an operand format: 0 BP, 1 I8, 2 E4M3, 3 E5M2, 4 F16, 5 BF16 (R328). -/
def fmtSize (f : Nat) : Nat := if f ≥ 4 then 2 else 1

/-- The floating-point format of an operand format code (R328). -/
def fmtFloat (f : Nat) : Fmt := match f with | 2 => fmtE4M3 | 3 => fmtE5M2 | 4 => fmtF16 | _ => fmtBF16

/-- The number of bytes at an offset of a crew's scratchpad. -/
def Crew.scratchAt (c : Crew) (a n : Nat) : Nat := ofBytes ((List.range n).map (fun i => sget 0 c.scratch (a + i)))

/-- Operand bytes of an operation in flight, from its operands (offset, bytes, bytes of one block): each block as it is now or
as the team's operand fence left it (R288, R344; log entry 70). -/
def Crew.operand (c : Crew) (seen : Sparse Byte) (tick : Nat) (es : List (Nat × Nat × Nat)) (a : Nat) : Byte :=
  match es.find? (fun e => e.1 ≤ a && a < e.1 + e.2.1) with
  | some e => if Config.operandOld tick (e.1 + (a - e.1) / e.2.2 * e.2.2) then sget 0 seen a else sget 0 c.scratch a
  | none => sget 0 c.scratch a

/-- Element `i` of an operand at an offset, reading p planes of a BP block (R114, R115, R331, R334). -/
def element (rd : Nat → Byte) (f off p i : Nat) : Fp :=
  match f with
  | 0 =>
    let b := off + i / 128 * 128
    .ofInt (toSigned 8 (sumN ((List.range 8).map (fun q =>
      if q < 8 - p then 0 else b2n (bit (rd (b + (7 - q) * 16 + i % 128 / 8)).toNat (i % 8)) * 2 ^ q))))
  | 1 => .ofInt (toSigned 8 (rd (off + i)).toNat)
  | _ => (fmtFloat f).value (ofBytes ((List.range (fmtSize f)).map (fun j => rd (off + i * fmtSize f + j))))

/-- floor(v × 2^k) of a finite value; 0 of another. -/
def Fp.floorAt (v : Fp) (k : Int) : Int :=
  match v with
  | .num g n d e =>
    let (u, r, _) := scaledBy n d (e + k)
    if g then (if r == 0 then -(u : Int) else -(u : Int) - 1) else u
  | _ => 0

/-- Whether a value is a NaN or an infinity. -/
def Fp.nonFinite (v : Fp) : Bool := v.isNan || v.isInf

/-- floor(log2) of the greatest magnitude among the finite values that are no zero. -/
def alignExp (vs : List Fp) : Option Int :=
  (vs.filterMap (fun v => match v with | .num _ n d e => if n == 0 then none else some (magLog n d + e) | _ => none)).max?

/-- Align a group to P bits (R322, R323): an integer for each value, and the exponent they share. -/
def alignGroup (P : Int) (vs : List Fp) : List Int × Int :=
  match alignExp vs with
  | none => (vs.map (fun _ => 0), 0)
  | some e => (vs.map (fun v => v.floorAt (P - 2 - e)), e - P + 2)

/-- Whether a format is an integer format, taken exactly. -/
def fmtExact (f : Nat) : Bool := f < 2

/-- The values of one column or group: aligned integers, their exponent, and whether any is not finite. -/
def alignOperand (f : Nat) (P : Int) (vs : List Fp) : List Int × Int × Bool :=
  if fmtExact f then (vs.map (fun v => v.floorAt 0), 0, false)
  else
    let r := alignGroup P vs
    (r.1, r.2, vs.any Fp.nonFinite)

/-- kc of a format block (R325). -/
def FmtBlock.kc (f : FmtBlock) : Nat := 2 ^ f.kclg
/-- nc of a format block (R325). -/
def FmtBlock.nc (f : FmtBlock) : Nat := 32 / f.kc
/-- K of a format block (R326). -/
def FmtBlock.kTotal (f : FmtBlock) : Nat := 128 * f.kc
/-- L of a format block (R328). -/
def FmtBlock.len (f : FmtBlock) : Nat := 128 / 2 ^ f.block
/-- G_A (R329). -/
def FmtBlock.ga (f : FmtBlock) : Nat := f.kTotal / f.len
/-- G_B (R329). -/
def FmtBlock.gb (f : FmtBlock) : Nat := 128 / f.len
/-- Q (R329). -/
def FmtBlock.subs (f : FmtBlock) : Nat := if f.red then 16 else 32

/-- A scale byte of an array, 1.0 where there is none (R329). -/
def scaleIn (rd : Nat → Byte) (arr off : Nat) : Scale :=
  if arr == 0 then .value 1 0 else scaleOf (rd (arr + off)).toNat

/-- Whether a scale makes a contribution NaN (R324). -/
def Scale.isBad : Scale → Bool
  | .nan => true
  | .invalid => true
  | _ => false

/-- A scale as m × 2^e; zero for the scale zero. -/
def Scale.parts : Scale → Int × Int
  | .value n e => (n, e)
  | _ => (0, 0)

/-- One row of A in one k-block: whether some contribution of it is NaN, and its terms (kl, m, e) that are not zero. -/
structure FeedRow where
  nan : Bool
  terms : List (Nat × Int × Int)

/-- The feed of a row r and k-block i of MMA number m (R323, R324). -/
def feedOf (rd : Nat → Byte) (f : FmtBlock) (m off : Nat) (transA : Bool) (r i : Nat) : FeedRow :=
  let vs := (List.range 128).map (fun kl =>
    element rd f.afmt off f.aplanes (if transA then (128 * i + kl) * 64 + r else r * f.kTotal + 128 * i + kl))
  let (as_, e, bad) := alignOperand f.afmt f.aplanes vs
  let sc := (List.range 128).map (fun kl => scaleIn rd f.ascale (m * 64 * f.ga + r * f.ga + (128 * i + kl) / f.len))
  if bad then ⟨true, []⟩
  else ⟨sc.any Scale.isBad, (List.range 128).filterMap (fun kl =>
    let a := as_[kl]?.getD 0
    let q := sc[kl]?.getD .nan
    if a == 0 || q.isBad then none else some (kl, a * q.parts.1, e + q.parts.2))⟩

/-! ### Chucks (R321, R322) -/

/-- A cell of a chuck. -/
def Chuck.cell (k : Chuck) (i : Nat) : Int := (sget 0 k.cells i).toInt

/-- A weight exponent of a chuck. -/
def Chuck.exp (k : Chuck) (n : Nat) : Int := (sget 0 k.exps n).toInt

/-- Whether a column held a NaN or an infinity. -/
def Chuck.nanAt (k : Chuck) (n : Nat) : Bool := k.nancol.getLsbD n

/-- The block that CHLD forms from a source (R322, R331). -/
def loadChuck (rd : Nat → Byte) (f src : Nat) (transposed : Bool) : Chuck :=
  let cols := (List.range 128).map (fun n => alignOperand f 12 ((List.range 128).map (fun kl =>
    element rd f src 8 (if transposed then n * 128 + kl else kl * 128 + n))))
  let at_ (n : Nat) : List Int × Int × Bool := cols[n]?.getD ([], 0, false)
  { cells := (List.range 16384).filterMap (fun i =>
      let v := BitVec.ofInt 12 ((at_ (i % 128)).1[i / 128]?.getD 0)
      if v = 0 then none else some (i, v))
    state := 1, fmt := BitVec.ofNat 4 f
    nancol := BitVec.ofNat 128 (sumN ((List.range 128).map (fun n => b2n (at_ n).2.2 * 2 ^ n)))
    exps := (List.range 128).filterMap (fun n =>
      let v := BitVec.ofInt 12 (at_ n).2.1
      if v = 0 then none else some (n, v)) }

/-- The format code of a type (R331). -/
def fmtCode : Ty → Nat
  | .bp => 0 | .i8 => 1 | .e4m3 => 2 | .e5m2 => 3 | .f16 => 4 | _ => 5

/-! ### Contributions of one MMA (R326) -/

/-- Which chuck serves sub-block q for the primary or the shadow tile (R325). -/
def FmtBlock.chuckOf (f : FmtBlock) (q : Nat) (shadow : Bool) : Nat := if f.red then 2 * q + b2n shadow else q

/-- The contributions of sub-block (i, j) to cell (r, c), added to a cell: the cell, whether one was NaN, whether one
reached 2^42 (R326, R336). `soft` tells that the chuck failed its check (R346). -/
def contribute (rd : Nat → Byte) (f : FmtBlock) (m : Nat) (row : FeedRow) (k : Chuck) (soft : Bool) (q col : Nat) (cell : Cell) :
    Cell × Bool × Bool :=
  let sc (kl : Nat) : Scale := scaleIn rd f.bscale (m * f.subs * 128 * f.gb + (q * 128 + col) * f.gb + kl / f.len)
  if soft || k.nanAt col then (cell.takeNan, true, false)
  else
    let nan := row.nan || (List.range f.gb).any (fun g => (sc (g * f.len)).isBad)
    let r := row.terms.foldl (fun (acc : Cell × Bool) t =>
      let s := sc t.1
      let b := k.cell (t.1 * 128 + col)
      if s.isBad || b == 0 then acc
      else
        let mm := t.2.1 * b * s.parts.1
        let e := t.2.2 + k.exp col + s.parts.2
        (acc.1.take mm e, acc.2 || magAtLeast mm e 42)) (cell, false)
    (if nan then r.1.takeNan else r.1, nan, r.2)

/-- What one MMA does to one tile: the tile, and the status bits it adds (R336). `j` is the output tile of the
arrangement, `rows` the feed by row and k-block. -/
def Crew.mmaTile (c : Crew) (rd : Nat → Byte) (f : FmtBlock) (m : Nat) (rows : Nat → Nat → FeedRow) (soft : Nat → Bool) (lost : Nat → Bool)
    (shadow : Bool) (j : Nat) (t : Tile) : Tile × Nat :=
  let cells := (List.range 8192).map (fun n =>
    (List.range f.kc).foldl (fun (acc : Cell × Bool × Bool) i =>
      let q := i + f.kc * j
      let ch := f.chuckOf q shadow
      let r := contribute rd f m (rows (n / 128) i) (c.chuck ch) (soft ch) q (n % 128) acc.1
      (r.1, acc.2.1 || r.2.1, acc.2.2 || r.2.2)) (t.cell n, false, false))
  let bad := (List.range 8192).any lost
  let chk := (List.range f.kc).any (fun i => soft (f.chuckOf (i + f.kc * j) shadow))
  let inv := (List.range f.kc).any (fun i =>
    let q := i + f.kc * j
    (f.bscale != 0 && (List.range (128 * f.gb)).any (fun g =>
      scaleIn rd f.bscale (m * f.subs * 128 * f.gb + q * 128 * f.gb + g) == .invalid)) ||
    (f.ascale != 0 && (List.range 64).any (fun r => (List.range f.gb).any (fun g =>
      scaleIn rd f.ascale (m * 64 * f.ga + r * f.ga + i * f.gb + g) == .invalid))))
  let t' := t.ofCells (fun n => let v := (cells[n]?.map Prod.fst).getD Cell.zero; if lost n then v.takeNan else v)
  (t', 2 * b2n (cells.any (fun v => v.2.1)) + 4 * b2n inv + 8 * b2n (cells.any (fun v => v.2.2)) + 32 * b2n chk + 64 * b2n bad)

/-- A status word with further bits for a tile; FIRST is named by the first of bits 1 to 7 (R336). -/
def addStatus (st bits_ tile : Nat) : Nat :=
  if bits_ % 256 / 2 != 0 && st % 256 / 2 == 0 then (st ||| bits_) % 256 + tile * 256 else st ||| bits_

/-- Output tiles of a chain with their place in the arrangement, the primary ones first (R325). -/
def Chain.tiles (ch : Chain) : List (Nat × Nat × Bool) :=
  let half := if ch.fmt.red then ch.fmt.nc / 2 else ch.fmt.nc
  (List.range ch.fmt.nc).map (fun u => (ch.tile + u, u % half, decide (half ≤ u)))

/-- Whether a chain writes a tile (R325). -/
def Chain.writes (ch : Chain) (t : Nat) : Bool := ch.tile ≤ t && t < ch.tile + ch.fmt.nc

/-- The scratchpad operands of MMA number m of a chain with A at an offset: A, its scales and those of B (R329, R334). -/
def FmtBlock.operands (f : FmtBlock) (m off : Nat) : List (Nat × Nat × Nat) :=
  [(off, 64 * f.kTotal * fmtSize f.afmt, 128 * fmtSize f.afmt)] ++
  (if f.ascale == 0 then [] else [(f.ascale + m * 64 * f.ga, 64 * f.ga, 128)]) ++
  (if f.bscale == 0 then [] else [(f.bscale + m * f.subs * 128 * f.gb, f.subs * 128 * f.gb, 128)])

/-- Count accumulator cells that were corrected, and those that were lost (R239, R346, R476). -/
def State.accCounts (s : State) (lost : Nat) : State := (s.bumpBy 0x46 (Config.accCorrected s.tick)).bumpBy 0x47 lost

/-- Perform the oldest queued MMA of a chain of a crew. -/
def State.runMma (s : State) (c : Crew) (ch : Chain) (q : QMma) : State :=
  let rd := c.operand q.seen s.tick (ch.fmt.operands q.m q.off)
  let soft (q : Nat) : Bool := Config.chuckSoft s.tick q && q < 32
  let rows := (List.range 64).map (fun r => (List.range ch.fmt.kc).map (fun i => feedOf rd ch.fmt q.m q.off q.transposed r i))
  let rowAt (r i : Nat) : FeedRow := ((rows[r]?.getD [])[i]?).getD ⟨false, []⟩
  let done := ch.tiles.map (fun p =>
    (p.1, c.mmaTile rd ch.fmt q.m rowAt soft (Config.accSoft s.tick p.1) p.2.2 p.2.1 (c.tile p.1)))
  let bad := (List.range 32).filter soft
  let status := done.foldl (fun st p => addStatus st p.2.2 p.1) ch.status
  let ch' : Chain := { ch with status := status, queue := ch.queue.drop 1 }
  let c1 := done.foldl (fun (k : Crew) p => k.setTile p.1 p.2.1) c
  let c2 := bad.foldl (fun (k : Crew) q => k.setChuck q { k.chuck q with state := 2 }) c1
  let lost := sumN (done.map (fun p => ((List.range 8192).filter (Config.accSoft s.tick p.1)).length))
  let s1 := s.modCrew c.key (fun _ => { c2 with chains := c.chains.map (fun x => if x == ch then ch' else x) })
  (s1.bumpBy 0x45 bad.length).accCounts lost

/-- MMA_COMPLETION: the oldest queued MMA of a crew adds its contributions; it reads its operands as they are then (R326,
R337, R344). -/
def execMmaCompletion (crew : Nat) (s : State) : Out :=
  match s.crew? crew with
  | none => .next s
  | some c =>
    match c.chains.find? (fun ch => !ch.queue.isEmpty) with
    | some ch => (match ch.queue with | q :: _ => .next (s.runMma c ch q) | [] => .next s)
    | none => .next s

/-- Report a status of a crew that has exited (R348, R358, R402). -/
def State.matrixStatus (s : State) (c : Crew) (bar st : Nat) : State :=
  if c.draining && st % 256 / 2 != 0 then s.crewFault c.key 0x21 0 false (st + bar * 2 ^ 32) 0 else s

/-- CHAIN_COMPLETION: a closed chain whose MMAs are done compares its shadow tiles, reports its status and arrives (R335,
R345). -/
def execChainCompletion (crew : Nat) (s : State) : Out :=
  match s.crew? crew with
  | none => .next s
  | some c =>
    match c.chains.find? (fun ch => ch.closed && ch.queue.isEmpty) with
    | none => .next s
    | some ch =>
      let half := ch.fmt.nc / 2
      let diff := if ch.fmt.red then
          (List.range half).filter (fun j => (c.tile (ch.tile + j)).cells != (c.tile (ch.tile + half + j)).cells)
        else []
      let st := (diff.foldl (fun st j => addStatus st 16 (ch.tile + j)) ch.status) ||| 1
      let s1 := s.modCrew crew (fun k => { k with chains := k.chains.filter (· != ch) })
      .next ((s1.engineArrive crew ch.bar st (bits st 8 8)).matrixStatus c ch.bar st)

/-! ### Interlocks (R209, R260, R349, R357) -/

/-- Whether a tile is under the open chain. -/
def Crew.openOn (c : Crew) (t : Nat) : Bool := c.chains.any (fun ch => !ch.closed && ch.writes t)

/-- Whether a chain still completing writes a tile. -/
def Crew.closingOn (c : Crew) (t : Nat) : Bool := c.chains.any (fun ch => ch.closed && ch.writes t)

/-- Operations of a crew that are not complete. -/
def State.crewOps (s : State) (c : Crew) : List AOp := s.run.ops.filter (fun o => o.crew == c.key)

/-- Whether a drain has still to read a tile. -/
def State.drainOn (s : State) (c : Crew) (t : Nat) : Bool :=
  (s.crewOps c).any (fun o => match o.kind with | .drain u .. => u == t | _ => false)

/-- Whether an MSMX or MSCL that is not complete names a tile. -/
def State.softmaxOn (s : State) (c : Crew) (t : Nat) : Bool :=
  (s.crewOps c).any (fun o => match o.kind with
    | .msmx u _ b => u == t || b.otile == t
    | .mscl u _ => u == t
    | _ => false)

/-- Whether a form that changes a tile must wait for what came before it (R349, R357). -/
def State.tileBusy (s : State) (c : Crew) (t : Nat) : Bool := c.closingOn t || s.drainOn c t || s.softmaxOn c t

/-- Whether an LDACC of a tile below `n` has still to return to a team of a crew (R209). -/
def State.ldaccOut (s : State) (c : Crew) (n : Nat) : Bool :=
  s.mem.replies.any (fun r => c.harts.contains r.hart && (match r.tile with | some t => decide (t < n) | none => false))

/-- Whether an MMA is queued on a crew, so that its chucks are still read (R331). -/
def Crew.mmaQueued (c : Crew) : Bool := c.chains.any (fun ch => !ch.queue.isEmpty)

/-- Whether a load of a chuck is under way. -/
def State.chuckLoading (s : State) (c : Crew) (q : Nat) : Bool :=
  (s.crewOps c).any (fun o => match o.kind with | .chuckLoad u .. => u == q | _ => false)

/-- MATRIX-STATE with its report (R347). -/
def State.matrixState (s : State) (reason unit_ : Nat) : Out := s.raise 0xF 0 (reason + unit_ * 256) 0

/-- Whether a form of class 8 accesses global memory, and so waits for an acquire of its team (R279, R341, R354). -/
def matGlobal (o : Op) : Bool := o == .mdrn || o == .msmx

/-- A form of class 8 (R330): its team must have converged. -/
def matForm (o : Op) (x : Args) (s : State) (f : State → Crew → Out) : Out :=
  issue o x s (fun s1 =>
    let t := s1.now
    if matGlobal o && s1.acqPending s1.cur then s1.block .form
    else if t.exec != t.live then s1.raise 4 0 0 (t.live &&& ~~~t.exec)
    else match s1.crewOf s1.cur with
      | some c => f s1 c
      | none => s1.done)

/-- The offset of a scratchpad operand whose `n` bytes must lie in the program region, or the trap it raises (R330). -/
def State.matOffset (s : State) (slot : Nat) (o : Operand) (off al n : Nat) : Except Out Nat :=
  let size := (s.kernelOf s.cur).scratch
  if (kindOf o == .s || al > 16) && off % al != 0 then .error (s.raise 7 off al 1)
  else if size ≤ off then .error (s.raise 0x17 0 (operandReport s.cur slot o) 0)
  else if size < off + n then .error (s.raise 8 (size + 2 ^ 63) 0 1)
  else .ok off

/-- The offset that a SPA or S operand names. -/
def State.spaOf (s : State) (o : Operand) : Nat := match o with | .spa n => n.toNat * 16 | _ => s.scalar o

/-- The tile of an ACC operand. -/
def accOf : Operand → Nat
  | .acc n => n.toNat
  | _ => 0

/-- The chuck of a CHK operand. -/
def chkOf : Operand → Nat
  | .chk n => n.toNat
  | _ => 0

/-! ### Chuck forms -/

/-- The scratchpad as a team's latest operand fence left it (R344). -/
def Crew.fenced (c : Crew) (hart : Nat) : Sparse Byte := sget [] c.operands hart

/-- A team's operand fence: what its later matrix forms find is at least as new (R344). -/
def Crew.fence (c : Crew) (hart : Nat) : Crew := { c with operands := sset [] c.operands hart c.scratch }

/-- The block that a CHLD loads when it completes (R288, R331). -/
def Crew.loadedChuck (c : Crew) (tick : Nat) (seen : Sparse Byte) (f src : Nat) (transposed : Bool) : Chuck :=
  loadChuck (c.operand seen tick [(src, 16384 * fmtSize f, 128 * fmtSize f)]) f src transposed

/-- CHLD (R331). -/
def execChld (x : Args) (s : State) : Out :=
  matForm .chld x s (fun s1 c =>
    let f := fmtCode x.ty
    let q := chkOf x.a
    match s1.matOffset 3 x.b (s1.spaOf x.b) 16 (16384 * fmtSize f) with
    | .error o => o
    | .ok off =>
      if c.mmaQueued || s1.chuckLoading c q then s1.block .form
      else
        let (_, s2) := s1.startOp (.chuckLoad q off x.ty (x.sub == 1) (c.fenced s1.cur)) 4 0 x.d none 0
        (s2.modCrew c.key (fun k => k.setChuck q { k.chuck q with state := 0 })).done)

/-- CHINV (R332). -/
def execChinv (x : Args) (s : State) : Out :=
  matForm .chinv x s (fun s1 c =>
    let q := chkOf x.a
    if c.mmaQueued || s1.chuckLoading c q then s1.block .form
    else (s1.modCrew c.key (fun k => k.setChuck q { k.chuck q with state := 0, nancol := 0, exps := [] })).done)

/-- CHUCK_LOAD_COMPLETION: the source is read, the cells formed and the future completed with status 0; a cancelled load
leaves the chuck EMPTY (R322, R331, R397). -/
def execChuckLoadCompletion (crew op : Nat) (s : State) : Out :=
  match s.crew? crew, s.op? op with
  | some c, some o =>
    match o.kind with
    | .chuckLoad q src ty transposed seen =>
      if o.crew != crew then .next s
      else
        let s1 := if o.cancelled then s
          else s.modCrew crew (fun k => k.setChuck q (c.loadedChuck s.tick seen (fmtCode ty) src transposed))
        .next (s1.completeOp o 0)
    | _ => .next s
  | _, _ => .next s

/-! ### Chains -/

/-- The format block of 32 bytes (R328). -/
def fmtBlockOf (v : Nat) : FmtBlock :=
  ⟨bits v 0 4, bits v 4 4, bits v 8 4, bits v 12 2, bits v 14 3, bit v 17, bits v 32 32, bits v 64 32⟩

/-- Check 6 of MCB on a format block (R328, R333). -/
def fmtBlockOk (v scratch : Nat) : Bool :=
  let f := fmtBlockOf v
  let planes := match f.afmt with
    | 0 => 2 ≤ f.aplanes && f.aplanes ≤ 8
    | 1 => f.aplanes == 8
    | 2 => f.aplanes == 10
    | 3 => f.aplanes == 10
    | _ => f.aplanes == 12
  f.afmt ≤ 5 && f.bfmt ≤ 5 && planes && f.block != 3 && f.kclg ≤ 5 && bits v 18 14 == 0 && bits v 96 160 == 0 &&
  f.nc ≤ 16 && (!f.red || f.nc ≥ 2) && (f.ascale == 0 || f.ascale < scratch) && (f.bscale == 0 || f.bscale < scratch)

/-- MCB (R333). -/
def execMcb (x : Args) (s : State) : Out :=
  matForm .mcb x s (fun s1 c =>
    if c.chains.any (fun ch => !ch.closed) then s1.matrixState 2 0
    else match s1.matOffset 2 x.a (s1.spaOf x.a) 32 32 with
      | .error o => o
      | .ok off =>
        let v := c.scratchAt off 32
        let f := fmtBlockOf v
        let t := accOf x.d
        if !fmtBlockOk v c.kernel.scratch then s1.matrixState 6 0
        else if c.kernel.chucks < 32 || c.kernel.acc < t + f.nc then
          s1.matrixState 8 (Config.openUnit s1.tick % 512)
        else if (List.range f.nc).any (fun j => s1.tileBusy c (t + j)) then s1.block .form
        else
          let ch : Chain := ⟨t, f, barOf x.b, 0, [], 0, false⟩
          let half := f.nc / 2
          let link (k : Crew) (j : Nat) : Crew :=
            let k1 := k.setTile (t + j) { k.tile (t + j) with shadow := some (t + half + j) }
            k1.setTile (t + half + j) { k1.tile (t + half + j) with shadow := none }
          (s1.modCrew c.key (fun k =>
            let k1 : Crew := { k.fence s1.cur with chains := k.chains ++ [ch] }
            if f.red then (List.range half).foldl link k1 else k1)).done)

/-- The first offset beyond the program region that an extent reaches. -/
def beyond (size off n : Nat) : Option Nat := if size < off + n then some (max off size) else none

/-- MMA (R334): queued behind the MMAs of the core, 8 at most. -/
def execMma (x : Args) (s : State) : Out :=
  matForm .mma x s (fun s1 c =>
    match c.chains.find? (fun ch => !ch.closed) with
    | none => s1.matrixState 1 0
    | some ch =>
      let f := ch.fmt
      let size := c.kernel.scratch
      if 2 ^ 20 < (ch.m + 1) * f.kTotal then s1.matrixState 7 0
      else if (List.range 32).any (s1.chuckLoading c) then s1.block .form
      else match (List.range 32).find? (fun q => (c.chuck q).state != 1 || (c.chuck q).fmt.toNat != f.bfmt) with
        | some q => s1.matrixState (if (c.chuck q).state != 1 then 4 else 5) (q + 256)
        | none =>
            match s1.matOffset 2 x.a (s1.spaOf x.a) 16 (64 * f.kTotal * fmtSize f.afmt) with
            | .error o => o
            | .ok off =>
              let na := if f.ascale == 0 then none else beyond size (f.ascale + ch.m * 64 * f.ga) (64 * f.ga)
              let nb := if f.bscale == 0 then none
                else beyond size (f.bscale + ch.m * f.subs * 128 * f.gb) (f.subs * 128 * f.gb)
              match na.orElse (fun _ => nb) with
              | some a => s1.raise 8 (a + 2 ^ 63) 0 1
              | none =>
                let queued := sumN ((s1.run.crews.filter (fun k => k.core == c.core)).map (fun k =>
                  sumN (k.chains.map (fun h => h.queue.length))))
                if queued ≥ 8 then s1.block .form
                else
                  let ch' : Chain := { ch with m := ch.m + 1, queue := ch.queue ++ [⟨ch.m, off, x.sub == 1, c.fenced s1.cur⟩] }
                  (s1.modCrew c.key (fun k => { k with chains := k.chains.map (fun h => if h == ch then ch' else h) })).done)

/-- MCE (R335). -/
def execMce (x : Args) (s : State) : Out :=
  matForm .mce x s (fun s1 c =>
    match c.chains.find? (fun ch => !ch.closed) with
    | none => s1.matrixState 1 0
    | some ch =>
      (s1.modCrew c.key (fun k => { k with
        chains := k.chains.map (fun h => if h == ch then { h with closed := true } else h) })).done)

/-- MORF (R344): scratchpad stores are applied at issue, so there is nothing left to wait for. -/
def execMorf (x : Args) (s : State) : Out :=
  matForm .morf x s (fun s1 c => (s1.modCrew c.key (fun k => k.fence s1.cur)).done)

/-- MCLR (R343). -/
def execMclr (x : Args) (s : State) : Out :=
  matForm .mclr x s (fun s1 c =>
    let t := accOf x.a
    let n := if x.b == .none then 1 else (immInt x.b).toNat
    let ts := (List.range n).map (t + ·)
    if c.kernel.acc < t + n then s1.raise 0x17 0 (operandReport s1.cur 2 x.a) 0
    else match ts.find? c.openOn with
      | some u => s1.matrixState 3 u
      | none =>
        if ts.any (s1.tileBusy c) then s1.block .form
        else (s1.modCrew c.key (fun k => ts.foldl (fun q u => q.setTile u Tile.init) k)).done)

/-! ### Drains (R338 to R342) -/

/-- The control word of MDRN (R338): scale, tracker, scratchpad, tag enable, tag, stride. -/
structure DrainCtl where
  scale : Nat
  trk : Nat
  scr : Bool
  tagen : Bool
  tag : Nat
  stride : Nat

/-- The control word's fields. -/
def drainCtl (v : Nat) : DrainCtl := ⟨bits v 0 8, bits v 8 3, bit v 11, bit v 12, bits v 16 6, bits v 32 32⟩

/-- Rows and elements of a row of a drain's output (R339). -/
def drainShape (transposed : Bool) : Nat × Nat := if transposed then (128, 64) else (64, 128)

/-- Bytes of an output element of a drain. -/
def drainElem (ty : Ty) : Nat := tyBits ty / 8

/-- Bytes that a drain writes, from its first to its last. -/
def drainExtent (ty : Ty) (transposed : Bool) (stride : Nat) : Nat :=
  if ty == .bp then 8192 else ((drainShape transposed).1 - 1) * stride + (drainShape transposed).2 * drainElem ty

/-- MATRIX-STATE reason 9 (R338). -/
def drainBad (ty : Ty) (transposed : Bool) (dst ctl : Nat) : Bool :=
  let d := drainCtl ctl
  let e := drainElem ty
  d.scale == 0 || d.scale ≥ 0x7F || bits ctl 13 3 != 0 || bits ctl 22 10 != 0 || dst % e != 0 ||
  (if ty == .bp then d.stride != 0 else d.stride % e != 0 || d.stride < (drainShape transposed).2 * e)

/-- MDRN (R338, R345). -/
def execMdrn (x : Args) (s : State) : Out :=
  matForm .mdrn x s (fun s1 c =>
    let t := accOf x.a
    let n := regOf x.b
    let dst := (s1.now.getS n).v.toNat
    let ctl := (s1.now.getS (n + 1)).v.toNat
    let d := drainCtl ctl
    let transposed := x.sub.getLsbD 0
    if drainBad x.ty transposed dst ctl then s1.matrixState 9 0
    else
      let place : Except Out Nat := if d.scr then s1.matOffset 3 x.b dst 16 (drainExtent x.ty transposed d.stride) else .ok dst
      match place with
      | .error o => o
      | .ok _ =>
        if d.tagen && c.kernel.tags ≤ d.tag then s1.raise 0x17 0 (hostDie s1.cur + d.tag * 2 ^ 8 + 9 * 2 ^ 16 + 3 * 2 ^ 20) 0
        else if c.openOn t then s1.matrixState 3 t
        else if s1.tileBusy c t || (d.tagen && sget 0 c.tagCount d.tag ≥ 64) then s1.block .form
        else
          let diff := match (c.tile t).shadow with
            | some u => (c.tile u).cells != (c.tile t).cells
            | none => false
          if diff then s1.raise 0xE 0 t 0
          else
            let k : AKind := .drain t x.ty transposed (x.sub.getLsbD 1) (x.sub.getLsbD 2) (x.sub.getLsbD 3) x.rm.toNat s1.now.fpm dst ctl
            (s1.startOp k 1 0 x.d (if d.tagen then some d.tag else none) 2).2.done)

/-- Whether a cell is beyond what a drain writes without ACC_OVF (R119). -/
def Cell.overflows (c : Cell) : Bool := c.tag == 0 && c.x.toInt.natAbs ≥ 2 ^ 126

/-- round(o + v) of an add-on-store (R340). -/
def addOnStore (env : Env) (o : Nat) (c : Cell) (n : Nat) (e : Int) : Nat :=
  let a := fmtF32.value o
  if c.tag != 0 || a.nonFinite then
    let v : Fp := if c.tag == 3 then .nan false false 0 0 else if c.tag == 0 then .num false 0 1 0 else .inf (c.tag == 2)
    (fmtF32.add env a v).1
  else match a with
    | .num g m _ h =>
      let x := c.x.toInt
      let r := addExact (signedSig g m * n) h x (-64 - e)
      if r.1 == 0 then fmtF32.signed (zeroSign env g (decide (x < 0))) 0
      else (fmtF32.round env (decide (r.1 < 0)) r.1.natAbs n r.2).1
    | _ => fmtF32.canon

/-- Bytes that BP8 patterns in element order are stored as (R114). -/
def planeBytes (es : List Nat) : List Byte :=
  ((List.range (es.length / 128)).map (fun b =>
    (List.range 128).map (fun i => BitVec.ofNat 8 (planeByte ((es.drop (128 * b)).take 128) i)))).flatten

/-- Pieces of an extent of an address space that stay within a line: (address, place in the bytes, length). -/
def linePieces (a n : Nat) : List (Nat × Nat × Nat) :=
  (List.range ((a % 128 + n + 127) / 128)).map (fun i =>
    let lo := if i == 0 then 0 else 128 * i - a % 128
    let hi := min n (128 * (i + 1) - a % 128)
    (a + lo, lo, hi - lo))

/-- Write pieces of an operation's output to global memory until one fails (R341): how it ends, the bytes written, and the
address of a failure. -/
def State.opWrite (s : State) (o : AOp) (ps : List (Nat × List Byte)) : Elem × Nat × Nat :=
  ps.foldl (fun r p => match r.1 with
    | .ok _ st => (st.elemWrite o (agentOf o.core) p.1 p.2, r.2.1 + p.2.length, p.1)
    | .fail .. => r
    | .wait .. => r) (.ok [] s, 0, 0)

/-- The home of an address, those of other packages apart (R341). -/
def homeKey (pa : Nat) : Nat := match homeOf pa with | some h => h | none => 16 + pa / 2 ^ 38

/-- An indivisible update of global bytes at their one home (R341): `f` gives the new bytes, which are answered. Nothing is
written when a byte cannot be reached, lies in a KEEPING page or is uncorrectable, or the homes differ. The address of a
failure is answered with it. -/
def State.updateAtHome (s : State) (o : AOp) (rows : List (Nat × Nat)) (f : List Byte → List Byte) : Elem × Nat :=
  let ps := (rows.map (fun r => linePieces r.1 r.2)).flatten
  let look := ps.foldl (fun (acc : Except (Elem × Nat) (List (Nat × Trans × Nat × Nat) × State)) p =>
    match acc with
    | .error e => .error e
    | .ok (l, st) =>
      match st.elemAt o p.1 true with
      | .error e => .error (e, p.1)
      | .ok (t, pa, st1) => if t.pcls == 3 then .error (.fail 3 st1, p.1) else .ok (l ++ [(p.1, t, pa, p.2.2)], st1))
    (.ok ([], s))
  match look with
  | .error e => e
  | .ok (l, s1) =>
    let home := homeKey ((l.head?.map (fun q => q.2.2.1)).getD 0)
    match l.find? (fun q => homeKey q.2.2.1 != home) with
    | some q => (.fail 4 s1, q.1)
    | none =>
      if l.any (fun q => (s1.cursorMig q.2.2.1).isSome || !s1.routeOpen o.core q.2.2.1) then (.wait none s, 0)
      else
        let got := l.foldl (fun (acc : Except (Nat × Nat × State) (List Byte × State)) q =>
          match acc with
          | .error e => .error e
          | .ok (bs, st) =>
            let (st1, ok) := st.cohTouch (agentOf o.core) o.guest false (q.2.2.1 / 128) true true
            if !ok then .error (6, q.1, st1)
            else
              let (b, bad) := st1.cohPeek q.2.2.1 q.2.2.2
              if bad then .error (5, q.1, st1) else .ok (bs ++ b, st1)) (.ok ([], s1))
        match got with
        | .error (code, a, s2) => (.fail code s2, a)
        | .ok (old, s2) =>
          let new := f old
          let put := l.foldl (fun (acc : Nat × List (Nat × Byte)) q =>
            (acc.1 + q.2.2.2, acc.2 ++ placed q.2.2.1 ((new.drop acc.1).take q.2.2.2))) (0, [])
          (.ok new (s2.cohPoke noHart (s2.guarded o.mode put.2) []), 0)

/-- Update a tracker of a crew (R154). -/
def State.joinAmax (s : State) (key n v : Nat) : State :=
  s.modCrew key (fun c => { c with amax := sset 0 c.amax n (BitVec.ofNat 32 (amaxJoin (sget 0 c.amax n).toNat v)) })

/-- The update that a drain makes to its tracker (R340). -/
def Tile.amaxOf (t : Tile) : Nat :=
  if t.cells.any (fun p => p.2.tag == 3) then 0x7FC00000
  else if t.cells.any (fun p => p.2.tag != 0) then 0x7F800000
  else (fmtF32.round ⟨4, false, false, false, false⟩ false (maxN (t.cells.map (fun p => p.2.x.toInt.natAbs))) 1 (-64)).1

/-- The output of a drain in element order, as rows of patterns, with the flags of R342 that its values set. -/
def drainValues (t : Tile) (ty : Ty) (transposed : Bool) (env : Env) (n : Nat) (e : Int) : List (List Nat) :=
  let (nr, ne) := drainShape transposed
  (List.range nr).map (fun ro => (List.range ne).map (fun co =>
    let c := t.cell (if transposed then co * 128 + ro else ro * 128 + co)
    if ty == .bp then c.toBp env n e else c.toFmt (fmtOf ty) env n e))

/-- The status bits of a drain that wrote some results (R119, R342): ACC_OVF for the cells it read, NAN_IN where what it wrote
comes from a tag that is not finite or is a NaN. -/
def drainBits (cells : List Cell) (written : List (Cell × Bool)) : Nat :=
  2 * b2n (written.any (fun p => p.1.tag != 0 || p.2)) + 8 * b2n (cells.any Cell.overflows)

/-- The work of a drain from a tile as it was read: the status bits its results give, how it ends, and the address of a
failure (R340, R341). A failure leaves the rows written before it, with their bits. -/
def State.drainOut (s : State) (o : AOp) (t : Tile) (ty : Ty) (transposed addst : Bool) (env : Env) (dst : Nat) (d : DrainCtl) :
    Nat × Elem × Nat :=
  let (sn, se) := (scaleOf d.scale).parts
  let n := sn.toNat
  let e := drainElem ty
  let (nr, ne) := drainShape transposed
  let stride := d.stride
  let cellAt (ro co : Nat) : Cell := t.cell (if transposed then co * 128 + ro else ro * 128 + co)
  let sums (ro : Nat) (old : List Byte) : List Nat :=
    (List.range ne).map (fun co => addOnStore env (ofBytes ((old.drop (4 * co)).take 4)) (cellAt ro co) n se)
  let enc (vs : List Nat) : List Byte := (vs.map (toBytes e)).flatten
  let cells := ((List.range nr).map (fun ro => (List.range ne).map (cellAt ro))).flatten
  let isNan (v : Nat) : Bool := ty != .bp && ((fmtOf ty).value v).isNan
  let flags (vs : List Nat) (n : Nat) : Nat := drainBits cells ((cells.zip (vs.map isNan)).take n)
  if addst then
    let all (old : List Byte) : List (List Nat) := (List.range nr).map (fun ro => sums ro ((old.drop (ro * ne * 4)).take (ne * 4)))
    if d.scr then
      let bad := (List.range nr).find? (fun ro => match s.crew? o.crew with
        | some c => (List.range (ne * 4)).any (fun i => c.smarks.contains ((dst + ro * stride + i) / 32))
        | none => false)
      match bad with
      | some ro => (flags [] 0, .fail 5 s, dst + ro * stride)
      | none =>
        let old := ((List.range nr).map (fun ro => s.scratchRead o.crew (dst + ro * stride) (ne * 4))).flatten
        let new := all old
        let put := ((List.range nr).map (fun ro => placed (dst + ro * stride) (enc (new[ro]?.getD [])))).flatten
        (flags new.flatten (nr * ne), .ok [] (s.scratchPut o.crew put []), 0)
    else
      let rows := (List.range nr).map (fun ro => ((dst + ro * stride) % 2 ^ 64, ne * 4))
      let r := s.updateAtHome o rows (fun old => ((all old).map enc).flatten)
      let fl := match r.1 with
        | .ok new _ => flags ((List.range (nr * ne)).map (fun i => ofBytes ((new.drop (4 * i)).take 4))) (nr * ne)
        | _ => flags [] 0
      (fl, r.1, r.2)
  else
    let vals := drainValues t ty transposed env n se
    let lines : List (Nat × List Byte) :=
      if ty == .bp then [(dst, planeBytes vals.flatten)]
      else (List.range nr).map (fun ro => (dst + ro * stride, enc (vals[ro]?.getD [])))
    if d.scr then (flags vals.flatten (nr * ne), .ok [] (lines.foldl (fun st l => st.scratchPut o.crew (placed l.1 l.2) []) s), 0)
    else
      let ps := (lines.map (fun l => (linePieces l.1 l.2.length).map (fun p => (p.1 % 2 ^ 64, (l.2.drop p.2.1).take p.2.2)))).flatten
      let r := s.opWrite o ps
      let n := match r.1 with
        | .ok .. => nr * ne
        | _ => (r.2.1 - ((ps.find? (fun p => p.1 == r.2.2)).map (fun p => p.2.length)).getD 0)
      (flags vals.flatten (if ty == .bp then roundUp n 128 else ceilDiv n e), r.1, r.2.2)

/-- The cells of a tile that a drain finds uncorrectable (R346). -/
def State.drainLost (s : State) (t : Nat) : List Nat := (List.range 8192).filter (Config.accSoft s.tick t)

/-- The tile as a drain reads it (R340, R346). -/
def State.drainTile (s : State) (c : Crew) (t : Nat) : Tile :=
  (c.tile t).ofCells (fun n => if (s.drainLost t).contains n then ((c.tile t).cell n).takeNan else (c.tile t).cell n)

/-- A drain's work is over with a failure code, or 0: the tile is as it was read or cleared, the tracker is joined, and the
operation completes with its status (R340, R342). `s` is the state the drain began in, `st` the one its work left. -/
def State.drainEnd (s st : State) (c : Crew) (o : AOp) (t : Nat) (clear amax : Bool) (d : DrainCtl) (fl code a : Nat) : State :=
  let tile := s.drainTile c t
  let lost := s.drainLost t
  let after : Tile := if clear then { tile with cells := [], shadow := none } else tile
  let s2 := (st.modCrew o.crew (fun k => k.setTile t after)).accCounts lost.length
  let s3 := if amax then s2.joinAmax o.crew d.trk tile.amaxOf else s2
  s3.completeOp { o with addr := a } ((fl ||| 64 * b2n (!lost.isEmpty)) + code * 256)

/-- DRAIN_COMPLETION: a drain reads its tile, clears it where asked, writes its output once the release of R287 holds, and
completes (R340 to R342). A cancellation that has come before keeps it from doing anything. -/
def execDrainCompletion (crew op : Nat) (s : State) : Out :=
  match s.crew? crew, s.op? op with
  | some c, some o =>
    match o.kind with
    | .drain t ty transposed clear addst amax rnd fpm dst ctl =>
      let d := drainCtl ctl
      if o.crew != crew || !s.opReleased o then .next s
      else if o.cancelled then .next (s.completeOp o 128)
      else if !d.scr && s.backWaits o.core (fun _ => true) then .next s
      else
        let s1 := if d.scr then s else s.release o.core 2
        let (fl, r, a) := s1.drainOut o (s.drainTile c t) ty transposed addst (envOf fpm rnd) dst d
        match r with
        | .ok _ st => .next (s.drainEnd st c o t clear amax d fl 0 a)
        | .fail code st => .next (s.drainEnd st c o t clear amax d fl code a)
        | .wait none st => .next (s.keepPromos st)
        | .wait (some p) _ =>
          .next ((s.ownStep p).2.modRun (fun q => { q with
            ops := updWhere (fun w => w.id == op) (fun w => { w with hold := some p }) q.ops }))
    | _ => .next s
  | _, _ => .next s

/-! ### LDACC and STACC (R258 to R260) -/

/-- Words of the index space of LDACC and STACC (R258). -/
def accSpace (ty : Ty) : Nat := if ty == .b64 then tileWords else 8192

/-- The lanes of LDACC or STACC with their indexes, after the checks they share (R258). -/
def accForm (o : Op) (x : Args) (s : State) (f : State → Crew → List (Nat × Nat) → Out) : Out :=
  issue o x s (fun s1 =>
    match s1.crewOf s1.cur with
    | none => s1.done
    | some c =>
      let t := accOf x.a
      let ls := (if perLane x then lanesOf s1.now.W (s1.now.members x) else [0]).map (fun l => (l, s1.src .b32 x.b l))
      let bad := ls.filter (fun p => p.2 ≥ accSpace x.ty)
      match bad with
      | (_, i) :: _ => s1.raise 8 (i + 2 ^ 62) 0 (maskOf (bad.map Prod.fst))
      | [] =>
        if c.openOn t || s1.tileBusy c t then s1.block .form
        else f s1 c ls)

/-- LDACC (R259). -/
def execLdacc (x : Args) (s : State) : Out :=
  accForm .ldacc x s (fun s1 c ls =>
    let t := c.tile (accOf x.a)
    let env := envOf s1.now.fpm x.rm.toNat
    let val (i : Nat) : Nat := if x.ty == .b64 then t.word i else (t.cell i).toFmt fmtF32 env 1 0
    (s1.laterOf (some (accOf x.a)) x.ty x.d (ls.map (fun p => (p.1, val p.2, 0)))).done)

/-- STACC (R259): lanes in ascending order, so that the last of two to one cell stays. -/
def execStacc (x : Args) (s : State) : Out :=
  accForm .stacc x s (fun s1 c ls =>
    let i := accOf x.a
    let put (t : Tile) (p : Nat × Nat) : Tile :=
      let v := s1.src x.ty x.d p.1
      if x.ty == .b64 then t.setWord p.2 v else t.setCell p.2 (cellOfF32 v)
    (s1.modCrew c.key (fun k => k.setTile i (ls.foldl put (k.tile i)))).done)

end Sys2Proof.Machine
end

