-- ==== Sys2Proof/Machine/Softmax.lean ====
section
/-! DEFINITION. Online soft-maximum: row state, MSMX with its score table, and MSCL (15_softmax R350 to R359). -/
namespace Sys2Proof.Machine

/-- The modes that R353 computes under: to nearest even, nothing flushed, SAT8 and NANPAY 0. -/
def envPlain : Env := ⟨1, false, false, false, false⟩

/-- The pattern of 1.0 in F32. -/
def one32 : Nat := 0x3F800000

/-- A control block of 32 bytes (R351). -/
def msmxBlock (v : Nat) (score : Bool) : MsmxBlock :=
  ⟨bits v 0 32, bits v 32 4, bits v 40 4, bits v 48 7 + 1, BitVec.ofNat 32 (bits v 64 32), bits v 96 16, bits v 128 64, score⟩

/-- Bytes between rows of P (R353). -/
def MsmxBlock.pitch (b : MsmxBlock) : Nat := if b.prow == 0 then 128 * fmtSize b.pfmt else b.prow

/-- MATRIX-STATE reason 6 of MSMX (R351). -/
def msmxBad (v : Nat) (score : Bool) : Bool :=
  let b := msmxBlock v score
  let positive := match fmtF32.value b.sscale.toNat with | .num g n _ _ => !g && n != 0 | _ => false
  bits v 36 4 != 0 || bits v 44 4 != 0 || bits v 55 9 != 0 || bits v 112 16 != 0 || bits v 192 64 != 0 ||
  b.pfmt < 2 || 5 < b.pfmt || !positive || b.pdst % 16 != 0 ||
  (b.prow != 0 && (b.prow % 16 != 0 || b.prow < 128 * fmtSize b.pfmt)) || (score && b.sctab % 4 != 0)

/-- Add an operation of the running hart that no handle names. -/
def State.plainOp (s : State) (kind : AKind) : State :=
  let t := s.now
  let (id, s1) := s.fresh
  let op : AOp :=
    { id := id, kind := kind, handle := 0, hart := s.cur, dreg := none, crew := t.place.crewKey, core := coreOf s.cur,
      guest := t.guest, mode := t.mode, s1ptb := t.sup.s1ptb.toNat, s2ptb := t.sup.s2ptb.toNat, tag := none,
      scope := 0, clock := (s.core (coreOf s.cur)).lamport.toNat, before := id, cancelled := false, silent := false,
      status := none, addr := 0, hold := none }
  s1.modRun (fun r => { r with ops := r.ops ++ [op] })

/-- MSMX (R351, R352, R357). -/
def execMsmx (x : Args) (s : State) : Out :=
  matForm .msmx x s (fun s1 c =>
    let t := accOf x.d
    match s1.matOffset 2 x.a (s1.spaOf x.a) 32 32 with
    | .error o => o
    | .ok off =>
      let v := c.scratchAt off 32
      let b := msmxBlock v (x.sub == 1)
      if msmxBad v (x.sub == 1) then s1.matrixState 6 0
      else if c.kernel.acc ≤ b.otile then s1.raise 0x17 0 (hostDie s1.cur + b.otile * 2 ^ 8 + 6 * 2 ^ 16 + 2 * 2 ^ 20) 0
      else match beyond c.kernel.scratch b.pdst (63 * b.pitch + 128 * fmtSize b.pfmt) with
        | some a => s1.raise 8 (a + 2 ^ 63) 0 0
        | none =>
          if c.openOn t then s1.matrixState 3 t
          else if c.closingOn t || s1.drainOn c t then s1.block .form
          else (s1.plainOp (.msmx t (barOf x.b) b)).done)

/-- MSCL (R356, R357). -/
def execMscl (x : Args) (s : State) : Out :=
  matForm .mscl x s (fun s1 c =>
    let t := accOf x.d
    if c.openOn t then s1.matrixState 3 t
    else if c.closingOn t || s1.drainOn c t then s1.block .form
    else (s1.plainOp (.mscl t (barOf x.b))).done)

/-! ### One row of MSMX (R353) -/

/-- A score (R353). -/
def Cell.score (c : Cell) (sscale : Nat) : Nat :=
  if c.tag == 3 then 0x7FC00000
  else if c.tag == 1 then 0x7F800000
  else if c.tag == 2 then 0xFF800000
  else match fmtF32.value sscale with
    | .num _ n _ e => (fmtF32.roundInt envPlain (c.x.toInt * n) (e - 64) false).1
    | _ => 0x7FC00000

/-- The greater of two patterns that are no NaN. -/
def max32 (a b : Nat) : Nat := if (fmtF32.value a).ltZ (fmtF32.value b) then b else a

/-- exp2 of a rounded difference in F32. -/
def expDiff (a b : Nat) : Nat :=
  let d := (fmtF32.add envPlain (fmtF32.value a) (fmtF32.value b).negate).1
  (fmtF32.special envPlain .exp2 d).1

/-- Exact sum of finite values as m × 2^e. -/
def exactSum (vs : List Fp) : Int × Int :=
  vs.foldl (fun acc v => match v with | .num g n _ e => addExact acc.1 acc.2 (signedSig g n) e | _ => acc) (0, 0)

/-- A row of MSMX: the probabilities in PFMT, the new row state, and whether NAN_IN is set (R353). -/
def msmxRow (b : MsmxBlock) (cells : List Cell) (r : RowState) : List Nat × RowState × Bool :=
  let f := fmtFloat b.pfmt
  let ss := cells.map (fun c => c.score b.sscale.toNat)
  let m := r.m.toNat
  if isNan32 m || ss.any isNan32 then
    let nan : Lane := 0x7FC00000
    (ss.map (fun _ => f.canon), { r with m := nan, l := nan, c := nan }, true)
  else
    let x := ss.foldl max32 0xFF800000
    let m' := max32 m x
    let ps : List Nat :=
      if m' == 0xFF800000 then ss.map (fun _ => 0)
      else if m' == 0x7F800000 then ss.map (fun v => if v == 0x7F800000 then one32 else 0)
      else ss.map (fun v => expDiff v m')
    let fac : Nat :=
      if m' == 0xFF800000 then one32
      else if m' == 0x7F800000 then (if m == 0x7F800000 then one32 else 0)
      else expDiff m m'
    let out := ps.map (fun p => (f.convert envPlain (fmtF32.value p)).1)
    let sum := exactSum (out.map f.value)
    let rs := (fmtF32.roundInt envPlain sum.1 sum.2 false).1
    let l := (fmtF32.mulAdd envPlain (fmtF32.value r.l.toNat) (fmtF32.value fac) (some (fmtF32.value rs))).1
    let c := (fmtF32.mulAdd envPlain (fmtF32.value r.c.toNat) (fmtF32.value fac) none).1
    (out, { r with m := BitVec.ofNat 32 m', l := BitVec.ofNat 32 l, c := BitVec.ofNat 32 c }, false)

/-- An element of the score table after a column is added (R354). -/
def scoreAdd (f : Fmt) (old : Nat) (col : List Nat) : Nat :=
  let o := fmtF32.value old
  let vs := col.map f.value
  if o.isNan || vs.any Fp.isNan then fmtF32.canon
  else if o.isInf then old
  else
    let sum := exactSum (o :: vs)
    (fmtF32.roundInt envPlain sum.1 sum.2 false).1

/-- The oldest MSMX or MSCL of a crew, which completes first (R330, R357). -/
def State.firstSoftmax (s : State) (key : Nat) : Option AOp :=
  s.run.ops.find? (fun o => o.crew == key && (match o.kind with | .msmx .. => true | .mscl .. => true | _ => false))

/-- Forget an operation that no handle names. -/
def State.dropOp (s : State) (id : Nat) : State :=
  s.modRun (fun r => { r with ops := r.ops.filter (fun p => p.id != id) })

/-- Cells of a tile that are uncorrectable now become tag NAN (R346). -/
def Tile.hurt (t : Tile) (lost : List Nat) : Tile := lost.foldl (fun u i => u.setCell i (u.cell i).takeNan) t

/-- The cells that an MSMX reads of its tile and that are uncorrectable now (R346, R353). -/
def State.msmxLost (s : State) (t : Nat) (b : MsmxBlock) : List Nat :=
  (List.range (64 * 128)).filter (fun i => i % 128 < b.ncol && Config.accSoft s.tick t i)

/-- The 64 rows of an MSMX: the probabilities, the new row state, and whether NAN_IN is set (R353). -/
def State.msmxRows (s : State) (c : Crew) (t : Nat) (b : MsmxBlock) : List (List Nat × RowState × Bool) :=
  let src := (c.tile t).hurt (s.msmxLost t b)
  let acc := (c.setTile t src).tile b.otile
  (List.range 64).map (fun r => msmxRow b ((List.range b.ncol).map (fun j => src.cell (r * 128 + j))) (acc.row r))

/-- The update of an MSMX's score table at its home, where its form has one (R354). -/
def State.msmxTable (s : State) (o : AOp) (c : Crew) (t : Nat) (b : MsmxBlock) : Elem × Nat :=
  let rows := s.msmxRows c t b
  if b.score then s.updateAtHome o [(b.sctab, 4 * b.ncol)] (fun old =>
    ((List.range b.ncol).map (fun j => toBytes 4 (scoreAdd (fmtFloat b.pfmt) (ofBytes ((old.drop (4 * j)).take 4))
      (rows.map (fun q => q.1[j]?.getD 0))))).flatten)
  else (.ok [] s, 0)

/-- P and the row state of an MSMX, whose values `s` gives, take effect on a state, then the report and the arrival (R353,
R355). -/
def State.msmxEnd (s st : State) (c : Crew) (o : AOp) (t bar : Nat) (b : MsmxBlock) : State :=
  let lost := s.msmxLost t b
  let rows := s.msmxRows c t b
  let out := ((List.range 64).map (fun r =>
    let ps := ((rows[r]?.map Prod.fst).getD [])
    placed (b.pdst + r * b.pitch) (((List.range 128).map (fun j => toBytes (fmtSize b.pfmt) (ps[j]?.getD 0))).flatten))).flatten
  let rowsAt (u : Tile) : Tile := (List.range 64).foldl (fun w r => match rows[r]? with
    | some q => w.setRow r q.2.1
    | none => w) u
  let s1 := st.modCrew o.crew (fun k =>
    let k1 := k.setTile t ((c.tile t).hurt lost)
    k1.setTile b.otile (rowsAt (k1.tile b.otile)))
  let s2 := (s1.scratchPut o.crew out []).accCounts lost.length
  let status := 1 + 2 * b2n (rows.any (fun q => q.2.2)) + 64 * b2n (!lost.isEmpty)
  let st' := if status / 2 != 0 then status + t * 256 else status
  ((s2.engineArrive o.crew bar status t).matrixStatus c bar st').dropOp o.id

/-- MSMX_COMPLETION: P, the row state and the score table take effect together, then the report and the arrival (R353 to
R355, R359). Its crew's waiters see the table: clean copies of their core and cluster are dropped. -/
def execMsmxCompletion (crew op : Nat) (s : State) : Out :=
  match s.crew? crew, s.firstSoftmax crew with
  | some c, some o =>
    match o.kind with
    | .msmx t bar b =>
      if o.id != op then .next s
      else
        match s.msmxTable o c t b with
        | (.ok _ st, _) => .next (s.msmxEnd (if b.score then st.acquire o.core 2 else st) c o t bar b)
        | (.fail code st, _) => .next (s.msmxEnd (st.crewFault crew 0x22 0 false (code * 256) b.sctab) c o t bar b)
        | (.wait none st, _) => .next (s.keepPromos st)
        | (.wait (some p) _, _) =>
          .next ((s.ownStep p).2.modRun (fun q => { q with
            ops := updWhere (fun w => w.id == op) (fun w => { w with hold := some p }) q.ops }))
    | _ => .next s
  | _, _ => .next s

/-! ### MSCL (R356) -/

/-- A cell scaled by the factor f: the cell, whether NAN_IN and ACC_OVF are set. -/
def Cell.scaleBy (c : Cell) (f : Fp) : Cell × Bool × Bool :=
  match f with
  | .nan .. => ({ c with tag := 3 }, true, false)
  | .inf g =>
    if c.tag == 3 then (c, false, false)
    else if c.tag != 0 then (if g then { c with tag := 3 - c.tag } else c, false, false)
    else if c.x == 0 then ({ c with tag := 3 }, true, false)
    else (⟨0, if decide (c.x.toInt < 0) == g then 1 else 2⟩, false, false)
  | .num g n _ e =>
    if c.tag == 3 then (c, false, false)
    else if c.tag != 0 then
      if n == 0 then ({ c with tag := 3 }, true, false) else (if g then { c with tag := 3 - c.tag } else c, false, false)
    else
      let p := c.x.toInt * signedSig g n
      let (u, r, d) := scaledBy p.natAbs 1 e
      let y := signedSig (decide (p < 0)) (roundMag 1 (decide (p < 0)) u r d)
      if y.natAbs ≥ 2 ^ 127 then (⟨0, if y > 0 then 1 else 2⟩, false, true) else ({ c with x := BitVec.ofInt 128 y }, false, false)

/-- An MSCL takes effect: the rows of O take their factors, then the report and the arrival (R356). A row whose C is 1.0 stays
as it is. -/
def State.msclEnd (s : State) (c : Crew) (o : AOp) (t bar : Nat) : State :=
  let lost := (List.range 8192).filter (Config.accSoft s.tick t)
  let src := (c.tile t).hurt lost
  let scaled := (List.range 8192).map (fun i =>
    let f := (src.row (i / 128)).c.toNat
    if f == one32 then (src.cell i, false, false) else (src.cell i).scaleBy (fmtF32.value f))
  let cells := src.ofCells (fun i => (scaled[i]?.map Prod.fst).getD Cell.zero)
  let new := (List.range 64).foldl (fun u r => u.setRow r { u.row r with c := BitVec.ofNat 32 one32 }) cells
  let status := 1 + 2 * b2n (scaled.any (fun q => q.2.1)) + 8 * b2n (scaled.any (fun q => q.2.2)) +
    64 * b2n (!lost.isEmpty)
  let st' := if status / 2 != 0 then status + t * 256 else status
  let s1 := (s.modCrew o.crew (fun k => k.setTile t new)).accCounts lost.length
  ((s1.engineArrive o.crew bar status t).matrixStatus c bar st').dropOp o.id

/-- MSCL_COMPLETION (R356): the oldest softmax operation of its crew. -/
def execMsclCompletion (crew op : Nat) (s : State) : Out :=
  match s.crew? crew, s.firstSoftmax crew with
  | some c, some o =>
    match o.kind with
    | .mscl t bar => .next (if o.id != op then s else s.msclEnd c o t bar)
    | _ => .next s
  | _, _ => .next s

end Sys2Proof.Machine
end

