-- ==== Sys2Proof/Machine/Crews.lean ====
section
/-! DEFINITION. Crews: admission and placement, ACQ, pre-emption, PARK and WAKE, exit and settling, and the states of region
control blocks (16_launch R368 to R379; 09_traps R201, R202; 17_engine_queues R403). -/
namespace Sys2Proof.Machine

/-! ### Units of the register files (R64, R371) -/

/-- Teams of a crew of n teams on pipe p when team 0 binds to p0 (R369). -/
def teamsOn (p0 n p : Nat) : Nat := ((List.range n).filter (fun i => (p0 + i) % 4 == p)).length

/-- Vector units of `v` registers of a team of width W (R64). -/
def unitsOf (v w : Nat) : Nat := v * w / 32

/-- Units that a crew holds or has reserved on a pipe (R371). -/
def Crew.heldOn (c : Crew) (p : Nat) : Nat :=
  if c.draining then 0
  else teamsOn c.p0 c.kernel.crew p * unitsOf (if c.unreserved then c.kernel.pvreg else c.kernel.fvreg) c.kernel.width

/-- need(k) on a pipe: what the full allotment of an unreserved crew still lacks (R371). -/
def Kernel.needOn (k : Kernel) (p0 p : Nat) : Nat := teamsOn p0 k.crew p * (unitsOf k.fvreg k.width - unitsOf k.pvreg k.width)

/-- Crews on a core, but for some that are taken to be gone. -/
def State.crewsOn (s : State) (core : Nat) (gone : List Nat) : List Crew :=
  s.run.crews.filter (fun c => c.core == core && c.kernel.width != 1 && !gone.contains c.key)

/-- free on a pipe (R371). -/
def freeUnits (cs : List Crew) (p : Nat) : Nat := 2048 - sumN (cs.map (fun c => c.heldOn p))

/-- The four pipes (R11). -/
def pipes : List Nat := [0, 1, 2, 3]

/-! ### ACQ (R66, R372) -/

/-- Whether a core's free units cover what a crew still needs on every pipe (R372). -/
def State.canReserve (s : State) (c : Crew) : Bool :=
  pipes.all (fun p => decide (c.kernel.needOn c.p0 p ≤ freeUnits (s.crewsOn c.core []) p))

/-- Grant a team its full allotment (R66). -/
def Hart.grant (t : Hart) (k : Kernel) : Hart :=
  { t with place := { t.place with sAllot := k.fsreg, vAllot := k.fvreg, acqDone := true } }

/-- Reserve the full allotment for a crew, whose teams no longer wait (R372). -/
def State.reserve (s : State) (c : Crew) : State :=
  let s1 := (s.modCrew c.key (fun q => { q with unreserved := false })).modCore c.core (fun k => { k with
    acqs := k.acqs.filter (fun h => !c.harts.contains h) })
  c.harts.foldl (fun st h => st.modHart h (fun t =>
    if t.sched.wait == .acq then { t with sched := { t.sched with wait := .none } } else t)) s1

/-- ACQ (R372): it waits behind older ACQs of other crews of its core. -/
def execAcq (x : Args) (s : State) : Out :=
  issue .acq x s (fun s1 =>
    let t := s1.now
    match s1.crewOf s1.cur with
    | none => s1.done
    | some c =>
      if t.place.acqDone then s1.done
      else
        let grant (st : State) : Out := (st.modNow (fun u => u.grant c.kernel)).done
        let older := (s1.core c.core).acqs.any (fun h => !c.harts.contains h &&
          !((s1.core c.core).acqs.dropWhile (fun q => !c.harts.contains q)).contains h)
        if !c.unreserved then grant s1
        else if !older && s1.canReserve c then grant (s1.reserve c)
        else
          let s2 := if (s1.core c.core).acqs.contains s1.cur then s1
            else s1.modCore c.core (fun k => { k with acqs := k.acqs ++ [s1.cur] })
          s2.block .acq)

/-- ACQ_GRANT: the oldest waiting acquisition of a core is granted once the units are free (R372). -/
def execAcqGrant (core : Nat) (s : State) : Out :=
  match (s.core core).acqs with
  | [] => .next s
  | h :: _ =>
    match s.crewOf h with
    | none => .next (s.modCore core (fun k => { k with acqs := k.acqs.filter (· != h) }))
    | some c => .next (if s.canReserve c then s.reserve c else s)

/-! ### Pre-emption (R201, R374, R375) -/

/-- Whether a team has live lanes and still runs. -/
def Hart.alive (t : Hart) : Bool := t.live != 0 && !t.sched.exited && !t.sched.stopped

/-- Raise PREEMPT in every live team of a crew; a request merges with one made before, which stands until the crew has exited
(R201, R374, R515). -/
def State.raisePreempt (s : State) (key : Nat) (park : Bool) : State :=
  match s.crew? key with
  | none => s
  | some c =>
    if c.draining || c.raised.isSome then s
    else
      let s1 := c.harts.foldl (fun st h => st.modHart h (fun t =>
        if t.alive then { t with sched := { t.sched with preempt := some park } } else t)) s
      s1.modCrew key (fun q => { q with raised := some s.cycles.toNat })

/-- Whether a park of a crew is one: its RCB's effective WAKEW is not 0, and it runs on a compute core (R375). -/
def State.parkFits (s : State) (c : Crew) : Bool :=
  c.kernel.width != 1 &&
  (match (s.launch? c.launch).bind Launch.eff with
   | some e => e.wakew != 0
   | none => false)

/-- PARK (R375). A thread that HOST runs belongs to no crew, and PREEMPT does not arise there (R192). -/
def execPark (x : Args) (s : State) : Out :=
  issue .park x s (fun s1 =>
    match s1.crewOf s1.cur with
    | none => s1.done
    | some c => (s1.raisePreempt c.key (s1.parkFits c)).done)

/-- PREEMPT_REQUEST: HOST, firmware or the distributor pre-empts a crew (R374). -/
def execPreemptRequest (crew : Nat) (park : Bool) (s : State) : Out :=
  match s.crew? crew with
  | none => .next s
  | some c => .next (s.raisePreempt crew (park && s.parkFits c))

/-- PREEMPT_DELIVERY: a team takes PREEMPT at its boundary, leaving whatever it waits for (R190, R201, R254). A demotion that is pending
then is dropped (R183; log entry 95, DESIGN CHOICE). -/
def execPreemptDelivery (hart : Nat) (s : State) : Out :=
  let t := s.hart hart
  match t.sched.preempt, s.crewOf hart with
  | some park, some c =>
    if !t.alive || t.trap.tstatus.getLsbD 2 then .next s
    else
      let r : TrapRegs := { t.trap.report t.mode 0x10 t.pc 0 (if park then 2 else 0) 0 with
        tstatus := BitVec.ofNat 64 (putBits t.trap.tstatus.toNat 0 4 (modeRank t.mode + 12)) }
      let sch : Sched := { t.sched with
        wait := .none, preempt := none, body := none, demote := none, arrived := none, yielded := false, hold := none }
      let s1 := s.setHart hart { t with
        trap := r, sched := sch, pc := BitVec.ofNat 64 (t.place.codeStart + 12 * t.place.preemptAt) }
      let s2 := (s1.modCrew c.key (fun q => { q with preemptTaken := true, parkTaken := park })).modCore (coreOf hart) (fun k =>
        { k with acqs := k.acqs.filter (· != hart) })
      let held (q : Req) : Bool := q.hart == hart && q.parked && q.kind.isLdp
      let free (q : Req) : Req := { q with released := true }
      .next (s2.modMem (fun m => { m with reqs := updWhere held free m.reqs }))
  | _, _ => .next s

/-- Cycles that a pre-empted crew has to exit, and that a crew waits before others are pre-empted for it (R374). -/
def graceCycles : Nat := 1048576
def waitCycles : Nat := 65536

/-- Every team of a launch's crews stops without a save (R193, R374). -/
def State.stopLaunch (s : State) (launch : Nat) : State :=
  let cs := s.run.crews.filter (fun c => c.launch == launch)
  let s1 := (cs.map Crew.harts).flatten.foldl (fun st h => st.modHart h (fun t => { t with sched := { t.sched with stopped := true } })) s
  cs.foldl (fun st c => st.modCrew c.key (fun q => { q with discarded := true })) s1

/-- Whether a pre-empted crew has overrun its grace: a team still runs after it, or the last one left after it (R374, R515). -/
def State.overran (s : State) (c : Crew) : Bool :=
  match c.raised with
  | none => false
  | some r =>
    decide (r + graceCycles ≤ if c.harts.any (fun h => (s.hart h).alive) then s.cycles.toNat
      else maxN (c.harts.map (fun h => (s.hart h).sched.lastIssue)))

/-- PREEMPT_TIMEOUT: a crew that overruns its grace is discarded with every other crew of its launch (R374). -/
def execPreemptTimeout (crew : Nat) (s : State) : Out :=
  match s.crew? crew with
  | none => .next s
  | some c =>
    if c.draining || c.discarded || !s.overran c then .next s
    else
      let s1 := (s.crewFault crew 0x10 0 false 0 0).stopLaunch c.launch
      .next ((s1.setRcb c.launch 6).endLaunch c.launch 9)

/-! ### Admission (R369 to R371) -/

/-- The lowest aligned start of n units free of the ranges used, of `total` units. -/
def firstFit (used : List (Nat × Nat)) (n total align : Nat) : Option Nat :=
  if n == 0 then some 0
  else
    let starts := 0 :: used.map (fun u => roundUp (u.1 + u.2) align)
    leastBy id (starts.filter (fun a => decide (a + n ≤ total) && used.all (fun u => u.2 == 0 || decide (a + n ≤ u.1) || decide (u.1 + u.2 ≤ a))))

/-- Where a crew fits on a core (R370). -/
structure Fit where
  p0 : Nat
  tile : Nat
  chuck : Nat
  bar : Nat
  tag : Nat
  scratch : Nat
  deriving DecidableEq, Repr

/-- The crews of a subtree, by the key of its RCB, but for some taken to be gone. -/
def State.subtree (s : State) (key : Nat) (gone : List Nat) : List Crew :=
  s.run.crews.filter (fun c => c.lineage.contains key && !gone.contains c.key)

/-- Whether the CORES budgets of a launch admit one more crew on a core, or on a thread (R364, R369). -/
def State.coresOk (s : State) (e : Eff) (thread : Bool) (place : Nat) (gone : List Nat) : Bool :=
  (e.path.zip e.budgets).all (fun q =>
    let cs := (s.subtree q.1 gone).filter (fun c => (c.kernel.width == 1) == thread)
    let places := (place :: cs.map (fun c => if thread then c.harts.headD 0 else c.core)).eraseDups
    decide (places.length ≤ q.2.headD 0))

/-- Whether the per-core and per-pipe budgets of a launch admit one more of its crews on a core (R364); the vector units of an
exited crew have returned (R372). -/
def State.budgetsOk (s : State) (e : Eff) (k : Kernel) (core p0 : Nat) (gone : List Nat) : Bool :=
  (e.path.zip e.budgets).all (fun q =>
    let cs := (s.subtree q.1 gone).filter (fun c => c.core == core && c.kernel.width != 1)
    let sum (f : Kernel → Nat) : Nat := sumN (cs.map (fun c => f c.kernel)) + f k
    let units (p : Nat) : Nat :=
      sumN ((cs.filter (fun c => !c.draining)).map (fun c => teamsOn c.p0 c.kernel.crew p * unitsOf c.kernel.fvreg c.kernel.width)) + teamsOn p0 k.crew p * unitsOf k.fvreg k.width
    match q.2 with
    | [_, accb, chkb, barb, tagb, vub, scrb] =>
      decide (sum Kernel.acc ≤ accb) && decide (sum Kernel.chucks ≤ chkb) && decide (sum Kernel.barriers ≤ barb) &&
      decide (sum Kernel.tags ≤ tagb) && decide (sum Kernel.footprint ≤ scrb * 1024) && pipes.all (fun p => decide (units p ≤ vub))
    | _ => false)

/-- Whether, and where, a core admits a crew of a launch, some of its crews taken to be gone (R369 to R371). -/
def State.admitOn (s : State) (e : Eff) (k : Kernel) (core : Nat) (gone : List Nat) : Option Fit :=
  let cs := s.crewsOn core gone
  let p0 := (leastBy (fun p => (2048 - freeUnits cs p) * 4 + p) pipes).getD 0
  let mine (p : Nat) : Nat := teamsOn p0 k.crew p
  let slots (p : Nat) : Nat := sumN (cs.map (fun c => teamsOn c.p0 c.kernel.crew p)) + mine p
  let granted (p : Nat) : Nat := mine p * unitsOf k.pvreg k.width
  let needs (p : Nat) : Nat := maxN (k.needOn p0 p :: (cs.filter (fun c => c.unreserved && !c.draining)).map (fun c => c.kernel.needOn c.p0 p))
  if (s.core core).fenced || pipes.any (fun p => decide (16 < slots p)) ||
      pipes.any (fun p => decide (freeUnits cs p < granted p + needs p)) || !s.coresOk e false core gone ||
      !s.budgetsOk e k core p0 gone then none
  else
    let fit (base : Crew → Nat) (len : Kernel → Nat) (total align : Nat) : Option Nat :=
      firstFit (cs.map (fun c => (base c, len c.kernel))) (len k) total align
    match fit Crew.tileBase Kernel.acc 16 1, fit Crew.chuckBase Kernel.chucks 32 1, fit Crew.barBase Kernel.barriers 96 1,
        fit Crew.tagBase Kernel.tags 64 1, fit Crew.scratchBase Kernel.footprint 1048576 128 with
    | some a, some b, some c, some d, some f => some ⟨p0, a, b, c, d, f⟩
    | _, _, _, _, _ => none

/-- The core for a crew: of those that admit it the one with the fewest crews, the lowest on a tie (R370). -/
def State.chooseCore (s : State) (e : Eff) (k : Kernel) : Option (Nat × Fit) :=
  let able := (List.range 192).filterMap (fun c => (s.admitOn e k c []).map (fun f => (c, f)))
  leastBy (fun q => (s.crewsOn q.1 []).length * 256 + q.1) able

/-- Whether a distributor thread holds no crew, but for some taken to be gone. -/
def State.threadFree (s : State) (h : Nat) (gone : List Nat) : Bool :=
  s.run.crews.all (fun c => !c.harts.contains h || gone.contains c.key)

/-- Crews that run on a host core's threads. -/
def State.hostCrews (s : State) (core : Nat) : Nat := (s.run.crews.filter (fun c => c.harts.any (fun h => !isCompute h && coreOf h == core))).length

/-- The distributor thread for a width-1 crew: on an unfenced host core, of those that admit it the one with the fewest crews, then
the lowest (R369, R370). -/
def State.chooseThread (s : State) (e : Eff) (gone : List Nat) : Option Nat :=
  leastBy (fun h => s.hostCrews (coreOf h) * 65536 + h)
    (s.run.distThreads.filter (fun h => !(s.core (coreOf h)).fenced && s.threadFree h gone && s.coresOk e true h gone))

/-- Whether some core or thread admits a crew of a launch now. -/
def State.admits (s : State) (e : Eff) (k : Kernel) : Bool :=
  if k.width == 1 then (s.chooseThread e []).isSome else (s.chooseCore e k).isSome

/-! ### Which crew the distributor places next (R368, R370) -/

/-- The crew of a launch that is placed next, with how it was saved when it was: saved crews first, those that are parked
not before they are woken (R370, R378). -/
def Launch.nextCrew (l : Launch) : Option (Nat × Option Nat) :=
  match leastBy Prod.fst (l.saved.filter (fun p => p.2 != 1)) with
  | some p => some (p.1, some p.2)
  | none => if l.next < l.total then some (l.next, none) else none

/-- Whether the distributor can place a crew of a launch now: its first placement, which checks it, or an admission (R362,
R368, R379). -/
def State.servable (s : State) (l : Launch) : Bool :=
  let st := s.rcbState (s.rcbAt l 0)
  !l.ended && 1 ≤ st && st ≤ 3 &&
  (match l.nextCrew, l.eff, l.kernel with
   | none, _, _ => false
   | some _, some e, some k => !l.first || s.admits e k
   | some _, _, _ => !l.first)

/-- Effective class of a launch. -/
def Launch.prio (l : Launch) : Nat := (l.eff.map Eff.prio).getD 0

/-- The launch of a bound slot that has crews still to place. -/
def State.slotLaunch (s : State) (slot : Nat) : Option Launch :=
  match sget 0 s.run.slots slot with
  | 0 => none
  | q + 1 => s.run.launches.find? (fun l => l.queue == q && !l.ended && decide (l.next < l.total))

/-- The slots in the order that the distributor turns to them: the one served last while its turn goes on, then those after
it (R368). -/
def State.slotOrder (s : State) : List Nat :=
  let after := (List.range 32).map (fun i => (s.run.served + 1 + i) % 32)
  if s.run.turnLeft == 0 then after else s.run.served :: after

/-- The launch that the distributor serves next, with its slot when it has one: of the highest class that has a crew to
place, first the saved crews, then the slots in weighted turns (R368, R370). -/
def State.serveNext (s : State) : Option (Launch × Option Nat) :=
  let ls := s.run.launches.filter s.servable
  let bound := s.slotOrder.filterMap (fun i => (s.slotLaunch i).map (fun l => (l, i)))
  let fit (l : Launch) : Bool := ls.any (fun q => q.id == l.id)
  let resumed := ls.filter (fun l => l.saved.any (fun p => p.2 != 1))
  let top := maxN ((resumed ++ (bound.map Prod.fst).filter fit).map Launch.prio)
  match leastBy Launch.id (resumed.filter (fun l => l.prio == top)) with
  | some l => some (l, none)
  | none => (bound.find? (fun p => fit p.1 && p.1.prio == top)).map (fun p => (p.1, some p.2))

/-! ### Placement (R370, R378, R484) -/

/-- A context tag that nothing holds and no acknowledgement names (R206; log entry 3). -/
def State.newTag (s : State) (h : Nat) : Nat :=
  let used := s.mem.bound.map Bound.tag ++ (s.harts.map (fun p => if p.2.ctx == 0 then p.1 + 1 else p.2.ctx)) ++ s.mem.acks.map Ack.tag ++
    s.mem.reqs.map Req.tag ++ s.mem.replies.filterMap Reply.counts
  if !used.contains (h + 1) then h + 1
  else ((List.range (used.length + 1)).find? (fun n => !used.contains (16384 + n))).map (16384 + ·) |>.getD 0

/-- The base of the PRIVATE window of a team (R225, R370). -/
def privateBase (e : Eff) (k : Kernel) (crew team : Nat) : Nat :=
  let entry := 8 + 8 * ceilDiv k.width 64
  let size := roundUp (roundUp (4 * k.priv * k.width) 128 + e.sslimit * entry) 4096
  (e.parena + (crew * k.crew + team) * size) % 2 ^ 64

/-- A team as placement makes it (R65, R78, R370, R484). -/
def State.placedHart (s : State) (l : Launch) (e : Eff) (k : Kernel) (key index team h core : Nat) (resume : Bool) (wake : Word) : Hart :=
  let code := k.base + 256
  let g := s.gct l.guest
  let pl : Place :=
    { team := team, crew := index, crewx := index % l.gx, crewy := index / l.gx % l.gy, crewz := index / (l.gx * l.gy), core := core
      width := k.width, params := BitVec.ofNat 64 l.params, rcb := BitVec.ofNat 64 l.rcb
      save := BitVec.ofNat 64 (e.save + index * e.savestr), wake := wake, sslimit := e.sslimit
      pbase := privateBase e k index team, priv := k.priv, codeStart := code, codeLen := k.codeLen, preemptAt := k.preempt
      crewKey := key, launch := l.id, sAllot := if k.width == 1 then 128 else k.psreg
      vAllot := if k.width == 1 then 256 else k.pvreg, acqDone := k.width == 1 }
  let sup : SupRegs := { SupRegs.init with
    gtvec := BitVec.ofNat 64 (s.peekNat g 8), gdeleg := BitVec.ofNat 32 (s.peekNat (g + 8) 4)
    hdeleg := BitVec.ofNat 32 (s.peekNat (g + 12) 4), s1ptb := BitVec.ofNat 64 (s.peekNat (g + 16) 8)
    s2ptb := BitVec.ofNat 64 (s.peekNat (g + 24) 8) }
  let tag := s.newTag h
  { Hart.init with
    pc := BitVec.ofNat 64 (code + 12 * (if resume then k.resume else k.entry)), exec := allLanes k.width, live := allLanes k.width
    mode := if l.gmode then .guest else .user, guest := l.guest, ctx := if tag == h + 1 then 0 else tag, place := pl, sup := sup
    sched := { Sched.init with inReset := false, lastIssue := s.cycles.toNat } }

/-- The free team slots of a core by pipe, lowest first. -/
def State.freeSlots (s : State) (core p : Nat) : List Nat :=
  let used := (s.run.crews.map Crew.harts).flatten
  ((List.range 16).map (fun n => 256 + core * 64 + p * 16 + n)).filter (fun h => !used.contains h)

/-- The value that wakes a woken crew: its placement swaps 0 into the wake word (R378). -/
def State.wakeSwap (s : State) (l : Launch) (e : Eff) : Word × State :=
  (BitVec.ofNat 64 (s.wakeWord l), s.pokeVirt (s.guestCtx e.guest) e.wakew (toBytes 8 0))

/-- Place a crew of a launch on the harts given (R370): its launch registers, zeroed scratchpad, cleared tiles and empty
chucks, with an acquire at SYSTEM scope for a crew that resumes (R202). -/
def State.placeCrew (s : State) (l : Launch) (e : Eff) (k : Kernel) (index : Nat) (kind : Option Nat) (core : Nat) (harts : List Nat)
    (fit : Fit) : State :=
  let (key, s1) := s.fresh
  let (wake, s2) := if kind == some 2 then s1.wakeSwap l e else (sget 0 l.wakes index, s1)
  let c : Crew :=
    { key := key, launch := l.id, index := index, core := core, p0 := fit.p0, kernel := k, guest := l.guest, harts := harts
      tileBase := fit.tile, chuckBase := fit.chuck, barBase := fit.bar, tagBase := fit.tag, scratchBase := fit.scratch
      unreserved := k.width != 1, draining := false, discarded := false, preemptTaken := false, parkTaken := false, raised := none
      placedAt := s.cycles.toNat, saveFlag := false, scratch := [], smarks := [], amax := [], tagmap := 0, tagCount := [], tagSeen := []
      tiles := [], chucks := [], chains := [], operands := [], mlink := 0, prefetch := [], fetched := [], lineage := e.path }
  let s3 := s2.modRun (fun r => { r with crews := r.crews ++ [c] })
  let s4 := ((List.range harts.length).zip harts).foldl (fun st p =>
    st.setHart p.2 (st.placedHart l e k key index p.1 p.2 core kind.isSome wake)) s3
  let word := match s4.range (s4.guestCtx e.guest) e.wakew 8 .load false with
    | .ok (as_, _) => as_.headD 0 / 128
    | .error _ => 0
  let clock := max l.clock (max (if kind.isSome then sget 0 l.exits index else 0) (if kind == some 2 then s4.stampAt 0 word else 0))
  let s5 := (s4.acquire core 4).clockTo core clock
  let s6 := s5.modLaunch l.id (fun q => { q with
    next := if kind.isNone then q.next + 1 else q.next
    saved := q.saved.filter (fun p => p.1 != index)
    wakes := sset 0 q.wakes index wake
    sinces := q.sinces.filter (fun p => p.1 != index) })
  let s7 := if s6.rcbState (s6.rcbAt l 0) == 2 then s6 else s6.setRcb l.id 2
  s7.modRun (fun r => { r with
    slots := r.slots.filter (fun p => p.2 != l.queue + 1 || kind.isSome || decide (l.next + 1 < l.total)) })

/-- The harts of a crew on a core: team i takes the lowest free slot of pipe (p0 + i) mod 4 (R369). -/
def State.teamSlots (s : State) (core p0 n : Nat) : List Nat :=
  (List.range n).filterMap (fun i => ((s.freeSlots core ((p0 + i) % 4)).drop (i / 4)).head?)

/-- The state in which the next placement of a launch waits for a page that it reads: what its first placement checks, or the wake word
of a woken crew (R59, R378, R425, R429). -/
def State.placeGate (s : State) (l : Launch) : Option State :=
  if !l.first then s.firstGate l
  else match l.eff, l.nextCrew with
    | some e, some (_, some 2) => s.virtHeld (s.guestCtx e.guest) [(e.wakew, 8)]
    | _, _ => none

/-- CREW_PLACEMENT: the distributor serves a launch: its first placement checks it, and its next crew is placed where it is
admitted (R362, R368 to R370). Header and patches are read and held when the distributor first turns to the launch, also where no
core admits its first crew yet (R59; log entry 73). -/
def execCrewPlacement (launch : Nat) (s : State) : Out :=
  if s.quiesced then .next s else
  match s.serveNext with
  | none => .next s
  | some (l0, slot) =>
    if l0.id != launch then .next s
    else match s.placeGate l0 with
    | some st => .next st
    | none =>
      let (bad, l, s1) := if l0.first then (0, l0, s) else s.firstCheck l0
      if bad != 0 then .next ((s1.setRcb launch 0).endLaunch launch bad)
      else
        let s2 := s1.modLaunch launch (fun _ => l)
        match l.eff, l.kernel, l.nextCrew with
        | some e, some k, some (index, kind) =>
          let turn (st : State) : State := match slot with
            | none => st
            | some i => st.modRun (fun r => { r with
                turnLeft := if r.served == i && r.turnLeft != 0 then r.turnLeft - 1 else e.weight - 1
                served := i })
          if k.width == 1 then
            match s2.chooseThread e [] with
            | none => .next s2
            | some h => .next (turn (s2.placeCrew l e k index kind (coreOf h) [h] ⟨0, 0, 0, 0, 0, 0⟩))
          else
            match s2.chooseCore e k with
            | none => .next s2
            | some (c, fit) => .next (turn (s2.placeCrew l e k index kind c (s2.teamSlots c fit.p0 k.crew) fit))
        | _, _, _ => .next s2

/-! ### Pre-emption for a waiting crew (R374) -/

/-- The effective class of a crew. -/
def State.crewPrio (s : State) (c : Crew) : Nat := ((s.launch? c.launch).map Launch.prio).getD 0

/-- A crew put among others, those placed last first (R374). -/
def putYounger (c : Crew) : List Crew → List Crew
  | [] => [c]
  | d :: r => if c.placedAt < d.placedAt then d :: putYounger c r else c :: d :: r

/-- Victims in order: the lowest class first, the youngest first within a class (R374). -/
def State.victims (s : State) (cs : List Crew) (below : Nat) : List Crew :=
  let vs := cs.filter (fun c => !c.draining && c.raised.isNone && decide (s.crewPrio c < below))
  ([0, 1, 2].map (fun p => (vs.filter (fun c => s.crewPrio c == p)).foldr putYounger [])).flatten

/-- The crews to pre-empt on a core or thread so that a waiting crew would be admitted: the shortest run of first victims that
does, beside those that already leave; none where it would not be. -/
def State.victimsFor (s : State) (e : Eff) (k : Kernel) (place below : Nat) : Option (List Crew) :=
  let cs := if k.width == 1 then s.run.crews.filter (fun c => c.harts.contains place) else s.crewsOn place []
  let leaving := (cs.filter (fun c => c.draining || c.raised.isSome)).map Crew.key
  let vs := s.victims cs below
  let ok (n : Nat) : Bool :=
    let gone := leaving ++ (vs.take n).map Crew.key
    if k.width == 1 then !(s.core (coreOf place)).fenced && s.threadFree place gone && s.coresOk e true place gone else (s.admitOn e k place gone).isSome
  ((List.range (vs.length + 1)).find? ok).map (fun n => vs.take n)

/-- Whether a crew of a launch has waited long enough for others to be pre-empted for it: a saved one, or the next of its grid (R374). -/
def State.ripe (s : State) (l : Launch) : Bool :=
  l.saved.any (fun p => p.2 != 1 && decide (sget 0 l.sinces p.1 + waitCycles ≤ s.cycles.toNat)) ||
  (decide (l.next < l.total) && decide (l.since + waitCycles ≤ s.cycles.toNat))

/-- ADMISSION_WAIT_EXPIRY: a crew has waited 65,536 cycles, and crews of lower class on one core make room for it (R374). -/
def execAdmissionWaitExpiry (launch : Nat) (s : State) : Out :=
  match s.launch? launch with
  | none => .next s
  | some l =>
    let st := s.rcbState (s.rcbAt l 0)
    match l.eff, l.kernel, l.nextCrew with
    | some e, some k, some _ =>
      if l.ended || !l.first || st == 0 || 3 < st || !s.ripe l || s.admits e k then .next s
      else
        let places := if k.width == 1 then s.run.distThreads else List.range 192
        let found := places.filterMap (fun c => s.victimsFor e k c l.prio)
        if found.any List.isEmpty then .next s
        else match found with
          | [] => .next s
          | cs :: _ => .next (cs.foldl (fun st c => st.raisePreempt c.key false) s)
    | _, _, _ => .next s

/-! ### Exit (R202, R348, R403) -/

/-- Close the open chain of an exiting crew with CANCELLED (R336, R348). -/
def Crew.cancelOpen (c : Crew) : Crew :=
  { c with chains := c.chains.map (fun h =>
      if h.closed then h else { h with closed := true, status := addStatus h.status 0x80 h.tile }) }

/-- Whether an operation is cancelled when its crew exits: copies and drains to the scratchpad, and chuck loads (R348,
R403). -/
def AKind.diesWithCrew : AKind → Bool
  | .copy _ c => c.dsp
  | .chuckLoad .. => true
  | .drain _ _ _ _ _ _ _ _ _ ctl => (drainCtl ctl).scr
  | _ => false

/-- Release the bound tags of a crew that ends without a save, and report each (R206). -/
def State.loseBound (s : State) (c : Crew) : State :=
  let mine := s.mem.bound.filter (fun b => b.launch == c.launch && b.index == c.index)
  let s1 := mine.foldl (fun st b => st.crewFault c.key 0x23 b.team false 0 b.recVa) s
  s1.modMem (fun m => { m with
    bound := m.bound.filter (fun b => !(mine.any (fun q => q.tag == b.tag)))
    acks := m.acks.filter (fun a => !(mine.any (fun q => q.tag == a.tag)))
    reqs := m.reqs.map (fun r => if mine.any (fun q => q.tag == r.tag) then { r with tag := 0 } else r) })

/-- CREW_EXIT: the last team of a crew has exited: what it has under way is settled or cancelled, and its slot drains
(R202, R206, R348, R403). What has failed already is reported all the same (R402). -/
def execCrewExit (crew : Nat) (s : State) : Out :=
  match s.crew? crew with
  | none => .next s
  | some c =>
    if c.draining || c.harts.any (fun h => (s.hart h).alive) || (s.overran c && !c.discarded) then .next s
    else
      let ended := (s.launch? c.launch).all Launch.ended
      let saves := !c.discarded && !ended && c.preemptTaken && c.harts.any (fun h => (s.hart h).trap.tstatus.getLsbD 3)
      let mine (h : Nat) : Bool := c.harts.contains h
      let s1 := s.modCrew crew (fun q => { q.cancelOpen with draining := true, saveFlag := saves })
      let s2 := s1.modRun (fun r => { r with
        ops := updWhere (fun o => o.crew == crew && o.kind.diesWithCrew && o.status.isNone) (fun o => { o with cancelled := true, silent := true }) r.ops })
      let s3 := s2.modMem (fun m => { m with
        loads := m.loads.filter (fun l => !mine l.hart)
        replies := m.replies.filter (fun r => !mine r.hart || r.counts.isSome)
        reqs := m.reqs.filter (fun r => !mine r.hart || r.kind.writes) })
      let s4 := s3.modHub (fun u => { u with kvx := u.kvx.filter (fun k => !mine k.hart) })
      let s5 := s4.modCore c.core (fun k => { k with acqs := k.acqs.filter (fun h => !mine h) })
      .next (if saves then s5 else s5.loseBound c)

/-- The state in which a launch's entry to PARKED waits for a page that the hub then reads: the wake word, and its sequence's descriptor
and block entries (R378, R425, R429, R442). -/
def State.parkGate (s : State) (l : Launch) : Option State :=
  match l.eff with
  | none => none
  | some e =>
    (if e.wakew == 0 then none else s.virtHeld (s.guestCtx e.guest) [(e.wakew, 8)]).orElse fun _ =>
      let kd := (sget 0 s.hub.kvdir l.guest).toNat
      if !e.seqv || kvdirBad kd || e.seq ≥ 2 ^ bits kd 1 5 then none
      else (s.virtHeld (hubCtx l.guest l.s1ptb l.s2ptb) [(kvDescAt kd e.seq, 64)]).orElse fun _ =>
        match s.descentDesc l e with
        | .error _ => none
        | .ok (at_, v) => s.contHeld (Cont.ofDesc 0 l.id l.guest l.s1ptb l.s2ptb e.seq at_ v l.die e.ladder 1 0)

/-- The hub reads the wake word at the entry to PARKED (R378); a wake waits while a checkpoint runs (R492). -/
def State.parkRcb (s : State) (launch : Nat) : State :=
  let s1 := (s.modLaunch launch (fun l => { l with saved := l.saved.map (fun p => (p.1, 1)) })).setRcb launch 4
  match s1.launch? launch with
  | none => s1
  | some l =>
    let s2 := (s1.hubPoke (s1.rcbAt l 104) 8 s.cycles.toNat).enterDescent launch
    let s3 := if s2.quiesced then s2 else s2.wakeIf l
    match s3.hub.conts.find? (fun k => k.launch == launch) with
    | some k => s3.pump k.id
    | none => s3

/-- A crew's launch once the crew is saved or has retired; a saved crew waits for admission from now on (R374, R379). -/
def State.overOf (s : State) (c : Crew) (l : Launch) : Launch :=
  let sup := (s.hart (c.harts.headD 0)).sup
  let clock := (s.core c.core).lamport.toNat
  if c.saveFlag then { l with
    sinces := sset 0 l.sinces c.index s.cycles.toNat, exits := sset 0 l.exits c.index clock
    saved := l.saved ++ [(c.index, b2n c.parkTaken)], s1ptb := sup.s1ptb.toNat, s2ptb := sup.s2ptb.toNat, die := dieOf c.core }
  else { l with retired := l.retired + 1, endClock := max l.endClock clock }

/-- The crews of a launch but one. -/
def State.othersOf (s : State) (c : Crew) : Bool := s.run.crews.any (fun q => q.launch == c.launch && q.key != c.key)

/-- Whether the end of a crew parks its launch, given as the crew leaves it (R379). -/
def State.parks (s : State) (c : Crew) (l : Launch) : Bool :=
  !l.ended && l.retired != l.total && !s.othersOf c && !l.saved.isEmpty && s.rcbState (s.rcbAt l 0) == 2 && l.saved.all (fun p => p.2 != 0)

/-- What the end of a crew does to its launch and RCB (R379). -/
def State.crewOver (s : State) (c : Crew) : State :=
  match s.launch? c.launch with
  | none => s
  | some l0 =>
    let s1 := s.modLaunch c.launch (s.overOf c)
    match s1.launch? c.launch with
    | none => s1
    | some l =>
      if l0.ended then s1
      else if l.retired == l.total then
        (s1.setRcb l.id (if (l.eff.map Eff.retire).getD false then 7 else 0)).endLaunch l.id 0
      else if s1.othersOf c || l.saved.isEmpty || s1.rcbState (s1.rcbAt l 0) != 2 then s1
      else if s1.parks c l then s1.parkRcb l.id
      else s1.setRcb l.id 3

/-- Whether everything that keeps a draining crew's slot is settled (R202, R403). -/
def State.settledCrew (s : State) (c : Crew) : Bool :=
  c.chains.isEmpty && !s.run.ops.any (fun o => o.crew == c.key) &&
  c.harts.all (fun h => (s.hart h).sb.isEmpty && (s.hart h).uasc == 0 && !s.mem.reqs.any (fun r => r.hart == h) &&
    !s.mem.replies.any (fun r => r.hart == h) && !s.mem.acks.any (fun a => a.tag == s.tagOf h)) &&
  !s.backWaits c.core (fun _ => true)

/-- DRAINING_SETTLED: the slot of an exited crew is free, its writes visible as by a release at SYSTEM scope, and its launch
goes on, parks or ends (R202, R379, R403). -/
def execDrainingSettled (crew : Nat) (s : State) : Out :=
  match s.crew? crew with
  | none => .next s
  | some c =>
    if !c.draining || !s.settledCrew c then .next s
    else match (s.launch? c.launch).bind (fun l => if s.parks c (s.overOf c l) then s.parkGate (s.overOf c l) else none) with
    | some st => .next st
    | none =>
      let s1 := (s.release c.core 4).modRun (fun r => { r with crews := r.crews.filter (fun q => q.key != crew) })
      let s2 := s1.crewOver c
      .next (c.harts.foldl (fun st h => st.setHart h Hart.init) s2)

/-! ### WAKE and the RCB (R377 to R379) -/

/-- WAKE: a store at SYSTEM scope with REL (R377). -/
def execWake (x : Args) (s : State) : Out :=
  memIssue .wake x s (fun s1 =>
    let va := s1.addrOf .wake { x with b := .none } 8 0
    match s1.checkAll ⟨0, 8, .store, false, true, .plainStore⟩ [(0, va)] with
    | .out o => o
    | .ok refs s2 =>
      let (id, s3) := s2.fresh
      let bs := toBytes 8 (s2.src .b64 x.b 0)
      s3.takeStores s1 (s.now.sched.wait == .store)
        ((refs.map (fun r => storeEntries id s2.now.mode false true r.io false false 2 4 r bs false)).flatten))

/-- RCB_STATE_WRITE: a HOST write of IDLE to STATE of a FAULTED or RETIRED RCB; any other write is ignored (R379). -/
def execRcbStateWrite (rcb : Nat) (value : BitVec 3) (s : State) : Out :=
  let st := s.rcbState rcb
  .next (if value == 0 && (st == 6 || st == 7) then s.putRcb rcb 0 else s)

end Sys2Proof.Machine
end

