-- ==== Sys2Proof/Machine/Load.lean ====
section
/-! DEFINITION. A program of one instruction, placed where the next step fetches it (log entry 22): page tables that map the first
page of the virtual space, the word there, and a hart that may run it. -/
namespace Sys2Proof.Machine

/-- Where the placed page lies. -/
def loadFrame : Nat := 0x5000

/-- Write the tables from physical address 0 that map virtual page 0, for reads, writes and fetches of every mode but GUEST, to
the placed page, and the word at its start (R405, R406). -/
def State.loadPage (s : State) (w : Nat) : State :=
  ((((((s.pokeNat 0 8 0x1001).pokeNat 0x1000 8 0x2001).pokeNat 0x2000 8 0x3001).pokeNat 0x3000 8 0x4001).pokeNat 0x4000 8
    (loadFrame + 0xDF)).pokeNat loadFrame 12 w)

/-- A hart that runs from virtual address 0 in a mode. -/
def loadHart (m : Mode) (width crew : Nat) : Hart :=
  { Hart.init with
    exec := allLanes width, live := allLanes width, mode := m
    place := { Place.init with width := width, crewKey := crew, launch := crew, sAllot := 128, vAllot := 256 }
    sched := { Sched.init with inReset := false } }

/-- A kernel of one team with every share of a core (R57). -/
def loadKernel : Kernel := ⟨0, 32, 1, 128, 128, 256, 256, 0x10000, 16, 32, 96, 64, 0, 4096, 0, 0, 0, 0⟩

/-- The crew of that team on core 0. -/
def loadCrew (h : Nat) : Crew :=
  { key := 1, launch := 1, index := 0, core := 0, p0 := 0, kernel := loadKernel, guest := 0, harts := [h], tileBase := 0,
    chuckBase := 0, barBase := 0, tagBase := 0, scratchBase := 0, unreserved := false, draining := false, discarded := false,
    preemptTaken := false, parkTaken := false, raised := none, placedAt := 0, saveFlag := false, scratch := [], smarks := [],
    amax := [], tagmap := 0, tagCount := [], tagSeen := [], tiles := [], chucks := [], chains := [], operands := [], mlink := 0, prefetch := [],
    fetched := [], lineage := [] }

/-- Where an instruction runs: a team of a crew on core 0, a service core in FW mode, or host thread 0 in HOST mode. -/
inductive LoadAt where
  | team | service | thread
  deriving DecidableEq, Repr

/-- The place for a word: a form that the host die bars goes to a team, one that only FW may run to a service core. -/
def loadAtOf (w : Nat) : LoadAt :=
  match decodeWord w with
  | .ok i =>
    (match Instr.form? i with
     | some (o, x) => if hostBarred o x then .team else if o.row.mode == .fw then .service else .thread
     | none => .thread)
  | .error _ => .thread

/-- Place a word and make its issue the next step. -/
def State.load (s : State) (w : Nat) : State :=
  let s1 := s.loadPage w
  match loadAtOf w with
  | .team => { (s1.setHart 256 (loadHart .user 32 1)).modRun (fun r => { r with crews := [loadCrew 256] }) with
      cur := 256, turn := .hart }
  | .service => { s1.setHart 128 (loadHart .fw 1 0) with cur := 128, turn := .hart }
  | .thread => { s1.setHart 0 (loadHart .host 1 0) with cur := 0, turn := .hart }

end Sys2Proof.Machine
end

