-- ==== Sys2Proof/Machine/Integer.lean ====
section
/-! DEFINITION. Class 0: integer arithmetic, addresses, compare, select and moves (05_integer R91 to R100). -/
namespace Sys2Proof.Machine

/-- The saturated value of R92: clamped to the range of the type. -/
def satInt (t : Ty) (y : Int) : Int :=
  let w := tyBits t
  let lo : Int := if tySigned t then -(2 ^ (w - 1) : Int) else 0
  let hi : Int := if tySigned t then 2 ^ (w - 1) - 1 else 2 ^ w - 1
  min (max y lo) hi

/-- The result with SUB = SAT applied (R92). -/
def satIf (x : Args) (y : Int) : Int := if x.sub == 1 then satInt x.ty y else y

/-- Source A of a lane, interpreted by T. -/
def State.srcA (s : State) (x : Args) (l : Nat) : Int := interp x.ty (s.src x.ty x.a l)

/-- Source B of a lane, interpreted by T. -/
def State.srcB (s : State) (x : Args) (l : Nat) : Int := interp x.ty (s.src x.ty x.b l)

/-- Register D of a lane, interpreted by T, where the form reads it. -/
def State.srcD (s : State) (x : Args) (l : Nat) : Int := interp x.ty (s.src x.ty x.d l)

/-- The two sources of a form that has a two-operand form: (A, B), or (D, A) in that form (R88). -/
def State.pairOf (s : State) (o : Op) (x : Args) (l : Nat) : Int × Int :=
  if twoOperand o x then (s.srcD x l, s.srcA x l) else (s.srcA x l, s.srcB x l)

/-- Quotient and remainder of R93, truncating toward zero; division by zero gives all ones and the dividend. -/
def divRem (t : Ty) (a b : Int) : Int × Int :=
  if b = 0 then (if tySigned t then -1 else 2 ^ tyBits t - 1, a) else (a.tdiv b, a.tmod b)

/-- The comparisons of CC6 (R45, R96). -/
def cc6 (c : Nat) (a b : Int) : Bool :=
  match c with
  | 0 => a == b | 1 => a != b | 2 => a < b | 3 => a ≤ b | 4 => a > b | _ => a ≥ b

/-- ADD (R92, R88). -/
def execAdd (x : Args) (s : State) : Out :=
  lanewise .add x (fun s l => let p := s.pairOf .add x l; satIf x (p.1 + p.2)) s

/-- SUB (R92). -/
def execSub (x : Args) (s : State) : Out := lanewise .sub x (fun s l => satIf x (s.srcA x l - s.srcB x l)) s

/-- MUL (R92). -/
def execMul (x : Args) (s : State) : Out := lanewise .mul x (fun s l => satIf x (s.srcA x l * s.srcB x l)) s

/-- MULH: the high half of the exact product (R92). -/
def execMulh (x : Args) (s : State) : Out :=
  lanewise .mulh x (fun s l => (s.srcA x l * s.srcB x l) / (2 ^ tyBits x.ty : Int)) s

/-- MAD: the exact sum of the product and D, rounded or saturated once (R92). -/
def execMad (x : Args) (s : State) : Out :=
  lanewise .mad x (fun s l => satIf x (s.srcA x l * s.srcB x l + s.srcD x l)) s

/-- DIV (R93). -/
def execDiv (x : Args) (s : State) : Out := lanewise .div x (fun s l => (divRem x.ty (s.srcA x l) (s.srcB x l)).1) s

/-- REM (R93). -/
def execRem (x : Args) (s : State) : Out := lanewise .rem x (fun s l => (divRem x.ty (s.srcA x l) (s.srcB x l)).2) s

/-- MIN (R94). -/
def execMin (x : Args) (s : State) : Out := lanewise .min x (fun s l => min (s.srcA x l) (s.srcB x l)) s

/-- MAX (R94). -/
def execMax (x : Args) (s : State) : Out := lanewise .max x (fun s l => max (s.srcA x l) (s.srcB x l)) s

/-- ABS (R94). -/
def execAbs (x : Args) (s : State) : Out := lanewise .abs x (fun s l => satIf x ((s.srcA x l).natAbs : Int)) s

/-- LEA: a + b * 2^SUB modulo 2^64 (R95). A WIDE immediate is sign-extended (R34). -/
def execLea (x : Args) (s : State) : Out :=
  lanewise .lea x (fun s l =>
    let p := s.pairOf .lea x l
    p.1 + p.2 * 2 ^ x.sub.toNat) s

/-- CMP: with a K destination each member's bit, other bits kept; with an S destination 1 or 0 (R96). -/
def execCmp (x : Args) (s : State) : Out :=
  issue .cmp x s (fun s1 =>
    let t := s1.now
    let res (l : Nat) : Bool := cc6 x.sub.toNat (s1.srcA x l) (s1.srcB x l)
    let t' := match x.d with
      | .k r _ =>
        let m := t.members x
        let old := (t.getK r.toNat).v
        t.setK r.toNat ((old &&& ~~~m) ||| maskOf ((lanesOf t.W m).filter res))
      | .s r _ _ => t.setS r.toNat (if res 0 then 1 else 0)
      | _ => t
    .next (s1.setHart s1.cur t'.advance))

/-- SEL: the guard bit selects A or B for each lane of %exec; with an S destination, whether any lane of %exec has it
(R97). -/
def execSel (x : Args) (s : State) : Out :=
  lanewise .sel x (fun s l =>
    let t := s.now
    let g := t.guardLanes x
    let pick := if kindOf x.d == .s then (t.exec &&& g) != 0 else laneIn g l
    if pick then interp x.ty (s.src x.ty x.a l) else interp x.ty (s.src x.ty x.b l)) s

/-- MOV (R98). -/
def execMov (x : Args) (s : State) : Out := lanewise .mov x (fun s l => s.srcA x l) s

/-- MOVW: the sign-extended 36-bit immediate (R99). -/
def execMovw (x : Args) (s : State) : Out := lanewise .movw x (fun s l => s.srcA x l) s

/-- MOVH: bits [63:32] from the immediate, bits [31:0] kept (R100). -/
def execMovh (x : Args) (s : State) : Out :=
  lanewise .movh x (fun s l =>
    let h : Nat := match x.a with
      | .wide i => i.toNat % 2 ^ 32
      | a => wrap 32 (immInt a)
    ((h * 2 ^ 32 + s.src .b64 x.d l % 2 ^ 32 : Nat) : Int)) s

end Sys2Proof.Machine
end

