-- ==== Sys2Proof/Machine/BitOps.lean ====
section
/-! DEFINITION. Class 1: logic, shifts, counts, bit fields and byte permutes (05_integer R101 to R106). -/
namespace Sys2Proof.Machine

/-- Source A of a lane as unsigned w-bit bits. -/
def State.bitsA (s : State) (x : Args) (l : Nat) : Nat := s.src x.ty x.a l

/-- Source B of a lane as unsigned w-bit bits. -/
def State.bitsB (s : State) (x : Args) (l : Nat) : Nat := s.src x.ty x.b l

/-- The two sources of a logic form as bits: (A, B), or (D, A) in the two-operand form (R88). -/
def State.bitPair (s : State) (o : Op) (x : Args) (l : Nat) : Nat × Nat :=
  if twoOperand o x then (s.src x.ty x.d l, s.bitsA x l) else (s.bitsA x l, s.bitsB x l)

/-- The complement of a w-bit value. -/
def notBits (w n : Nat) : Nat := 2 ^ w - 1 - n % 2 ^ w

/-- The number of set bits of a w-bit value (R104). -/
def popBits (w n : Nat) : Nat := ((List.range w).filter (fun i => bit n i)).length

/-- The number of zero bits above the highest set bit of a w-bit value, w for 0 (R104). -/
def leadingZeros (w n : Nat) : Nat := if n = 0 then w else w - 1 - log2 n

/-- The number of zero bits below the lowest set bit of a w-bit value, w for 0 (R104). -/
def trailingZeros (w n : Nat) : Nat := ((List.range w).find? (fun i => bit n i)).getD w

/-- Bit i becomes bit w - 1 - i (R104). -/
def reverseBits (w n : Nat) : Nat := (List.range w).foldl (fun a i => a + b2n (bit n i) * 2 ^ (w - 1 - i)) 0

/-- The field of BFX (R105). -/
def extractField (t : Ty) (a ctl : Nat) : Int :=
  let w := tyBits t
  let pos := bits ctl 0 8
  let len := min (bits ctl 8 8) w
  let f := (interp t a / (2 ^ pos : Int)) % (2 ^ len : Int)
  if tySigned t && len > 0 && f ≥ 2 ^ (len - 1) then f - 2 ^ len else f

/-- The merge of BFI (R105). -/
def insertField (w d a ctl : Nat) : Nat :=
  let pos := bits ctl 0 8
  let len := min (bits ctl 8 8) w
  let mk := ((2 ^ len - 1) * 2 ^ pos) % 2 ^ w
  (d &&& notBits w mk) ||| ((a * 2 ^ pos) &&& mk)

/-- The bytes of PRMB (R106). -/
def permuteBytes (w a sel : Nat) : Nat :=
  (List.range (w / 8)).foldl (fun acc i =>
    let c := bits sel (4 * i) 4
    acc + (if bit c 3 then 0 else bits a (8 * (c % 8 % (w / 8))) 8) * 2 ^ (8 * i)) 0

/-- AND (R102). -/
def execAnd (x : Args) (s : State) : Out := lanewise .and x (fun s l => let p := s.bitPair .and x l; ((p.1 &&& p.2 : Nat) : Int)) s

/-- OR (R102). -/
def execOr (x : Args) (s : State) : Out := lanewise .or x (fun s l => let p := s.bitPair .or x l; ((p.1 ||| p.2 : Nat) : Int)) s

/-- XOR (R102). -/
def execXor (x : Args) (s : State) : Out := lanewise .xor x (fun s l => let p := s.bitPair .xor x l; ((p.1 ^^^ p.2 : Nat) : Int)) s

/-- ANDN (R102). -/
def execAndn (x : Args) (s : State) : Out := lanewise .andn x (fun s l => let p := s.bitPair .andn x l; ((p.1 &&& notBits (tyBits x.ty) p.2 : Nat) : Int)) s

/-- NOT (R102). -/
def execNot (x : Args) (s : State) : Out := lanewise .not x (fun s l => ((notBits (tyBits x.ty) (s.bitsA x l) : Nat) : Int)) s

/-- SHL (R103): an amount of w or more gives 0. -/
def execShl (x : Args) (s : State) : Out :=
  lanewise .shl x (fun s l =>
    let n := s.bitsB x l
    if n ≥ tyBits x.ty then 0 else ((s.bitsA x l * 2 ^ n : Nat) : Int)) s

/-- SHR (R103). -/
def execShr (x : Args) (s : State) : Out :=
  lanewise .shr x (fun s l =>
    let n := s.bitsB x l
    if n ≥ tyBits x.ty then 0 else ((s.bitsA x l / 2 ^ n : Nat) : Int)) s

/-- SRA: fills from bit w - 1, the amount capped at w - 1 (R103). -/
def execSra (x : Args) (s : State) : Out :=
  lanewise .sra x (fun s l =>
    toSigned (tyBits x.ty) (s.bitsA x l) / (2 ^ min (s.bitsB x l) (tyBits x.ty - 1) : Int)) s

/-- ROL (R103). -/
def execRol (x : Args) (s : State) : Out :=
  lanewise .rol x (fun s l =>
    let w := tyBits x.ty
    let m := s.bitsB x l % w
    ((s.bitsA x l * 2 ^ m + s.bitsA x l / 2 ^ (w - m) : Nat) : Int)) s

/-- CLZ (R104). -/
def execClz (x : Args) (s : State) : Out := lanewise .clz x (fun s l => ((leadingZeros (tyBits x.ty) (s.bitsA x l) : Nat) : Int)) s

/-- CTZ (R104). -/
def execCtz (x : Args) (s : State) : Out := lanewise .ctz x (fun s l => ((trailingZeros (tyBits x.ty) (s.bitsA x l) : Nat) : Int)) s

/-- POPC (R104). -/
def execPopc (x : Args) (s : State) : Out := lanewise .popc x (fun s l => ((popBits (tyBits x.ty) (s.bitsA x l) : Nat) : Int)) s

/-- BREV (R104). -/
def execBrev (x : Args) (s : State) : Out := lanewise .brev x (fun s l => ((reverseBits (tyBits x.ty) (s.bitsA x l) : Nat) : Int)) s

/-- BFX (R105). -/
def execBfx (x : Args) (s : State) : Out := lanewise .bfx x (fun s l => extractField x.ty (s.bitsA x l) (s.bitsB x l)) s

/-- BFI (R105). -/
def execBfi (x : Args) (s : State) : Out :=
  lanewise .bfi x (fun s l =>
    ((insertField (tyBits x.ty) (s.src x.ty x.d l) (s.bitsA x l) (s.bitsB x l) : Nat) : Int)) s

/-- PRMB (R106). -/
def execPrmb (x : Args) (s : State) : Out := lanewise .prmb x (fun s l => ((permuteBytes (tyBits x.ty) (s.bitsA x l) (s.bitsB x l) : Nat) : Int)) s

end Sys2Proof.Machine
end

