-- ==== Sys2Proof/Machine/Counters.lean ====
section
/-! DEFINITION. The counter forms CNTR, CNTC, PGCNT and TSTP (21_counters R474 to R478). -/
namespace Sys2Proof.Machine

/-- The lowest mode of a counter for CNTR, or for CNTC; none for a NUM outside the map (R475). -/
def cntRank (num : Nat) (write : Bool) : Option Nat :=
  if num < 8 then some (if write then 1 else 0)
  else if num < 0x10 then some (if write then 1 else 0)
  else if num < 0x15 then some 0
  else if 0x20 ≤ num && num < 0x2A then some (if write then 2 else 1)
  else if 0x40 ≤ num && num < 0x4A then some 2
  else if 0x50 ≤ num && num < 0x54 then some 2
  else none

/-- A performance counter of a core. -/
def Core.pmcAt (c : Core) (n : Nat) : Pmc := sget Pmc.init c.pmc n

/-- Whether the OWNER rule keeps the running thread from a performance counter's value (R476). -/
def Pmc.foreign (p : Pmc) (t : Hart) : Bool := modeRank t.mode < 2 && p.owner != t.guest

/-- A PMCFG as it is read (R476). -/
def Pmc.word (p : Pmc) : Word := BitVec.ofNat 64 (bits p.cfg.toNat 0 12 + p.owner * 2 ^ 12)

/-- The guest whose migration counters a selector names (R475). -/
def Hart.cntGuest (t : Hart) (sel : Nat) : Nat := if modeRank t.mode ≥ 2 then bits sel 12 6 else t.guest

/-- A prefetch counter of the running hart's crew, or of the thread (R475). -/
def State.pfCount (s : State) (n : Nat) : Word :=
  match s.crewOf s.cur with
  | some c => sget 0 c.prefetch n
  | none => sget 0 s.now.prefetch n

/-- The value that CNTR gives (R475 to R477). -/
def State.counter (s : State) (sel : Nat) : Word :=
  let num := bits sel 0 12
  let c := s.core (coreOf s.cur)
  let p := c.pmcAt (num % 8)
  if num < 0x10 then (if p.foreign s.now then 0 else if num < 8 then p.count else p.word)
  else if num < 0x15 then s.pfCount (num - 0x10)
  else if num < 0x40 then sget 0 s.hub.counters (migKey (s.now.cntGuest sel) num)
  else if num < 0x50 then sget 0 s.hub.counters num
  else (s.home (num - 0x50)).rejections

/-- The check of a selector: how the form ends when it fails (R475). -/
def State.cntCheck (s : State) (sel : Nat) (write : Bool) : Option Out :=
  match (if sel < 2 ^ 18 then cntRank (bits sel 0 12) write else none) with
  | none => some (s.illegal 8)
  | some r => if modeRank s.now.mode < r then some (s.raise 0x16 0 0 0) else none

/-- CNTR (R477). -/
def execCntr (x : Args) (s : State) : Out :=
  issue .cntr x s (fun s1 =>
    let sel := s1.scalar x.a
    match s1.cntCheck sel false with
    | some o => o
    | none => (s1.modNow (fun t => t.setS (regOf x.d) (s1.counter sel))).done)

/-- Whether a CNTC of a performance counter or of its configuration is refused by the OWNER rule (R477). -/
def Pmc.refuses (p : Pmc) (t : Hart) : Bool := p.foreign t && bits p.cfg.toNat 0 8 != 0

/-- Write a performance counter of the running hart's core. -/
def State.setPmc (s : State) (n : Nat) (p : Pmc) : State :=
  s.modCore (coreOf s.cur) (fun c => { c with pmc := sset Pmc.init c.pmc n p })

/-- What CNTC does to a counter, and whether it has effect (R477). -/
def State.setCounter (s : State) (sel : Nat) (v : Word) : Bool × State :=
  let num := bits sel 0 12
  let t := s.now
  let p := (s.core (coreOf s.cur)).pmcAt (num % 8)
  if num < 0x10 then
    if p.refuses t then (false, s)
    else if num < 8 then (true, s.setPmc num { p with count := v })
    else (true, s.setPmc (num % 8) ⟨BitVec.ofNat 64 (bits v.toNat 0 12), 0, t.guest⟩)
  else if num < 0x15 then
    (true, match s.crewOf s.cur with
      | some c => s.modCrew c.key (fun q => { q with prefetch := sset 0 q.prefetch (num - 0x10) v })
      | none => s.modNow (fun u => { u with prefetch := sset 0 u.prefetch (num - 0x10) v }))
  else if num < 0x50 then
    let key := if num < 0x40 then migKey (t.cntGuest sel) num else num
    (true, s.modHub (fun u => { u with counters := sset 0 u.counters key v }))
  else (true, s.modHome (num - 0x50) (fun h => { h with rejections := v }))

/-- CNTC (R477). -/
def execCntc (x : Args) (s : State) : Out :=
  issue .cntc x s (fun s1 =>
    let sel := s1.scalar x.a
    match s1.cntCheck sel true with
    | some o => o
    | none =>
      let (took, s2) := s1.setCounter sel (BitVec.ofNat 64 (s1.scalar x.b))
      (s2.modNow (fun t => if kindOf x.d == .s then t.setS (regOf x.d) (BitVec.ofNat 64 (b2n took)) else t)).done)

/-- Whether the leaf of an address is a park entry, with the stage that denies R when one does: its fields but V, [63:60] and PPN are those
of the leaf that it was (R408, R425, R474). -/
def State.parkedAt (s : State) (cx : XCtx) (va : Nat) : Option (Option Nat) :=
  if bits va 57 7 != (if bit va 56 then 127 else 0) || (s.cached cx va).isSome then none
  else match s.walk cx va with
    | .parked pte leaf =>
      match (s.pokeNat leaf 8 (putBits (putBits (putBits pte 0 1 1) 12 40 0) 60 4 0)).walk cx va with
      | .found t _ _ => some (t.deny cx.mode .load false)
      | _ => some none
    | _ => none

/-- The report of another package's home: its CNT and SAT are free, FOREIGN is so only below HOST, and CNT is 0 with it
(R474; log entry 18). -/
def peerCount (r : Nat) (below : Bool) : Nat :=
  (if below && bit r 61 then 2 ^ 61 else bits r 0 32) + bits r 62 1 * 2 ^ 62

/-- PGCNT (R474). The home of another package's frame is asked, and answers with its own record (log entry 18). -/
def execPgcnt (x : Args) (s : State) : Out :=
  issue .pgcnt x s (fun s1 =>
    let va := s1.addrOf .pgcnt { x with b := .none } 1 0
    let give (st : State) (v : Nat) : Out := (st.modNow (fun t => t.setS (regOf x.d) (BitVec.ofNat 64 v))).done
    match s1.parkedAt (s1.xctx s1.cur) va with
    | some (some g) => s1.raise 6 va (accessNo .load + 16 * g) 1
    | some none => give s1 (2 ^ 60)
    | none => s1.placed1 .pgcnt x false (fun _ => none) (fun _ pa _ s2 =>
        let below := decide (modeRank s2.now.mode < 2)
        if selector pa == 3 && bits pa 39 6 != s2.pkg.pkg then
          give (s2.send (.countRequest (bits pa 39 6) pa s2.now.guest)) (peerCount (Config.peerReport s2.tick) below)
        else give s2 (s2.countReport pa s2.now.guest below)))

/-- Whether an earlier instruction of a hart has still to complete: a store to leave, a request or a reply to come, an MSMX or MSCL of the
hart to end. Futures do not count (R478). -/
def State.unwritten (s : State) (h : Nat) : Bool :=
  s.earlierOut h s.nextId || !(s.hart h).sb.isEmpty || (s.hart h).uasc != 0 ||
  s.run.ops.any (fun o => o.hart == h && (match o.kind with | .msmx .. => true | .mscl .. => true | _ => false))

/-- TSTP (R478). -/
def execTstp (x : Args) (s : State) : Out :=
  issue .tstp x s (fun s1 =>
    if s1.unwritten s1.cur then s1.block .form
    else
      let v := if x.a == .none then s1.cycles else s1.cycles - BitVec.ofNat 64 (s1.scalar x.a)
      (s1.modNow (fun t => t.setS (regOf x.d) v)).done)

end Sys2Proof.Machine
end

