-- ==== Sys2Proof/Machine/Futures.lean ====
section
/-! DEFINITION. Waiting for, testing and cancelling asynchronous operations, the crew tags, and the completion of futures
(17_engine_queues R393 to R399; 16_launch R362). -/
namespace Sys2Proof.Machine

/-- Bits [47:0] of a handle register (R395). -/
def handleOf (v : Nat) : Nat := v % 2 ^ 48

/-- The running hart observes the completion that a window records for a handle value (R280, R283, R393). -/
def State.observeHandle (s : State) (v : Nat) : State :=
  match s.winRec v with
  | some r => s.observe (coreOf s.cur) r.scope r.clock
  | none => s

/-- Write D of a future form when it is a register. -/
def Hart.putD (t : Hart) (d : Operand) (v : Nat) : Hart :=
  if kindOf d == .s then t.setS (regOf d) (BitVec.ofNat 64 v) else t

/-- AWAIT (R395). -/
def execAwait (x : Args) (s : State) : Out :=
  issue .await x s (fun s1 =>
    let v := handleOf (s1.scalar x.a)
    match s1.judge s1.now.guest s1.now.mode v with
    | .bad => (s1.modNow (fun t => t.putD x.d (v + 0xFFFE * 2 ^ 48))).done
    | .expired => (s1.modNow (fun t => t.putD x.d (v + 0xFFFF * 2 ^ 48))).done
    | .pending => s1.block (.awaitOp (BitVec.ofNat 64 v))
    | .complete st => ((s1.observeHandle v).modNow (fun t => t.putD x.d (v + st * 2 ^ 48))).done)

/-- The result of FTEST: whether A holds a status or names an operation that no longer runs (R396). -/
def State.ftest (s : State) (a : SReg) : Bool :=
  let v := a.v.toNat
  (a.st == .full && v / 2 ^ 48 != 0) ||
  (match s.judge s.now.guest s.now.mode (handleOf v) with
   | .pending => false
   | _ => true)

/-- FTEST (R396). -/
def execFtest (x : Args) (s : State) : Out :=
  issue .ftest x s (fun s1 =>
    let a := s1.now.getS (regOf x.a)
    let t := s1.ftest a
    let s2 := match (if t then s1.judge s1.now.guest s1.now.mode (handleOf a.v.toNat) else .pending) with
      | .complete _ => s1.observeHandle (handleOf a.v.toNat)
      | _ => s1
    (s2.modNow (fun u =>
      if kindOf x.d == .k then u.setK (regOf x.d) (if t then allLanes u.W else 0) else u.putD x.d (b2n t))).done)

/-- FHND (R396). -/
def execFhnd (x : Args) (s : State) : Out :=
  issue .fhnd x s (fun s1 => (s1.modNow (fun t => t.setS (regOf x.d) (t.getS (regOf x.a)).v)).done)

/-- Cancel a launch before its first placement: a record that has not started is passed over, and one that has frees its
RCB (R362, R397). -/
def State.cancelLaunch (s : State) (v : Nat) : State :=
  match s.run.launches.find? (fun l => l.handle == v && !l.ended) with
  | some l =>
    if l.next == 0 && l.saved.isEmpty then (s.setRcb l.id 0).endLaunch l.id 11 else s
  | none =>
    match s.run.waits.find? (fun w => w.handle == v && !w.cancelled && !s.run.pending.any (fun p => p.1 == w.id)) with
    | some w => s.modRun (fun r => { r with
        waits := updWhere (fun q => q.id == w.id) (fun q => { q with cancelled := true }) r.waits
        pending := r.pending ++ [(w.id, 11, v)] })
    | none => s

/-- Cancel a migration that is QUEUED or MOVING (R397, R423). -/
def State.cancelMig (s : State) (v : Nat) : State :=
  match s.hub.migs.find? (fun m => handleOf m.cmd.handle.toNat == v) with
  | some m => s.stopMig m 8
  | none => s

/-- FCAN (R396, R397): a request that takes effect at one point of the operation's life or not at all. -/
def execFcan (x : Args) (s : State) : Out :=
  issue .fcan x s (fun s1 =>
    let v := handleOf (s1.now.getS (regOf x.a)).v.toNat
    match s1.judge s1.now.guest s1.now.mode v with
    | .pending =>
      (match bits v 12 4 with
       | 3 => (s1.cancelLaunch v).done
       | 2 => (s1.cancelMig v).done
       | 5 => s1.done
       | _ => (s1.modRun (fun r => { r with
           ops := updWhere (fun o => handleOf o.handle.toNat == v && o.status.isNone) (fun o => { o with cancelled := true }) r.ops })).done)
    | _ => s1.done)

/-! ### Tags (R398) -/

/-- The tags of a mask that the running hart's crew has, with its %tagmap (R398). -/
def State.tagsOf (s : State) (a : Nat) : Nat × Nat :=
  match s.crewOf s.cur with
  | none => (0, 0)
  | some c => (a % 2 ^ c.kernel.tags, c.tagmap.toNat % 2 ^ c.kernel.tags)

/-- The running hart observes the completions that set some bits, each at the widest scope of its tag's operations (R398). -/
def State.observeTags (s : State) (m : Nat) : State :=
  match s.crewOf s.cur with
  | none => s
  | some c => ((List.range 64).filter (bit m)).foldl (fun st i =>
      match sget 0 c.tagSeen i with
      | 0 => st
      | k + 1 => st.acquire (coreOf s.cur) k) s

/-- Clear bits of a crew's %tagmap, and what was seen of those tags (R398). -/
def Crew.clearTags (c : Crew) (m : Nat) : Crew :=
  { c with tagmap := c.tagmap &&& ~~~(BitVec.ofNat 64 m), tagSeen := c.tagSeen.filter (fun p => !bit m p.1) }

/-- What the tag forms share: a wait until `ok` holds of m and %tagmap ∧ m, then D and what is observed. -/
def tagForm (o : Op) (x : Args) (ok : Nat → Nat → Bool) (f : State → Nat → Nat → State × Nat) (s : State) : Out :=
  issue o x s (fun s1 =>
    let (m, map) := s1.tagsOf (s1.scalar x.a)
    let set := map &&& m
    if !ok m set then s1.block (.tags m)
    else
      let (s2, d) := f (s1.observeTags set) m set
      (s2.modNow (fun t => t.putD x.d d)).done)

/-- WANY (R398). -/
def execWany (x : Args) (s : State) : Out :=
  tagForm .wany x (fun m set => m == 0 || set != 0) (fun st _ set => (st, set)) s

/-- WALL (R398). -/
def execWall (x : Args) (s : State) : Out :=
  tagForm .wall x (fun m set => set == m) (fun st _ set => (st, set)) s

/-- The lowest set bit of a word. -/
def lowBit (n : Nat) : Nat := ((List.range 64).find? (bit n)).getD 0

/-- WFFR (R398): it takes the lowest set tag. -/
def execWffr (x : Args) (s : State) : Out :=
  tagForm .wffr x (fun m set => m == 0 || set != 0) (fun st m set =>
    if m == 0 then (st, 2 ^ 64 - 1)
    else
      let i := lowBit set
      match st.crewOf st.cur with
      | none => (st, i)
      | some c => (st.modCrew c.key (fun k => k.clearTags (2 ^ i)), i)) s

/-- TAGMAP_CLEAR: an SRW clears bits of a crew's %tagmap (R78, R398). -/
def execTagmapClear (crew : Nat) (value : Word) (s : State) : Out :=
  .next (s.modCrew crew (fun c => c.clearTags value.toNat))

/-! ### Completion (R393) -/

/-- The future of a launch completes: its window, the register of the LNCH, and the records of the launch (R362, R379). -/
def State.completeLaunch (s : State) (id status handle : Nat) : State :=
  let clock := ((s.launch? id).map Launch.endClock).getD 0
  let s1 := s.recordStatus handle status clock
  let s2 := match s1.run.waits.find? (fun w => w.id == id) with
    | some w => s1.fillFuture w.hart w.dreg (BitVec.ofNat 64 handle) status 4 clock
    | none => s1
  let queued := (s.launch? id).isNone
  s2.modRun (fun r => { r with
    pending := r.pending.filter (fun p => p.1 != id)
    launches := r.launches.filter (fun l => l.id != id)
    waits := r.waits.filter (fun w => w.id != id || (queued && w.cancelled)) })

/-- FUTURE_COMPLETION: an operation whose work is done completes when its agent has completed those before it; a launch that
is over completes once none of its crews is placed (R292, R393). -/
def execFutureCompletion (op : Nat) (s : State) : Out :=
  match s.op? op with
  | some o =>
    (match o.status with
     | none => .next s
     | some st =>
       let first := s.run.engines.all (fun p => !p.2.contains op || p.2.head? == some op)
       .next (if first then s.completeOp o st else s))
  | none =>
    match s.run.pending.find? (fun p => p.1 == op) with
    | none => .next s
    | some (_, st, h) =>
      if s.run.crews.any (fun c => c.launch == op) then .next s else .next (s.completeLaunch op st h)

end Sys2Proof.Machine
end

