-- ==== Sys2Proof/Machine/Lanes.lean ====
section
/-! DEFINITION. Cross-lane forms (08_lanes_control R174 to R181, 06_numbers R131). -/
namespace Sys2Proof.Machine

/-- The value of a vector operand in a lane, zero in a lane that is not live (R174). -/
def State.liveSrc (s : State) (t : Ty) (o : Operand) (l : Nat) : Nat :=
  if laneIn s.now.live l then s.src t o l else 0

/-- B as SHFL reads it in a lane: N32, the even register of a pair (R176). -/
def State.shflB (s : State) (x : Args) (l : Nat) : Nat := s.src .b32 x.b l

/-- SHFL (R176). -/
def execShfl (x : Args) (s : State) : Out :=
  lanewise .shfl x (fun s l =>
    (s.liveSrc x.ty x.a (shflSource s.now.W x.sub.toNat l (s.shflB x l)) : Int)) s

/-- VOTE (R177). -/
def execVote (x : Args) (s : State) : Out :=
  issue .vote x s (fun s1 =>
    let t := s1.now
    let m := t.members x
    let pred : Mask := match x.a with
      | .v r _ _ => maskOf ((lanesOf t.W m).filter (fun l => (t.getV r.toNat l).v != 0))
      | a => t.readMask a &&& m
    let r : Bool := match x.sub.toNat with
      | 0 => pred == m
      | 1 => pred != 0
      | _ => pred == m || pred == 0
    let t' :=
      if x.sub == 3 then
        (match x.d with
         | .s d _ _ => t.setS d.toNat (BitVec.ofNat 64 (maskWord pred 0))
         | d => t.writeMask d pred)
      else
        (match x.d with
         | .s d _ _ => t.setS d.toNat (if r then 1 else 0)
         | d => t.writeMask d (if r then t.readMask d ||| m else t.readMask d &&& ~~~m))
    .next (s1.setHart s1.cur t'.advance))

/-! ### Reductions (R131, R139, R178) -/

/-- One level of the pairwise tree (R131). -/
def treeLevel (f : Nat → Nat → Res) : List Nat → List Nat × Flags
  | a :: b :: r =>
    let y := f a b
    let z := treeLevel f r
    (y.1 :: z.1, y.2 ||| z.2)
  | l => (l, 0)

/-- The pairwise tree over a list, one level per unit of fuel (R131). -/
def tree (f : Nat → Nat → Res) (identity : Nat) : Nat → List Nat → Res
  | _, [] => (identity, 0)
  | _, [a] => (a, 0)
  | 0, a :: _ => (a, 0)
  | n + 1, l =>
    let y := treeLevel f l
    let z := tree f identity n y.1
    (z.1, y.2 ||| z.2)

/-- One combining step of LRED and SCAN: 0 ADD, 1 MIN, 2 MAX, 3 AND, 4 OR, 5 XOR (R45, R178). Flushing of results is
for classes 2 and 3 (R124). -/
def redStep (env : Env) (t : Ty) (op : Nat) (a b : Nat) : Res :=
  if tyFloat t then
    let f := fmtOf t
    let e := { env with ftzout := false }
    if op == 0 then f.add e (f.value a) (f.value b) else f.minMax e (op == 2) false a b
  else (combine op (tySigned t) (tyBits t) a b, 0)

/-- The identity of a reduction (R131, R178). -/
def redIdentity (t : Ty) (op : Nat) : Nat :=
  if tyFloat t then
    let f := fmtOf t
    if op == 0 then 0 else f.signed (op == 2) f.infCode
  else identityOf op (tySigned t) (tyBits t)

/-- The tree of a reduction. -/
def redTree (env : Env) (t : Ty) (op : Nat) (l : List Nat) : Res := tree (redStep env t op) (redIdentity t op) 11 l

/-- The members' A values in ascending lane order, flushed for floating-point types (R178). -/
def State.redValues (s : State) (env : Env) (x : Args) : List Nat :=
  (lanesOf s.now.W (s.now.members x)).map (fun l =>
    let a := s.src x.ty x.a l
    if tyFloat x.ty then (fmtOf x.ty).flushIn env a else a)

/-- LRED (R178). -/
def execLred (x : Args) (s : State) : Out :=
  issue .lred x s (fun s1 =>
    let t := s1.now
    let env := envOf t.fpm 0
    let ls := lanesOf t.W (t.members x)
    if ls.isEmpty then s1.done
    else
      let r := redTree env x.ty (x.sub.toNat % 8) (s1.redValues env x)
      let t' := t.wrAll x.ty x.d (match x.d with | .v .. => ls.map (fun l => (l, r)) | _ => [(0, r)])
      .next (s1.setHart s1.cur ((t'.raiseFlags r.2).advance)))

/-- SCAN: inclusive, or exclusive with bit 3 of SUB (R45, R131, R178). -/
def execScan (x : Args) (s : State) : Out :=
  issue .scan x s (fun s1 =>
    let t := s1.now
    let env := envOf t.fpm 0
    let ls := lanesOf t.W (t.members x)
    let vs := s1.redValues env x
    let extra := if x.sub.toNat ≥ 8 then 0 else 1
    let rs : List (Nat × Res) := (List.range ls.length).map (fun i =>
      (ls[i]?.getD 0, redTree env x.ty (x.sub.toNat % 8) (vs.take (i + extra))))
    .next (s1.setHart s1.cur (((t.wrAll x.ty x.d rs).raiseFlags (orFlags rs)).advance)))

/-- VTOS: a long-latency producer (R179). -/
def execVtos (x : Args) (s : State) : Out :=
  issue .vtos x s (fun s1 =>
    let b := s1.scalar x.b
    let v := if b < s1.now.W then s1.liveSrc x.ty x.a b else 0
    (s1.later x.ty x.d [(0, (v, 0))]).done)

/-! ### GTRN and TOPK -/

/-- Element c of width e of the eight registers from d, in a lane; zero in a lane that is not live (R180). -/
def gtrnElem (t : Hart) (d e l c : Nat) : Nat :=
  if laneIn t.live l then bits (t.getV (d + c * e / 32) l).v.toNat (c * e % 32) e else 0

/-- GTRN (R180). -/
def execGtrn (x : Args) (s : State) : Out :=
  issue .gtrn x s (fun s1 =>
    let t := s1.now
    let m := t.members x
    let bad := unconverged t m
    if bad != 0 then s1.raise 4 0 0 bad
    else
      let d := regOf x.d
      let e := tyBits x.ty
      let n := 256 / e
      let ls := lanesOf t.W (processed t.W m &&& t.live)
      let val (l i : Nat) : Nat :=
        let r := l % n
        let base := l - r
        sumN ((List.range (32 / e)).map (fun k => gtrnElem t d e (base + (i * (32 / e) + k)) r * 2 ^ (e * k)))
      let t' := ls.foldl (fun u l => (List.range 8).foldl (fun w i =>
        w.putV (d + i) l ⟨.full, BitVec.ofNat 32 (val l i)⟩) u) t
      .next (s1.setHart s1.cur t'.advance))

/-- Whether value b is greater than value a, NaN below every other value (R181). -/
def topGreater (t : Ty) (a b : Nat) : Bool :=
  if tyFloat t then
    let u := (fmtOf t).value a
    let v := (fmtOf t).value b
    if v.isNan then false else if u.isNan then true else u.lt v
  else interp t a < interp t b

/-- How many values come before value i in the order of TOPK: the greater ones, and equal ones of lower lanes (R181). -/
def topRank (t : Ty) (vs : List (Nat × Nat)) (l v : Nat) : Nat :=
  (vs.filter (fun p => topGreater t v p.2 || (!topGreater t p.2 v && p.1 < l))).length

/-- TOPK (R181). -/
def execTopk (x : Args) (s : State) : Out :=
  issue .topk x s (fun s1 =>
    let t := s1.now
    let k := s1.scalar x.b
    let vs := (lanesOf t.W (t.members x)).map (fun l => (l, s1.src x.ty x.a l))
    let pick := (vs.filter (fun p => topRank x.ty vs p.1 p.2 < k)).map Prod.fst
    .next (s1.modNow (fun u => (u.writeMask x.d (maskOf pick)).advance)))

end Sys2Proof.Machine
end

