-- ==== Sys2Proof/Machine/System.lean ====
section
/-! DEFINITION. Class 13 (09_traps R194 to R212, 08_lanes_control R171): special registers, TRAP, TRET, IFLUSH, save and
restore, WFI and HALT, with the events of a host thread and the register writes of 04_registers. -/
namespace Sys2Proof.Machine

/-! ### Special registers (R76 to R80, R197) -/

/-- What a write does to a register of a hart that stands in its own record: RW registers take the bits they have, RO
ones ignore the write (R78, R80, R8). -/
def Hart.writeSr (t : Hart) (n : Nat) (v : Word) : Hart :=
  match n with
  | 0x012 => { t with fpm := fpmStored v.toNat }
  | 0x013 => { t with fflags := v.setWidth 5 }
  | 0x045 => { t with trap := { t.trap with tvec := v &&& 0x1FFFFF } }
  | 0x046 => { t with trap := { t.trap with tstatus := v &&& 0xF } }
  | 0x100 => { t with sup := { t.sup with gtvec := v } }
  | 0x101 => { t with sup := { t.sup with gdeleg := v.setWidth 32 } }
  | 0x102 => { t with sup := { t.sup with gepc := v } }
  | 0x103 => { t with sup := { t.sup with gscratch := v } }
  | 0x104 => { t with sup := { t.sup with s1ptb := v } }
  | 0x200 => { t with sup := { t.sup with htvec := v } }
  | 0x201 => { t with sup := { t.sup with hdeleg := v.setWidth 32 } }
  | 0x202 => { t with sup := { t.sup with hepc := v } }
  | 0x203 => { t with sup := { t.sup with hscratch := v } }
  | 0x204 => { t with sup := { t.sup with s2ptb := v } }
  | 0x300 => { t with sup := { t.sup with fwtvec := v } }
  | 0x301 => { t with sup := { t.sup with fwscratch := v } }
  | _ => t

/-- Write a special register of a hart (R197): %tagmap is W1C, the trackers belong to the crew, %kvdir to the guest. -/
def State.writeSr (s : State) (h n : Nat) (v : Word) : State :=
  if n == 0x014 then
    (match s.crewOf h with
     | some c => s.modCrew c.key (fun k => k.clearTags v.toNat)
     | none => s)
  else if 0x020 ≤ n && n ≤ 0x027 then s.setAmax h (n - 0x020) (v.setWidth 32)
  else if n == 0x050 then s.modHub (fun u => { u with kvdir := sset 0 u.kvdir (s.hart h).guest v })
  else s.modHart h (fun t => t.writeSr n v)

/-- The number of an SR operand. -/
def srOf : Operand → Nat
  | .sr n => n.toNat
  | _ => 0

/-- SRR (R197). -/
def execSrr (x : Args) (s : State) : Out :=
  issue .srr x s (fun s1 =>
    let v := s1.readSr s1.cur (srOf x.a)
    (s1.modNow (fun t => if kindOf x.d == .s then t.setS (regOf x.d) v else t)).done)

/-- SRW (R197): an HW register is ILLEGAL (R77), and %kvdir is written from GUEST up (R6). -/
def execSrw (x : Args) (s : State) : Out :=
  if (checkArgs .srw x).isNone && (srOf x.d == 0x015 || srOf x.d == 0x016) then s.illegal 8
  else if (checkArgs .srw x).isNone && srOf x.d == 0x050 && s.now.mode == .user then s.raise 0x16 0 0x050 0
  else issue .srw x s (fun s1 =>
    (s1.writeSr s1.cur (srOf x.d) (BitVec.ofNat 64 (s1.scalar x.a))).done)

/-- REGISTER_WRITE: a write of a special register of a hart by its number follows its Access entry: an unassigned number or an HW
register is ILLEGAL, one above the hart's mode PRIVILEGED (R6, R77, R197). -/
def execRegisterWrite (hart reg : Nat) (value : Word) (s : State) : Out :=
  let t := s.hart hart
  .next (if !srAssigned reg || reg == 0x015 || reg == 0x016 then s.takeTrap hart 1 0 (hostDie hart + 8 * 16) 0
    else if srRank reg > modeRank t.mode || (reg == 0x050 && t.mode == .user) then s.takeTrap hart 0x16 0 reg 0
    else s.writeSr hart reg value)

/-- FPM_WRITE: %fpm takes seven bits, RMODE 0 and 7 as 1 (R123). -/
def execFpmWrite (hart : Nat) (value : Word) (s : State) : Out := .next (s.writeSr hart 0x012 value)

/-- FFLAGS_ACCESS: a read changes nothing, a write sets the five flags; it waits for earlier flag-setting instructions
(R126, R127). -/
def execFflagsAccess (hart : Nat) (write : Option Word) (s : State) : Out :=
  match write with
  | some v => if s.flagsSettled hart then .next (s.writeSr hart 0x013 v) else .next s
  | none => .next s

/-- EXEC_WRITE (R76). -/
def execExecWrite (hart : Nat) (value : Mask) (s : State) : Out := .next (s.modHart hart (fun t => t.setExec value))

/-- LIVE_WRITE: the team exits when it becomes empty (R76). -/
def execLiveWrite (hart : Nat) (value : Mask) (s : State) : Out :=
  .next (s.modHart hart (fun t => t.setLive value))

/-! ### TRAP and TRET -/

/-- TRAP raises SYSCALL (R198). -/
def execTrap (x : Args) (s : State) : Out := issue .trap x s (fun s1 => s1.raise 0x12 0 (codeOf x) 0)

/-- TRET (R195). -/
def execTret (x : Args) (s : State) : Out :=
  issue .tret x s (fun s1 =>
    if modeRank s1.now.mode < bits s1.now.trap.tstatus.toNat 0 2 then s1.illegal 0xA
    else .next (s1.modNow Hart.returnTo))

/-! ### Host events (R192, R199, R200, R427, R481) -/

/-- The address and reason that a thread's MIGRATION-NOTIFY reports: those of the record at NHEAD, while one is there (R427). -/
def State.notePending (s : State) (h : Nat) : Option (Nat × Nat) :=
  let t := s.hart h
  if !isHostThread h || t.sched.inReset || t.sched.exited || t.sched.stopped then none
  else
    let d := s.pkg.sys.pdt + 32 * t.guest
    let head := s.natAt (d + 16) 4
    if head == s.natAt (d + 20) 4 then none
    else
      let w1 := s.natAt (d + 8) 8
      let r := s.natAt (bits w1 0 52 + 16 * (head % 2 ^ bits w1 52 4)) 8
      some (bits r 0 40 * 4096, bits r 40 4)

/-- The lowest event pending for a thread (R481). -/
def State.eventPending (s : State) (h : Nat) : Option Nat :=
  let t := s.hart h
  if !isHostThread h || t.sched.inReset || t.sched.exited || t.sched.stopped then none
  else (s.pkg.events.find? (fun p => bits p.2.toNat 0 7 == h && bits p.2.toNat 13 2 == 3)).map Prod.fst

/-- The target of a host event that concerns a guest (R200). -/
def eventTarget (t : Hart) (c guest : Nat) : Target :=
  if t.sup.hdeleg.getLsbD c && guest != 0 && guest == t.guest then .guest else .host

/-- Whether a thread takes a host event now: below its target's mode, or in WFI (R200). -/
def takesEvent (t : Hart) (g : Target) : Bool := t.sched.wfi || modeRank t.mode < targetRank g

/-- The target within a thread's mode (R186). -/
def atLeastMode (t : Hart) (g : Target) : Target :=
  if targetRank g < modeRank t.mode then (if t.mode == .fw then .fw else .host) else g

/-- The target of a thread's MIGRATION-NOTIFY (R200). -/
def noteTarget (t : Hart) : Target := eventTarget t 0xB t.guest

/-- The target of an EXTERNAL-EVENT in a thread (R200). -/
def State.extTarget (s : State) (t : Hart) (n : Nat) : Target := eventTarget t 0x15 (bits (s.eventWord n) 7 6)

/-- Whether a thread takes a MIGRATION-NOTIFY at its next boundary: one is pending and not held (R200, R427). -/
def State.noteDue (s : State) (h : Nat) : Bool := (s.notePending h).isSome && takesEvent (s.hart h) (noteTarget (s.hart h))

/-- The EXTERNAL-EVENT that a thread takes at its next boundary: the lowest that is pending, unless it is held (R200, R481). -/
def State.eventDue (s : State) (h : Nat) : Option Nat :=
  (s.eventPending h).filter (fun n => takesEvent (s.hart h) (s.extTarget (s.hart h) n))

/-- A thread takes its MIGRATION-NOTIFY (R427). -/
def State.takeNote (s : State) (h : Nat) : State :=
  match s.notePending h with
  | none => s
  | some (a, r) => s.deliver h (atLeastMode (s.hart h) (noteTarget (s.hart h))) 0xB a r 0

/-- A thread takes EXTERNAL-EVENT n, whose PEND is cleared (R481). -/
def State.takeEvent (s : State) (h n : Nat) : State :=
  (s.modPkg (fun p => { p with events := sset 0 p.events n (sget 0 p.events n &&& ~~~0x4000) })).deliver h
    (atLeastMode (s.hart h) (s.extTarget (s.hart h) n)) 0x15 0 n 0

/-- A thread takes what is due at its boundary, a MIGRATION-NOTIFY before an EXTERNAL-EVENT (R192). -/
def State.takeDue (s : State) (h : Nat) : State :=
  if s.noteDue h then s.takeNote h
  else match s.eventDue h with
    | some n => s.takeEvent h n
    | none => s

/-- Whether PREEMPT comes before a host event at a thread's boundary (R192, R201). -/
def preemptFirst (t : Hart) : Bool := t.sched.preempt.isSome && !t.trap.tstatus.getLsbD 2

/-- MIGRATION_NOTIFY: a thread takes the cause at a boundary (R192, R427). -/
def execMigrationNotify (thread : Nat) (s : State) : Out :=
  .next (if !preemptFirst (s.hart thread) && s.noteDue thread then s.takeNote thread else s)

/-- EXTERNAL_EVENT: a thread takes its lowest pending event at a boundary (R192, R481). -/
def execExternalEvent (thread : Nat) (s : State) : Out :=
  .next (match s.eventDue thread with
    | some n => if preemptFirst (s.hart thread) || s.noteDue thread then s else s.takeEvent thread n
    | none => s)

/-- NHEAD_WRITE: guest software says how many records it has consumed (R427). -/
def execNheadWrite (guest : Nat) (value : BitVec 32) (s : State) : Out :=
  .next (s.homeWrite (s.pkg.sys.pdt + 32 * guest + 16) 4 value.toNat)

/-- WFI (R199): the thread stops until an event is pending for it; one that is pending is taken at this boundary. -/
def execWfi (x : Args) (s : State) : Out :=
  issue .wfi x s (fun s1 =>
    let h := s1.cur
    let s2 := s1.modNow (fun t => let u := t.advance; { u with sched := { u.sched with wfi := true } })
    .next (if preemptFirst (s2.hart h) then s2 else s2.takeDue h))

/-- HALT stops a service core until it is restarted (R199). -/
def execHalt (x : Args) (s : State) : Out :=
  issue .halt x s (fun s1 =>
    .next (s1.modNow (fun t => let u := t.advance; { u with sched := { u.sched with halted := true } })))

/-- SERVICE_CORE_RESTART: the security processor restarts a service core that HALT stopped (R199). -/
def execServiceCoreRestart (service : Nat) (s : State) : Out :=
  .next (if service < 4 then s.modHart (128 + service) (fun t => { t with sched := { t.sched with halted := false } }) else s)

/-! ### IFLUSH (R171) -/

/-- IFLUSH: after the release, instruction caches and loop buffers of the scope are empty. A body that a team runs
stays for its iteration. -/
def execIflush (x : Args) (s : State) : Out :=
  issue .iflush x s (fun s1 =>
    let t := s1.now
    let core := coreOf s1.cur
    let scope := x.rm.toNat
    if !t.sb.isEmpty || t.uasc != 0 then s1.block .form
    else if scope ≥ 2 && s1.backWaits core (fun _ => true) then s1.block .form
    else
      let s2 := s1.release core scope
      let s3 := if scope == 4 then s2.send .iflush else s2
      ((s3.cores.map Prod.fst).foldl (fun st c =>
        if sameInstance core scope c then st.modCore c (fun k => { k with icache := [], loops := [] }) else st) s3).done)

/-! ### Save and restore (R203 to R212) -/

/-- One byte of a record: where it lies, and whether its page is NC, or is served at its home (R230). -/
structure RecByte where
  pa : Nat
  nc : Bool
  home : Bool

/-- Bytes of one item of a record (R205). -/
def recItem (kind W : Nat) : Nat :=
  match kind with
  | 1 => 160
  | 2 => entrySize W
  | 3 => 8 * tileWords
  | _ => 24832

/-- A record header (R204). -/
def recHeader (kind W count uasc ctx : Nat) : List Byte :=
  toBytes 64 (kind + 2 ^ 8 + W * 2 ^ 16 + count * 2 ^ 32 + uasc * 2 ^ 64 + ctx * 2 ^ 96)

/-- The places of a record of n bytes, or how the form that needs it ends (R203): a device takes no record (R234), and a
save writes none on a KEEPING page. -/
def State.recRange (s : State) (va n : Nat) (write : Bool) : Except Out (List RecByte × State) :=
  match s.runs (s.xctx s.cur) va n .record write with
  | .error (e, a) => .error (s.privStop .record 1 (privFail .record write e a))
  | .ok (rs, s1) =>
    if rs.any (fun r => selector r.pa == 14) then .error (s.raise 7 va 64 1)
    else match rs.findSome? (fun r => s1.keepBad r.pa (r.tr.pcls == 3) (if write then .plainStore else .read) 0) with
      | some q => .error (s.raise 0xD va q 1)
      | none =>
        match s1.ownRuns s.cur write true rs with
        | .error f => .error (s.privStop .record 1 f)
        | .ok s2 => .ok ((rs.map (fun r => r.addrs.map (fun a => ⟨a, r.tr.nc, r.tr.uncached a⟩))).flatten, s2)

/-- Write the bytes of one line of a record at SYSTEM scope. A line that its home rejects is discarded and reported
(R203, R517). -/
def State.recLine (s : State) (h va : Nat) (l : List (Nat × Byte)) (poison : List Nat) : State :=
  let core := coreOf h
  let line := (l.headD (0, 0)).1 / 128
  let t := s.hart h
  let (s1, ok) := (s.preStrong core 3 line).cohTouch (agentOf core) t.guest (t.mode == .fw) line true true
  if ok then s1.cohPoke h (s1.guarded t.mode l) (poison.filter (fun a => a / 128 == line)) else s1.lostAccess h 0x14 va

/-- Write a record, line by line; `poison` gives the offsets of bytes from POISON lanes (R74, R203). -/
def State.recWrite (s : State) (h va : Nat) (as_ : List Nat) (bs : List Byte) (poison : List Nat) : State :=
  let marks := poison.map (fun o => as_.getD o 0)
  ((linePieces va bs.length).foldl (fun (p : State × List Nat × List Byte) q =>
    (p.1.recLine h q.1 ((p.2.1.take q.2.2).zip (p.2.2.take q.2.2)) marks, p.2.1.drop q.2.2, p.2.2.drop q.2.2)) (s, as_, bs)).1

/-- Read the bytes of a record as weak loads of the running hart, sector by sector: the bytes, the sectors found
uncorrectable by their offset / 32, the address of the first that a home rejected, and the state (R203, R517). -/
def State.recRead (s : State) (va : Nat) (l : List RecByte) : List Byte × List Nat × Option Nat × State :=
  let t := s.now
  let core := coreOf s.cur
  let r := (List.range ((l.length + 31) / 32)).foldl
    (fun (p : List (List Byte) × List Nat × Option Nat × List RecByte × State) i =>
      let (acc, bad, rej, rest, st) := p
      match rest with
      | [] => p
      | b :: _ =>
        let n := min 32 rest.length
        let (bs, hurt, st') := st.weakRead core t.guest (t.mode == .fw) b.nc b.home false false b.pa n
        let own := (List.range n).map (fun j => (sbByte t.sb (va + 32 * i + j)).getD (bs.getD j 0))
        let rej' := rej.orElse (fun _ => if st'.rejCount == st.rejCount then none else some (va + 32 * i))
        (own :: acc, if hurt then i :: bad else bad, rej', rest.drop n, st')) ([], [], none, l, s)
  (r.1.reverse.flatten, r.2.1, r.2.2.1, r.2.2.2.2)

/-- Whether earlier accesses of the running hart to the lines of a record are still under way, so that its bytes are not
there yet (R203, R274). -/
def State.recBusy (s : State) (l : List RecByte) : Bool :=
  ((l.map (fun b => b.pa / 128)).eraseDups).any (s.lineBusy s.cur)

/-- Whether stores of the running hart to a range of addresses, which lies at the places given, have still to be performed: those
in its store buffer and those under way come before a record that it writes there (R203, R274). -/
def State.storesDue (s : State) (va n : Nat) (l : List RecByte) : Bool :=
  s.now.sb.any (fun e => e.bytes.any (fun b => va ≤ e.line * 128 + b.1 && e.line * 128 + b.1 < va + n)) || s.recBusy l

/-- A save form (R203): `pre` may end it once its record is known to be reachable, `body` gives the record with the offsets
of its bytes from POISON lanes, and `after` what else it changes. -/
def saveForm (o : Op) (x : Args) (size : State → Nat) (pre : State → Option Out)
    (body : State → Except Out (List Byte × List Nat × State)) (after : State → Nat → Nat → State) (s : State) : Out :=
  memIssue o x s (fun s1 =>
    let va := s1.scalar x.a
    if va % 64 != 0 then s1.raise 7 va 64 1
    else match s1.recRange va (size s1) true with
      | .error e => e
      | .ok (l, s2) =>
        match pre s2 with
        | some e => e
        | none =>
          let core := coreOf s2.cur
          if l.any (fun b => (s2.cursorMig b.pa).isSome || !s2.routeOpen core b.pa) || s2.storesDue va (size s1) l ||
              s2.backWaits core (fun a => l.any (fun b => b.pa / 128 == a / 128)) then s2.block .form
          else match body s2 with
            | .error e => e
            | .ok (bs, poison, s3) =>
              let as_ := l.map RecByte.pa
              (after (s3.recWrite s3.cur va as_ bs poison) va (as_.headD 0)).done)

/-- Fields of a record header (R204). -/
def hdKind (v : Nat) : Nat := bits v 0 8
/-- COUNT of a record header (R204). -/
def hdCount (v : Nat) : Nat := bits v 32 16

/-- RESTORE-CAPACITY (R211). -/
def State.restoreCapacity (s : State) (va reason count have_ : Nat) : Out :=
  s.raise 0xA va (reason + count * 2 ^ 8 + have_ * 2 ^ 24) 0

/-- A restore form (R203, R211): `check` judges the header as a reason with its capacity, `pre` may end the form once its
record is known to be reachable, and `f` takes the header, the body and its uncorrectable sectors. -/
def restoreForm (o : Op) (x : Args) (kind : Nat) (check : State → Nat → Option (Nat × Nat))
    (pre : State → Nat → Option Out) (f : State → Nat → List RecByte → Nat → List Byte → List Nat → Out) (s : State) : Out :=
  memIssue o x s (fun s1 =>
    let va := s1.scalar x.a
    if va % 64 != 0 then s1.raise 7 va 64 1
    else match s1.recRange va 64 false with
      | .error e => e
      | .ok (hl, s2) =>
        if s2.recBusy hl then s2.block .form
        else
          let (hb, _, rej, s3) := s2.recRead va hl
          match rej with
          | some a => s3.raise 0x14 a 0 1
          | none =>
            let hd := ofBytes hb
            match check s3 hd with
            | some (reason, have_) => s3.restoreCapacity va reason (hdCount hd) have_
            | none =>
              let n := hdCount hd * recItem kind s3.now.W
              match s3.recRange va (64 + n) false with
              | .error e => e
              | .ok (l, s4) =>
                match pre s4 (hdCount hd) with
                | some e => e
                | none =>
                  if s4.recBusy l then s4.block .form
                  else
                    let (bs, bad, rej', s5) := s4.recRead va l
                    match rej' with
                    | some a => s5.raise 0x14 a 0 1
                    | none => f s5 va l hd (bs.drop 64) bad)

/-- Reason 2 or 3 of a header, or 4 above a capacity (R207 to R211). -/
def headerBad (kind W cap : Nat) (width : Bool) (v : Nat) : Option (Nat × Nat) :=
  if hdKind v != kind || bits v 8 8 != 1 then some (2, 0)
  else if width && bits v 16 16 != W then some (3, 0)
  else if hdCount v > cap then some (4, cap)
  else none

/-- Item i of the body of a record. -/
def recPart (bs : List Byte) (size i : Nat) : List Byte := (bs.drop (i * size)).take size

/-! Store buffer (R206, R207) -/

/-- A store-buffer entry as an item (R205). -/
def SbEntry.item (e : SbEntry) : List Byte :=
  toBytes 8 (bits (e.line * 128) 0 57 + e.scope * 2 ^ 57 + e.order * 2 ^ 60 + b2n e.strong * 2 ^ 63) ++
  toBytes 16 (sumN (e.bytes.map (fun p => 2 ^ p.1))) ++ toBytes 8 0 ++
  (List.range 128).map (fun o => ((e.bytes.find? (fun p => p.1 == o)).map Prod.snd).getD 0)

/-- The line number of an item's address, its top bits repeating bit 56 (R218). -/
def itemLine (v : Nat) : Nat := (if bit v 56 then bits v 0 57 + 127 * 2 ^ 57 else bits v 0 57) / 128

/-- Whether an address lies in a team's PRIVATE memory, so that a restored store goes there as one to it does (R225). -/
def Hart.inPrivate (t : Hart) (va : Nat) : Bool := t.place.pbase ≤ va && va < t.spillBase

/-- Whether the store that an item holds is one to a device, as its address translates now (R207, R234). -/
def State.itemIo (s : State) (bs : List Byte) : Bool :=
  match (s.translate (s.xctx s.cur) (itemLine (ofBytes (bs.take 8)) * 128) .store true).1 with
  | .ok _ pa => selector pa == 14
  | _ => false

/-- The entry that an item holds; `io` marks one to a device, and `bad` tells the sectors of its data that were found
uncorrectable (R74). -/
def SbEntry.ofItem (t : Hart) (id : Nat) (io : Bool) (bs : List Byte) (bad : Nat → Bool) : SbEntry :=
  let w := ofBytes (bs.take 8)
  let mask := ofBytes ((bs.drop 8).take 16)
  let data := bs.drop 32
  let offs := (List.range 128).filter (bit mask)
  { line := itemLine w, priv := t.inPrivate (itemLine w * 128), strong := bit w 63, order := bits w 60 3, scope := bits w 57 3,
    bytes := offs.map (fun o => (o, data.getD o 0)), poison := offs.filter (fun o => bad (o / 32)), mode := t.mode,
    io := io, nol1 := false, stream := false, id := id }

/-- SVSB (R206). -/
def execSvsb (x : Args) (s : State) : Out :=
  saveForm .svsb x (fun st => 64 + 160 * st.now.sb.length) (fun _ => none)
    (fun st =>
      let t := st.now
      let es := t.sb
      let marks := (es.mapIdx (fun i e => e.poison.map (fun o => 64 + 160 * i + 32 + o))).flatten
      .ok (recHeader 1 t.W es.length t.uasc (st.tagOf st.cur) ++ (es.map SbEntry.item).flatten, marks, st))
    (fun st va pa =>
      let h := st.cur
      let p := st.now.place
      let idx := (st.crewOf h).map (fun c => (c.launch, c.index))
      let b : Bound := ⟨st.tagOf h, va, pa, p.crewKey, (idx.map Prod.fst).getD 0, (idx.map Prod.snd).getD 0, p.team⟩
      let s1 := st.modMem (fun m => { m with bound := m.bound ++ [b] })
      let tag := s1.newTag h
      s1.modHart h (fun t => { t with sb := [], uasc := 0, ctx := tag })) s

/-- LDSB (R207). -/
def execLdsb (x : Args) (s : State) : Out :=
  restoreForm .ldsb x 1
    (fun st hd => if !st.now.sb.isEmpty || st.now.uasc != 0 then some (1, 0) else headerBad 1 st.now.W 64 true hd)
    (fun _ _ => none)
    (fun st _ l hd bs bad =>
      let tag := bits hd 96 20
      let acked := st.natAt (st.readAddr ((l.map RecByte.pa).getD 10 0)) 2
      let (id, s1) := st.fresh
      let s2 := s1.modMem (fun m => { m with bound := m.bound.filter (fun b => b.tag != tag) })
      (s2.modNow (fun t => { t with
        ctx := tag, uasc := (bits hd 64 16 + 2 ^ 16 - acked) % 2 ^ 16
        sb := (List.range (hdCount hd)).map (fun i =>
          SbEntry.ofItem t id (st.itemIo (recPart bs 160 i)) (recPart bs 160 i) (fun q => bad.contains (2 + 5 * i + 1 + q))) })).done) s

/-! Split stack (R208) -/

/-- SVSS (R208): entries that were spilled are read back from the spill area. -/
def execSvss (x : Args) (s : State) : Out :=
  saveForm .svss x (fun st => 64 + st.now.depth * entrySize st.now.W) (fun _ => none)
    (fun st =>
      let t := st.now
      let h := st.cur
      let low : Except PrivFail (List Byte × Bool × State) :=
        if t.spilled == 0 then .ok ([], false, st) else st.privLoad h t.spillBase (t.spilled * entrySize t.W) .spill
      match low with
      | .error f => .error (st.privStop .spill 1 f)
      | .ok (bs, _, s1) =>
        .ok (recHeader 2 t.W t.depth 0 0 ++ bs ++ (t.stack.reverse.map (fun e => e.bytes t.W)).flatten, [], s1))
    (fun st _ _ => st) s

/-- Whether an item is a split-stack entry that LDSS takes (R208). -/
def stackItemOk (W : Nat) (bottom : Bool) (bs : List Byte) : Bool :=
  let v := ofBytes (bs.take 8)
  let mask := ofBytes (bs.drop 8)
  bits v 0 2 ≤ 1 && bits v 57 7 == 0 && mask < 2 ^ W && (bits v 0 2 == 1 || bits v 2 55 == 0) && !(bottom && bits v 0 2 == 1)

/-- LDSS (R208). -/
def execLdss (x : Args) (s : State) : Out :=
  restoreForm .ldss x 2 (fun st hd => headerBad 2 st.now.W st.now.place.sslimit true hd) (fun _ _ => none)
    (fun st va _ hd bs _ =>
      let W := st.now.W
      let n := hdCount hd
      let item (i : Nat) : List Byte := recPart bs (entrySize W) i
      if !(List.range n).all (fun i => stackItemOk W (i == 0) (item i)) then st.restoreCapacity va 5 n 0
      else
        let es := ((List.range n).map (fun i => SEntry.ofBytes W (item i))).reverse
        match (st.modNow (fun t => { t with stack := es, spilled := 0 })).spill st.cur n with
        | .error f => st.privStop .spill 1 f
        | .ok s2 => s2.done) s

/-! Tiles (R209) -/

/-- What a form that saves or restores tiles 0 to n - 1 meets: MATRIX-STATE under an open chain, or a wait for chains, operations and
LDACCs that still use them (R209). -/
def tilesBusy (s : State) (n : Nat) : Option Out :=
  match s.crewOf s.cur with
  | none => none
  | some c =>
    match (List.range n).find? c.openOn with
    | some t => some (s.matrixState 3 t)
    | none => if (List.range n).any (s.tileBusy c) || s.ldaccOut c n then some (s.block .form) else none

/-- The image of a tile (R205). -/
def Tile.image (t : Tile) : List Byte := ((List.range tileWords).map (fun w => toBytes 8 (t.word w))).flatten

/-- A tile from its image, linked to no shadow (R345). -/
def Tile.ofImage (t : Tile) (bs : List Byte) : Tile :=
  { (List.range tileWords).foldl (fun u w => u.setWord w (ofBytes ((bs.drop (8 * w)).take 8))) t with shadow := none }

/-- SVACC (R209). -/
def execSvacc (x : Args) (s : State) : Out :=
  let n (st : State) : Nat := (st.kernelOf st.cur).acc
  saveForm .svacc x (fun st => 64 + n st * recItem 3 0) (fun st => tilesBusy st (n st))
    (fun st => .ok (recHeader 3 st.now.W (n st) 0 0 ++
      ((List.range (n st)).map (fun i => (((st.crewOf st.cur).map (fun c => c.tile i)).getD Tile.init).image)).flatten, [], st))
    (fun st _ _ => st) s

/-- LDACR (R209). -/
def execLdacr (x : Args) (s : State) : Out :=
  restoreForm .ldacr x 3 (fun st hd => headerBad 3 0 (st.kernelOf st.cur).acc false hd) tilesBusy
    (fun st _ _ hd bs _ =>
      match st.crewOf st.cur with
      | none => st.done
      | some c => ((List.range (hdCount hd)).foldl (fun u i =>
          u.modCrew c.key (fun k => k.setTile i ((k.tile i).ofImage (recPart bs (recItem 3 0) i)))) st).done) s

/-! Chucks (R210) -/

/-- What a form that saves or restores chucks 0 to n - 1 meets: MATRIX-STATE where an open chain reads them, or a wait for
closed chains and loads (R210). -/
def chucksBusy (s : State) (n : Nat) : Option Out :=
  match s.crewOf s.cur with
  | none => none
  | some c =>
    if n != 0 && c.chains.any (fun ch => !ch.closed) then some (s.matrixState 10 256)
    else if n != 0 && (!c.chains.isEmpty || (List.range n).any (s.chuckLoading c)) then some (s.block .form)
    else none

/-- The image of a chuck with its descriptor (R205, R321). -/
def Chuck.image (k : Chuck) : List Byte :=
  ((List.range 8192).map (fun j =>
    toBytes 3 ((sget 0 k.cells (2 * j)).toNat + (sget 0 k.cells (2 * j + 1)).toNat * 4096))).flatten ++
  toBytes 256 (k.state.toNat + k.fmt.toNat * 16 + k.nancol.toNat * 2 ^ 64 +
    sumN (k.exps.map (fun p => p.2.toNat * 2 ^ (192 + 12 * p.1))))

/-- A chuck from its image. -/
def Chuck.ofImage (bs : List Byte) : Chuck :=
  let d := ofBytes (bs.drop 24576)
  let list (n : Nat) (f : Nat → Nat) : Sparse (BitVec 12) :=
    (List.range n).filterMap (fun i => if f i == 0 then none else some (i, BitVec.ofNat 12 (f i)))
  { cells := list 16384 (fun i => bits (ofBytes ((bs.drop (i / 2 * 3)).take 3)) (12 * (i % 2)) 12)
    state := BitVec.ofNat 2 d, fmt := BitVec.ofNat 4 (d / 16), nancol := BitVec.ofNat 128 (d / 2 ^ 64)
    exps := list 128 (fun i => bits d (192 + 12 * i) 12) }

/-- SVCHK (R210). -/
def execSvchk (x : Args) (s : State) : Out :=
  let n (st : State) : Nat := (st.kernelOf st.cur).chucks
  saveForm .svchk x (fun st => 64 + n st * recItem 4 0) (fun st => chucksBusy st (n st))
    (fun st => .ok (recHeader 4 st.now.W (n st) 0 0 ++
      ((List.range (n st)).map (fun i => (((st.crewOf st.cur).map (fun c => c.chuck i)).getD Chuck.init).image)).flatten, [], st))
    (fun st _ _ => st) s

/-- LDCHK (R210). -/
def execLdchk (x : Args) (s : State) : Out :=
  restoreForm .ldchk x 4 (fun st hd => headerBad 4 0 (st.kernelOf st.cur).chucks false hd) chucksBusy
    (fun st _ _ hd bs _ =>
      match st.crewOf st.cur with
      | none => st.done
      | some c => ((List.range (hdCount hd)).foldl (fun u i =>
          u.modCrew c.key (fun k => k.setChuck i (Chuck.ofImage (recPart bs (recItem 4 0) i)))) st).done) s

end Sys2Proof.Machine
end

