-- ==== Sys2Proof/Machine/Package.lean ====
section
/-! DEFINITION. Events of the package as a whole: walks, device-level faults (R214), power and cooling (R21, R22), links and
calendars (R17, R380, R485), unreachable packages (R285, R487, R489), refresh (R238), checkpoint (R492), boot and attestation
(R490, R491). -/
namespace Sys2Proof.Machine

/-- TRANSLATION_WALK: a walk for a hart's address finds the leaves, sets accessed and dirty bits, installs the translation or
sends a promotion; one that faults leaves no trap of its own (R406, R409, R425). -/
def execTranslationWalk (hart : Nat) (va : Word) (acc : AccessKind) (s : State) : Out :=
  .next (s.translate (s.xctx hart) va.toNat acc (acc == .store || acc == .atomic)).2

/-! ### Device-level faults (R214, R215) -/

/-- Whether a core lies on a failed part (R13, R14). -/
def coreOnPart (core : Nat) : Part → Bool
  | .core n => core == n
  | .die n => dieOf core == n
  | _ => false

/-- The directions of a link or fabric port (log entry 19). -/
def partDirections : Part → List Nat
  | .link n => [2 * n, 2 * n + 1]
  | .port n => [portOut n, portOut n + 1]
  | _ => []

/-- Whether a launch had work on a part: a crew there, for a controller an access under way to its memory, for a link or port an
access under way that crosses it (R16). For a stack the spec gives no rule that tells it (log entry 20). -/
def State.hadWork (s : State) (p : Part) (l : Launch) : Bool :=
  let crews := s.run.crews.filter (fun c => c.launch == l.id)
  match p with
  | .controller h => crews.any (fun c =>
      s.mem.reqs.any (fun r => c.harts.contains r.hart && homeOf r.pa == some (homeNo h)) ||
      s.mem.loads.any (fun q => c.harts.contains q.hart && q.sectors.any (fun k => !k.scratch && homeOf (k.addr * 32) == some (homeNo h))))
  | .core _ => crews.any (fun c => coreOnPart c.core p)
  | .die _ => crews.any (fun c => coreOnPart c.core p)
  | .stack _ => Config.hadWork s.tick l.id
  | _ =>
    let crosses (h pa : Nat) : Bool := (s.route (dieOf (coreOf h)) pa).any (fun d => (partDirections p).contains d)
    crews.any (fun c =>
      s.mem.reqs.any (fun r => c.harts.contains r.hart && crosses r.hart r.pa) ||
      s.mem.loads.any (fun q => c.harts.contains q.hart && q.sectors.any (fun k => !k.scratch && crosses q.hart (k.addr * 32))))

/-- The launches of the affected RCBs: those that had work on the part, and those of their fault domains (R214). -/
def State.affected (s : State) (p : Part) : List Launch :=
  let live := s.run.launches.filter (fun l => !l.ended && l.eff.isSome)
  let hit := live.filter (s.hadWork p)
  live.filter (fun l => hit.any (fun q => q.rcbPa == l.rcbPa || q.eff.map Eff.fdom == l.eff.map Eff.fdom))

/-- Discard a crew without a save: its teams stop, its buffered stores are lost whole, and no drain, copy or chain of it goes
on (R214, R215). Bound tags are released unreported (R206). -/
def State.discardCrew (s : State) (c : Crew) : State :=
  let tags := (s.mem.bound.filter (fun b => b.launch == c.launch)).map Bound.tag
  let s1 := c.harts.foldl (fun st h => st.modHart h (fun t => { t with sb := [], sched := { t.sched with stopped := true } })) s
  let s2 := s1.modCrew c.key (fun q => { q with chains := [], discarded := true })
  let s3 := s2.modRun (fun r => { r with
    ops := r.ops.filter (fun o => o.crew != c.key)
    engines := (r.engines.map (fun p => (p.1, p.2.filter (fun i => !(r.ops.any (fun o => o.id == i && o.crew == c.key)))))).filter
      (fun p => !p.2.isEmpty) })
  s3.modMem (fun m => { m with bound := m.bound.filter (fun b => !tags.contains b.tag), acks := m.acks.filter (fun a => !tags.contains a.tag) })

/-- Note that a device-level fault made the RCB at an address FAULTED, so that its unplaced records are held (R214). -/
def State.holdRecords (s : State) (rcb : Nat) : State :=
  s.modRun (fun r => { r with devFaults := if r.devFaults.contains rcb then r.devFaults else r.devFaults ++ [rcb] })

/-- Discard the crews of an affected launch, whose RCB becomes FAULTED (R214, R379). -/
def State.discardLaunch (s : State) (l : Launch) : State :=
  let s1 := (s.run.crews.filter (fun c => c.launch == l.id)).foldl State.discardCrew s
  let tags := (s1.mem.bound.filter (fun b => b.launch == l.id)).map Bound.tag
  let s2 := s1.modMem (fun m => { m with bound := m.bound.filter (fun b => !tags.contains b.tag) })
  let s3 := match l.eff with
    | some e => s2.faultRecord e ⟨0, false, l.restart, e.fdom, 0, 0, 0, 0⟩
    | none => s2
  ((s3.setRcb l.id 6).endLaunch l.id 10).holdRecords (s3.rcbAt l 0)

/-- The records that stand in a launch queue, not yet started. -/
def State.queuedRecords (s : State) (q : Nat) : List Nat :=
  match s.lqHead q with
  | none => []
  | some (head, _) =>
    let n := min ((s.lqField q 224 32 + 2 ^ 32 - head) % 2 ^ 32) (2 ^ s.lqField q 8 4)
    (List.range n).map (fun i => s.peekNat (s.lqSlot q (head + i)) 64)

/-- An RCB that a queued record names becomes FAULTED, with its fault record, if it shares one of the fault domains and is not
FAULTED already (R214; log entry 74). -/
def State.faultQueued (s : State) (guest : Nat) (fdoms : List Nat) (record : Nat) : State :=
  let cx := s.guestCtx guest
  let p := (s.rcbPath cx 9 (bits record 128 64)).1
  match if pathUnfit p then none else effOf guest (pathRead p), (s.translate cx (bits record 128 64) .store false).1 with
  | some e, .ok _ pa =>
    if !fdoms.contains e.fdom then s
    else ((s.faultRecord e ⟨0, false, bit record 240, e.fdom, 0, 0, 0, 0⟩).putRcb pa 6).holdRecords pa
  | _, _ => s

/-- Fence the cores of a failed part, or take its links down, and stop what runs there (R23). -/
def State.fence (s : State) (p : Part) : State :=
  let cores := (List.range 261).filter (fun n => coreOnPart n p)
  let s1 := cores.foldl (fun st n => st.modCore n (fun k => { k with fenced := true })) s
  let s2 := (s1.harts.map Prod.fst).foldl (fun st h =>
    if cores.contains (coreOf h) then st.modHart h (fun t => { t with sched := { t.sched with stopped := true } }) else st) s1
  match p with
  | .die n => (s2.modPkg (fun k => { k with failedDies := if k.failedDies.contains n then k.failedDies else k.failedDies ++ [n] })).loseDie n
  | .controller h => s2.loseHome (homeNo h)
  | .core _ => s2
  | .stack _ => s2
  | _ => (partDirections p).foldl (fun st d => st.modLink d (fun l => { l with down := true })) s2

/-- DEVICE_LEVEL_FAULT (R23, R214): a part is fenced, the affected crews are discarded, and their RCBs become FAULTED, with those of
their fault domains that only queued records name. The fence is a RAS event (R480). -/
def execDeviceLevelFault (part : Part) (s : State) : Out :=
  let fdoms := ((s.affected part).filterMap (fun l => l.eff.map Eff.fdom)).eraseDups
  let s1 := (s.affected part).foldl State.discardLaunch s
  let s2 := if fdoms.isEmpty then s1
    else (List.range 1024).foldl (fun st q => (st.queuedRecords q).foldl (fun u v => u.faultQueued (st.lqGuest q) fdoms v) st) s1
  .next ((s2.fence part).ras 0)

/-! ### Power and cooling (R21, R22) -/

/-- The period of 4,096 cycles of the power controller (R22). -/
def State.powerPeriod (s : State) : Nat := s.cycles.toNat / 4096

/-- POWER_SAMPLE (R22), once in each period of 4,096 cycles: above 3.2 kW a step up, below 3.0 kW a step down; during a coolant
fault step 7 holds (R21). -/
def execPowerSample (milliwatts : Nat) (s : State) : Out :=
  .next (s.modPkg (fun p => { p with sampled := s.powerPeriod, power :=
    if p.sampled == s.powerPeriod then p.power
    else if p.coolant then 7
    else if milliwatts > 3200000 then min 7 (p.power + 1)
    else if milliwatts < 3000000 then p.power - 1
    else p.power }))

/-- COOLANT_FAULT: firmware holds step 7 and reports a RAS event (R21). -/
def execCoolantFault (s : State) : Out := .next ((s.modPkg (fun p => { p with coolant := true, power := 7 })).ras 1)

/-- COOLANT_RESTORED: the samples move the step again (R21). -/
def execCoolantRestored (s : State) : Out := .next (s.modPkg (fun p => { p with coolant := false }))

/-! ### Links and calendars (R17, R18, R380, R485) -/

/-- A calendar. -/
def State.calendar (s : State) (n : Nat) : Calendar := sget Calendar.init s.pkg.calendars n

/-- Change a calendar. -/
def State.modCalendar (s : State) (n : Nat) (f : Calendar → Calendar) : State :=
  s.modPkg (fun p => { p with calendars := sset Calendar.init p.calendars n (f (sget Calendar.init p.calendars n)) })

/-- The calendar of the hub port, and that of the memory-controller command bus of a home (R380; log entry 19). -/
def hubPort : Nat := 40
def commandBus (home : Nat) : Nat := 41 + home

/-- The calendars at which a flit that comes over a direction may wait next, by the routes of R16; none where it has arrived. -/
def nextStages : Nat → List Nat
  | 0 => [commandBus 1]
  | 5 => [commandBus 1]
  | 1 => [commandBus 0]
  | 3 => [commandBus 0]
  | 2 => [hubPort, commandBus 2, commandBus 3, 7] ++ (List.range 16).map portOut
  | 4 => [hubPort, commandBus 2, commandBus 3, 7] ++ (List.range 16).map portOut
  | 6 => [hubPort, commandBus 2, commandBus 3, 3, 5] ++ (List.range 16).map portOut
  | 7 => []
  | _ => [hubPort, commandBus 2, commandBus 3, 3, 5, 7]

/-- A flit of a guest comes over a direction: it stands in the receiving queue until the calendar of its next stage forwards it. -/
def State.arrive (s : State) (d guest : Nat) : State :=
  let stages := nextStages d
  if stages.isEmpty then s
  else
    let k := Config.nextStage s.tick d
    (s.modLink d (fun l => l.setOccupancy (l.occupancy + 1))).modCalendar (stages.getD (k % stages.length) hubPort)
      (fun c => { c with ready := c.ready ++ [(guest, d, k / stages.length % 2)] })

/-- Flits that a receiving queue can hold before the sender has seen HOLD: 384, and those of a round trip of under 96 (R17, R18). -/
def queueReach : Nat := 480

/-- Whether a direction can bring one more flit: it is a direction, it is up, and its sender has not seen HOLD for a round trip of under 96
flits (R17). -/
def State.canArrive (s : State) (d : Nat) : Bool :=
  decide (d < hubPort) && (decide (d < 8) || d % 2 == 1) && !(s.link d).down && (!(s.link d).hold || decide ((s.link d).late < 96))

/-- FLIT_ARRIVAL: a flit enters a receiving queue of 512, and waits at the calendar of its next stage (R16, R17, R18). -/
def execFlitArrival (link guest : Nat) (s : State) : Out := .next (if s.canArrive link then s.arrive link guest else s)

/-- The flit or command that slot `slot` of a calendar forwards: that of the slot's owner, else of the first later owner with
something ready, the oldest of its own; on a command bus, `bus`, those of the slot's pseudo-channel come first (R240, R380). -/
def Calendar.chosen (c : Calendar) (bus : Bool) : Option (Nat × Nat × Nat) :=
  let turn := (List.range 64).map (fun i => c.owners.getD ((c.slot + i) % 64) 255)
  let of (sel : Nat → Bool) : Option (Nat × Nat × Nat) :=
    turn.findSome? (fun g => if g > 63 then none else c.ready.find? (fun f => f.1 == g && sel f.2.2))
  if bus then (of (· == c.slot % 2)).or (of (· != c.slot % 2)) else of (fun _ => true)

/-- CALENDAR_SLOT: at slot 0 the owner table is read; the slot is lost to HOLD, or its owner's oldest flit is forwarded, or the
first later owner with something ready takes it (R380, R485). A flit forwarded over a die-to-die link enters its receiving queue. -/
def execCalendarSlot (cal : Nat) (s : State) : Out :=
  let c0 := s.calendar cal
  let c := if c0.slot == 0 then { c0 with owners := (s.bytesAt (s.pkg.sys.cal + 64 * cal) 64).map BitVec.toNat } else c0
  let onward (c : Calendar) : Calendar := { c with slot := (c.slot + 1) % 64 }
  if !s.linkFree cal then .next (s.modCalendar cal (fun _ => onward c))
  else
    match c.chosen (decide (hubPort < cal)) with
    | none => .next (s.modCalendar cal (fun _ => onward c))
    | some f =>
      let s1 := (s.modCalendar cal (fun _ => onward { c with ready := c.ready.erase f })).modLink f.2.1
        (fun l => l.setOccupancy (l.occupancy - 1))
      .next (if cal < 8 then s1.arrive cal f.1 else if cal < hubPort then s1.send (.forwarded cal f.1) else s1)

/-- LINK_DOWN: a fabric port that retried one flit 16 times is taken down (R489). -/
def execLinkDown (port : Nat) (s : State) : Out :=
  .next (if port ≥ 16 then s
    else [portOut port, portOut port + 1].foldl (fun st d => st.modLink d (fun l => { l with retries := 16, down := true })) s)

/-! ### Other packages (R285, R464, R487, R489) -/

/-- The lowest reachable package. -/
def State.lowestReachable (s : State) : Option Nat :=
  (List.range s.pkg.packages).find? (fun p => !s.pkg.unreachable.contains p)

/-- The lowest reachable member of the pool from a number on (R487). -/
def State.nextMember (s : State) (from_ : Nat) : Option Nat :=
  leastBy id (s.pkg.members.filter (fun p => from_ ≤ p && !s.pkg.unreachable.contains p))

/-- Whether an address lies in another package's HBM (R232). -/
def inPackage (pkg pa : Nat) : Bool := selector pa == 3 && bits pa 39 6 == pkg

/-- A member of the pool takes over the ownership words from a metadata package that is unreachable; changes of words that it has not
answered are asked of the new one, which takes those that still apply (R487). -/
def State.appoint (s : State) (pkg : Nat) : State :=
  if s.pkg.sys.metapkg != pkg then s
  else (s.modPkg (fun p => { p with sys := { p.sys with metapkg := (s.nextMember (pkg + 1)).getD p.sys.metapkg } })).modHub
    (fun u => { u with changing := [] })

/-- PACKAGE_UNREACHABLE: a package is marked, its copies are forgotten as those of a failed holder, every line of its HBM is discarded,
the next metadata package is appointed, and event 0x005 is raised (R317, R463, R464, R487, R489). Of a package that is unreachable
already, firmware's shootdown of what maps its HBM completes. -/
def execPackageUnreachable (pkg : Nat) (s : State) : Out :=
  if pkg == s.pkg.pkg then .next s
  else if s.pkg.unreachable.contains pkg then .next (s.shoot (4 + pkg) (inPackage pkg))
  else
    let s1 := s.modPkg (fun p => { p with unreachable := p.unreachable ++ [pkg] })
    let s2 := (List.range 4).foldl (fun st h => st.dropHolder h 4 (some pkg)) s1
    .next (((s2.discardRange (inPackage pkg)).appoint pkg).raiseEvent 5)

/-- SEQUENCER_REAPPOINT: the reachable package with the lowest number takes over, its stamp 1 above every reachable clock;
`clocks` are those of the other packages (R285). -/
def execSequencerReappoint (clocks : List Word) (s : State) : Out :=
  if !s.pkg.unreachable.contains s.pkg.seqPkg then .next s
  else
    let top := max (maxN (clocks.map BitVec.toNat)) (maxN (s.cores.map (fun c => c.2.lamport.toNat)))
    let s1 := s.modPkg (fun p => { p with seqPkg := s.lowestReachable.getD p.pkg })
    .next (s1.modMem (fun m => { m with
      seqStamps := sset 0 m.seqStamps (if s1.pkg.seqPkg == s1.pkg.pkg then 3000 else 4000) (top + 1) }))

/-! ### Refresh (R238) -/

/-- REFRESH_RATE_CHANGE: 0 is 1x, 1 is 2x from 85 degrees, 2 is 4x from 95; a rate falls a step once 3 degrees below (R238). -/
def execRefreshRateChange (layer : Nat) (milliCelsius : Int) (s : State) : Out :=
  let r := sget 0 s.pkg.refresh layer
  let up := if milliCelsius ≥ 95000 then 2 else if milliCelsius ≥ 85000 then 1 else 0
  let r' := if up > r then up
    else if r == 2 && milliCelsius ≤ 92000 then 1
    else if r == 1 && milliCelsius ≤ 82000 then 0
    else r
  .next (s.modPkg (fun p => { p with refresh := sset 0 p.refresh layer r' }))

/-! ### Checkpoint (R492) -/

/-- Whether a checkpoint has quiesced the package: no crew is placed and every store buffer, copy and migration has drained. -/
def State.drained (s : State) : Bool :=
  s.run.crews.isEmpty && s.harts.all (fun p => p.2.sb.isEmpty && p.2.uasc == 0) && s.run.ops.isEmpty && s.hub.migs.isEmpty &&
  s.mem.reqs.isEmpty

/-- Frames of a checkpoint: 256 GiB of each compute die and 1 TiB of LPM (R10, R492). -/
def ckptFrames : Nat := 3 * 2 ^ 27

/-- The place of an HBM or LPM address in the order of the frames of a checkpoint; none for other addresses (R492). -/
def ckptPlace (pa : Nat) : Option Nat :=
  let o := pa % 2 ^ 48
  match pa / 2 ^ 48 with
  | 0 => if o < 2 ^ 38 then some o else none
  | 1 => if o < 2 ^ 38 then some (o + 2 ^ 38) else none
  | 2 => if o < 2 ^ 40 then some (o + 2 ^ 39) else none
  | _ => none

/-- The first store block of a checkpoint, which leaves room for all its frames and its closing record on the drives (log entry 52). -/
def State.ckptBlock (s : State) : Nat := Config.ckptFirst s.tick % (8 * driveBlocks - ckptFrames - 1)

/-- The bytes that a checkpoint writes, at the addresses of the store's blocks: consecutive frames run across the drives in turn
(R488, R492). -/
def State.ckptCells (s : State) (block : Nat) : List Host.Cell :=
  s.mem.cells.filterMap (fun c => (ckptPlace c.1).map (fun o => (8 * 2 ^ 48 + 4096 * block + o, c.2)))

/-- Memory with every partial merged into its line (R268). -/
def State.mergeAll (s : State) : State := (s.mem.partials.map (fun p => p.pa / 128)).eraseDups.foldl (fun st k => st.mergeLines k 1) s

/-- CHECKPOINT_WRITE: once all has drained, every HBM and LPM frame is written to the PARK store, with what agents hold of it as partials
merged in (R268, R492). -/
def execCheckpointWrite (s : State) : Out :=
  if s.pkg.boot.ckpt != 1 || !s.drained then .next s
  else
    let lo := 8 * 2 ^ 48 + 4096 * s.ckptBlock
    let s1 := s.mergeAll
    let kept := s1.mem.cells.filter (fun c => c.1 < lo || lo + 4096 * ckptFrames ≤ c.1)
    .next ((s1.modPkg (fun p => { p with boot := { p.boot with ckpt := 2, ckptAt := s.ckptBlock } })).modMem (fun m => { m with
      cells := Memory.setAll kept (s1.ckptCells s.ckptBlock) }))

/-- CHECKPOINT_CLOSE: the closing record is written behind the frames and reported, the package released and event 0x004 raised (R492; log
entry 52). What has been written to wake words meanwhile takes effect. -/
def execCheckpointClose (s : State) : Out :=
  if s.pkg.boot.ckpt != 2 then .next s
  else
    let digest := sha384 (Config.frameOrder s.tick)
    let rec_ := Config.closingRecord s.pkg.pkg s.cycles.toNat s.pkg.boot.measurement digest
    let s1 := (s.send (.closingRecord s.pkg.pkg s.cycles.toNat s.pkg.boot.measurement digest)).cohPoke noHart
      (placed (8 * 2 ^ 48 + 4096 * (s.pkg.boot.ckptAt + ckptFrames)) (toBytes 64 rec_.toNat)) []
    .next ((s1.modPkg (fun p => { p with boot := { p.boot with ckpt := 0 } })).raiseEvent 4)

/-! ### Boot and attestation (R490, R491) -/

/-- The bytes of a 384-bit digest. -/
def digestBytes (d : BitVec 384) : List Byte := toBytesBE 48 d.toNat

/-- A hart that boot releases in a mode at an address. -/
def Hart.started (m : Mode) (pc : Nat) : Hart :=
  { Hart.init with mode := m, pc := BitVec.ofNat 64 pc, sched := { Sched.init with inReset := false } }

/-- A package after a cold reset whose boot has not got beyond a step: only the security processor is out of reset, whose own
program is not described. What is fused stays, and what stands on the drives of the PARK store with its tag records (R435, R488; log
entry 52). -/
def State.coldStart (s : State) (step failure : Nat) : State :=
  let r := State.reset
  { r with
    harts := sset Hart.init [] 132 { Hart.started .fw 0 with sched := { Sched.init with inReset := false, halted := true } }
    pkg := { r.pkg with boot := { r.pkg.boot with step := step, failure := failure, rollback := s.pkg.boot.rollback } }
    mem := { r.mem with cells := s.mem.cells.filter (fun c => selector c.1 == 8) }
    hub := { r.hub with store := s.hub.store }
    tick := s.tick, schedule := s.schedule, cur := s.cur, turn := s.turn, inputs := s.inputs, outbox := s.outbox,
    progress := s.progress, nextId := s.nextId }

/-- Whether a firmware image passes step 2 of boot: its signature verifies against the vendor key, and its version is not below
the rollback counter (R490). -/
def State.accepts (s : State) (image : FwImage) : Bool :=
  ecdsaVerify Config.vendorKey (sha384 image.bytes) image.signature && decide (s.pkg.boot.rollback ≤ image.version)

/-- COLD_RESET (R490): the image is verified against the vendor key and the rollback counter, measured, and its tables and
settings written, MQUIET to the nearer bound (R456); then the host die is released. A failure leaves every other core in reset. -/
def execColdReset (image : FwImage) (s : State) : Out :=
  if !s.accepts image then .next (s.coldStart 2 2)
  else
    let s0 := s.coldStart 4 0
    let m := sha384 (digestBytes s0.pkg.boot.measurement ++ digestBytes (sha384 image.bytes))
    let s1 := s0.modPkg (fun p => { p with
      pkg := image.pkg % 64, packages := min 64 image.packages, routes := image.routes, members := image.members, lpmBytes := min (2 ^ 40) image.lpmBytes
      boot := { p.boot with measurement := m }
      sys := ⟨image.lqt, image.cwin, image.rdt, image.pdt, image.poolmeta, image.cal, image.metapkg, image.gct, image.winpages⟩ })
    let s2 := s1.modRun (fun r => { r with distThreads := image.distributor })
    let s3 := s2.modHub (fun u => { u with
      free := image.freeFrames.foldl (fun f p => sset [] f p.1 p.2) []
      kvdir := image.kvdir.foldl (fun f p => sset 0 f p.1 p.2) [] })
    let s4 := (List.range 4).foldl (fun st h => st.modHome h (fun k => { k with
      mrate := image.mrate, mquiet := max 10 (min 40 image.mquiet), merge := image.merge, plog := image.plog.getD h 0 })) s3
    let s5 := image.tables.foldl (fun st w => st.pokeNat w.1 w.2.1 w.2.2) s4
    let s6 := image.regions.foldl (fun st r => st.modFrame r.1 (fun f => { f with region := r.2.1, rpage := r.2.2, kept := true })) s5
    let s7 := (List.range 4).foldl (fun st k => st.setHart (128 + k) (Hart.started .fw image.fwPc)) s6
    let s8 := ((List.range 128).filter (fun h => !image.distributor.contains h)).foldl
      (fun st h => st.setHart h (Hart.started .host image.hostPc)) s7
    .next (image.registers.foldl (fun st r => st.writeSr r.1 r.2.1 r.2.2) s8)

/-- ATTESTATION_REQUEST: the reply holds the nonce, the measurement registers and the serial number, signed (R491). -/
def execAttestationRequest (nonce : BitVec 256) (s : State) : Out :=
  let m := s.pkg.boot.measurement
  let body := toBytes 32 nonce.toNat ++ digestBytes m ++ Config.serial
  .next (s.send (.attestation (body ++ ecdsaSign (Config.identityKey m) (Config.signNonce s.tick) (sha384 body))))

end Sys2Proof.Machine
end

