-- ==== Sys2Proof/Machine/Dispatch.lean ====
section
/-! DEFINITION. The meaning of every step: one arm for each constructor of `Instr`. -/
namespace Sys2Proof.Machine

/-- The meaning of a step: one call of its own definition. -/
def exec (i : Instr) (s : State) : Host.Outcome State Fault Refusal :=
  match i with
  | .add x => Sys2Proof.Machine.execAdd x s
  | .sub x => Sys2Proof.Machine.execSub x s
  | .mul x => Sys2Proof.Machine.execMul x s
  | .mulh x => Sys2Proof.Machine.execMulh x s
  | .mad x => Sys2Proof.Machine.execMad x s
  | .div x => Sys2Proof.Machine.execDiv x s
  | .rem x => Sys2Proof.Machine.execRem x s
  | .min x => Sys2Proof.Machine.execMin x s
  | .max x => Sys2Proof.Machine.execMax x s
  | .abs x => Sys2Proof.Machine.execAbs x s
  | .lea x => Sys2Proof.Machine.execLea x s
  | .cmp x => Sys2Proof.Machine.execCmp x s
  | .sel x => Sys2Proof.Machine.execSel x s
  | .mov x => Sys2Proof.Machine.execMov x s
  | .movw x => Sys2Proof.Machine.execMovw x s
  | .movh x => Sys2Proof.Machine.execMovh x s
  | .and x => Sys2Proof.Machine.execAnd x s
  | .or x => Sys2Proof.Machine.execOr x s
  | .xor x => Sys2Proof.Machine.execXor x s
  | .andn x => Sys2Proof.Machine.execAndn x s
  | .not x => Sys2Proof.Machine.execNot x s
  | .shl x => Sys2Proof.Machine.execShl x s
  | .shr x => Sys2Proof.Machine.execShr x s
  | .sra x => Sys2Proof.Machine.execSra x s
  | .rol x => Sys2Proof.Machine.execRol x s
  | .clz x => Sys2Proof.Machine.execClz x s
  | .ctz x => Sys2Proof.Machine.execCtz x s
  | .popc x => Sys2Proof.Machine.execPopc x s
  | .brev x => Sys2Proof.Machine.execBrev x s
  | .bfx x => Sys2Proof.Machine.execBfx x s
  | .bfi x => Sys2Proof.Machine.execBfi x s
  | .prmb x => Sys2Proof.Machine.execPrmb x s
  | .fadd x => Sys2Proof.Machine.execFadd x s
  | .fsub x => Sys2Proof.Machine.execFsub x s
  | .fmul x => Sys2Proof.Machine.execFmul x s
  | .ffma x => Sys2Proof.Machine.execFfma x s
  | .fmin x => Sys2Proof.Machine.execFmin x s
  | .fmax x => Sys2Proof.Machine.execFmax x s
  | .fabs x => Sys2Proof.Machine.execFabs x s
  | .fneg x => Sys2Proof.Machine.execFneg x s
  | .fcmp x => Sys2Proof.Machine.execFcmp x s
  | .fclass x => Sys2Proof.Machine.execFclass x s
  | .fdiv x => Sys2Proof.Machine.execFdiv x s
  | .fsqrt x => Sys2Proof.Machine.execFsqrt x s
  | .frnd x => Sys2Proof.Machine.execFrnd x s
  | .fscl x => Sys2Proof.Machine.execFscl x s
  | .frcp x => Sys2Proof.Machine.execFrcp x s
  | .frsq x => Sys2Proof.Machine.execFrsq x s
  | .fexp2 x => Sys2Proof.Machine.execFexp2 x s
  | .flog2 x => Sys2Proof.Machine.execFlog2 x s
  | .fsin x => Sys2Proof.Machine.execFsin x s
  | .fcos x => Sys2Proof.Machine.execFcos x s
  | .ftanh x => Sys2Proof.Machine.execFtanh x s
  | .cvt x => Sys2Proof.Machine.execCvt x s
  | .cvtp x => Sys2Proof.Machine.execCvtp x s
  | .cvtbp x => Sys2Proof.Machine.execCvtbp x s
  | .cvfbp x => Sys2Proof.Machine.execCvfbp x s
  | .amax x => Sys2Proof.Machine.execAmax x s
  | .qscl x => Sys2Proof.Machine.execQscl x s
  | .shfl x => Sys2Proof.Machine.execShfl x s
  | .vote x => Sys2Proof.Machine.execVote x s
  | .lred x => Sys2Proof.Machine.execLred x s
  | .scan x => Sys2Proof.Machine.execScan x s
  | .vtos x => Sys2Proof.Machine.execVtos x s
  | .gtrn x => Sys2Proof.Machine.execGtrn x s
  | .topk x => Sys2Proof.Machine.execTopk x s
  | .kand x => Sys2Proof.Machine.execKand x s
  | .kor x => Sys2Proof.Machine.execKor x s
  | .kxor x => Sys2Proof.Machine.execKxor x s
  | .knot x => Sys2Proof.Machine.execKnot x s
  | .kmov x => Sys2Proof.Machine.execKmov x s
  | .kpop x => Sys2Proof.Machine.execKpop x s
  | .kffs x => Sys2Proof.Machine.execKffs x s
  | .exec x => Sys2Proof.Machine.execExec x s
  | .execr x => Sys2Proof.Machine.execExecr x s
  | .br x => Sys2Proof.Machine.execBr x s
  | .brc x => Sys2Proof.Machine.execBrc x s
  | .brz x => Sys2Proof.Machine.execBrz x s
  | .brd x => Sys2Proof.Machine.execBrd x s
  | .mbr x => Sys2Proof.Machine.execMbr x s
  | .join x => Sys2Proof.Machine.execJoin x s
  | .call x => Sys2Proof.Machine.execCall x s
  | .ret x => Sys2Proof.Machine.execRet x s
  | .jmpi x => Sys2Proof.Machine.execJmpi x s
  | .loop x => Sys2Proof.Machine.execLoop x s
  | .yield x => Sys2Proof.Machine.execYield x s
  | .exit x => Sys2Proof.Machine.execExit x s
  | .nop x => Sys2Proof.Machine.execNop x s
  | .brk x => Sys2Proof.Machine.execBrk x s
  | .ld x => Sys2Proof.Machine.execLd x s
  | .st x => Sys2Proof.Machine.execSt x s
  | .lds x => Sys2Proof.Machine.execLds x s
  | .sts x => Sys2Proof.Machine.execSts x s
  | .pref x => Sys2Proof.Machine.execPref x s
  | .cctl x => Sys2Proof.Machine.execCctl x s
  | .fence x => Sys2Proof.Machine.execFence x s
  | .ldp x => Sys2Proof.Machine.execLdp x s
  | .ldacc x => Sys2Proof.Machine.execLdacc x s
  | .stacc x => Sys2Proof.Machine.execStacc x s
  | .amo x => Sys2Proof.Machine.execAmo x s
  | .cas x => Sys2Proof.Machine.execCas x s
  | .redu x => Sys2Proof.Machine.execRedu x s
  | .kld x => Sys2Proof.Machine.execKld x s
  | .kst x => Sys2Proof.Machine.execKst x s
  | .ksib x => Sys2Proof.Machine.execKsib x s
  | .krec x => Sys2Proof.Machine.execKrec x s
  | .chld x => Sys2Proof.Machine.execChld x s
  | .chinv x => Sys2Proof.Machine.execChinv x s
  | .mcb x => Sys2Proof.Machine.execMcb x s
  | .mma x => Sys2Proof.Machine.execMma x s
  | .mce x => Sys2Proof.Machine.execMce x s
  | .mdrn x => Sys2Proof.Machine.execMdrn x s
  | .mclr x => Sys2Proof.Machine.execMclr x s
  | .morf x => Sys2Proof.Machine.execMorf x s
  | .msmx x => Sys2Proof.Machine.execMsmx x s
  | .mscl x => Sys2Proof.Machine.execMscl x s
  | .cpy x => Sys2Proof.Machine.execCpy x s
  | .cpyg x => Sys2Proof.Machine.execCpyg x s
  | .cpys x => Sys2Proof.Machine.execCpys x s
  | .await x => Sys2Proof.Machine.execAwait x s
  | .ftest x => Sys2Proof.Machine.execFtest x s
  | .fcan x => Sys2Proof.Machine.execFcan x s
  | .fhnd x => Sys2Proof.Machine.execFhnd x s
  | .wany x => Sys2Proof.Machine.execWany x s
  | .wall x => Sys2Proof.Machine.execWall x s
  | .wffr x => Sys2Proof.Machine.execWffr x s
  | .binit x => Sys2Proof.Machine.execBinit x s
  | .barv x => Sys2Proof.Machine.execBarv x s
  | .bwait x => Sys2Proof.Machine.execBwait x s
  | .barw x => Sys2Proof.Machine.execBarw x s
  | .bqry x => Sys2Proof.Machine.execBqry x s
  | .lnch x => Sys2Proof.Machine.execLnch x s
  | .acq x => Sys2Proof.Machine.execAcq x s
  | .park x => Sys2Proof.Machine.execPark x s
  | .wake x => Sys2Proof.Machine.execWake x s
  | .kvx x => Sys2Proof.Machine.execKvx x s
  | .kvw x => Sys2Proof.Machine.execKvw x s
  | .kvr x => Sys2Proof.Machine.execKvr x s
  | .pin x => Sys2Proof.Machine.execPin x s
  | .unpin x => Sys2Proof.Machine.execUnpin x s
  | .hint x => Sys2Proof.Machine.execHint x s
  | .migr x => Sys2Proof.Machine.execMigr x s
  | .tlbi x => Sys2Proof.Machine.execTlbi x s
  | .ownrRequest x => Sys2Proof.Machine.execOwnrRequest x s
  | .ownrRelease x => Sys2Proof.Machine.execOwnrRelease x s
  | .cntr x => Sys2Proof.Machine.execCntr x s
  | .cntc x => Sys2Proof.Machine.execCntc x s
  | .pgcnt x => Sys2Proof.Machine.execPgcnt x s
  | .tstp x => Sys2Proof.Machine.execTstp x s
  | .srr x => Sys2Proof.Machine.execSrr x s
  | .srw x => Sys2Proof.Machine.execSrw x s
  | .trap x => Sys2Proof.Machine.execTrap x s
  | .tret x => Sys2Proof.Machine.execTret x s
  | .iflush x => Sys2Proof.Machine.execIflush x s
  | .svsb x => Sys2Proof.Machine.execSvsb x s
  | .ldsb x => Sys2Proof.Machine.execLdsb x s
  | .svss x => Sys2Proof.Machine.execSvss x s
  | .ldss x => Sys2Proof.Machine.execLdss x s
  | .svacc x => Sys2Proof.Machine.execSvacc x s
  | .ldacr x => Sys2Proof.Machine.execLdacr x s
  | .svchk x => Sys2Proof.Machine.execSvchk x s
  | .ldchk x => Sys2Proof.Machine.execLdchk x s
  | .wfi x => Sys2Proof.Machine.execWfi x s
  | .halt x => Sys2Proof.Machine.execHalt x s
  | .sectorReturn load sector => Sys2Proof.Machine.execSectorReturn load sector s
  | .registerReply reply => Sys2Proof.Machine.execRegisterReply reply s
  | .splitStackRefill hart => Sys2Proof.Machine.execSplitStackRefill hart s
  | .storeBufferDeparture hart => Sys2Proof.Machine.execStoreBufferDeparture hart s
  | .storeAcknowledgement ack => Sys2Proof.Machine.execStoreAcknowledgement ack s
  | .ldpHoldRelease req => Sys2Proof.Machine.execLdpHoldRelease req s
  | .ldpHoldTimeout req => Sys2Proof.Machine.execLdpHoldTimeout req s
  | .scopedCacheEviction cluster cache line => Sys2Proof.Machine.execScopedCacheEviction cluster cache line s
  | .translationWalk hart va acc => Sys2Proof.Machine.execTranslationWalk hart va acc s
  | .mappingNotice pkg pa => Sys2Proof.Machine.execMappingNotice pkg pa s
  | .preemptRequest crew park => Sys2Proof.Machine.execPreemptRequest crew park s
  | .preemptDelivery hart => Sys2Proof.Machine.execPreemptDelivery hart s
  | .preemptTimeout crew => Sys2Proof.Machine.execPreemptTimeout crew s
  | .admissionWaitExpiry launch => Sys2Proof.Machine.execAdmissionWaitExpiry launch s
  | .migrationNotify thread => Sys2Proof.Machine.execMigrationNotify thread s
  | .externalEvent thread => Sys2Proof.Machine.execExternalEvent thread s
  | .crewExit crew => Sys2Proof.Machine.execCrewExit crew s
  | .drainingSettled crew => Sys2Proof.Machine.execDrainingSettled crew s
  | .launchRecordStart queue => Sys2Proof.Machine.execLaunchRecordStart queue s
  | .queueBinding slot => Sys2Proof.Machine.execQueueBinding slot s
  | .crewPlacement launch => Sys2Proof.Machine.execCrewPlacement launch s
  | .acqGrant core => Sys2Proof.Machine.execAcqGrant core s
  | .wakeWordWrite pa data => Sys2Proof.Machine.execWakeWordWrite pa data s
  | .rcbStateWrite rcb value => Sys2Proof.Machine.execRcbStateWrite rcb value s
  | .rungExpiry cont => Sys2Proof.Machine.execRungExpiry cont s
  | .blockMoveDone move => Sys2Proof.Machine.execBlockMoveDone move s
  | .blockSettle move => Sys2Proof.Machine.execBlockSettle move s
  | .migrationCommandTake => Sys2Proof.Machine.execMigrationCommandTake s
  | .migrationDoorbell service => Sys2Proof.Machine.execMigrationDoorbell service s
  | .migrationStart mig => Sys2Proof.Machine.execMigrationStart mig s
  | .migrationRatePeriod home => Sys2Proof.Machine.execMigrationRatePeriod home s
  | .lineCopy mig => Sys2Proof.Machine.execLineCopy mig s
  | .shootdownComplete mig => Sys2Proof.Machine.execShootdownComplete mig s
  | .abortComplete mig => Sys2Proof.Machine.execAbortComplete mig s
  | .sweepRebase region others => Sys2Proof.Machine.execSweepRebase region others s
  | .updateSend region dot member => Sys2Proof.Machine.execUpdateSend region dot member s
  | .keepingUpdateApply u => Sys2Proof.Machine.execKeepingUpdateApply u s
  | .updateAck region dot member => Sys2Proof.Machine.execUpdateAck region dot member s
  | .holdQueueRetry region => Sys2Proof.Machine.execHoldQueueRetry region s
  | .krecDeferred req => Sys2Proof.Machine.execKrecDeferred req s
  | .rd agent guest pa => Sys2Proof.Machine.execRd agent guest pa s
  | .rdx agent guest pa => Sys2Proof.Machine.execRdx agent guest pa s
  | .homeAccess req => Sys2Proof.Machine.execHomeAccess req s
  | .reduAtAgent req => Sys2Proof.Machine.execReduAtAgent req s
  | .unitMerge home base size => Sys2Proof.Machine.execUnitMerge home base size s
  | .writeBackArrival agent guest pa data => Sys2Proof.Machine.execWriteBackArrival agent guest pa data s
  | .peerRequest pkg guest pa kind => Sys2Proof.Machine.execPeerRequest pkg guest pa kind s
  | .holderFailure agent pkg => Sys2Proof.Machine.execHolderFailure agent pkg s
  | .homeLoss die => Sys2Proof.Machine.execHomeLoss die s
  | .deviceLevelFault part => Sys2Proof.Machine.execDeviceLevelFault part s
  | .ownershipReq page pkg => Sys2Proof.Machine.execOwnershipReq page pkg s
  | .delayedGrant page => Sys2Proof.Machine.execDelayedGrant page s
  | .grant page data => Sys2Proof.Machine.execGrant page data s
  | .redirect page pkg => Sys2Proof.Machine.execRedirect page pkg s
  | .ownershipTimeout page => Sys2Proof.Machine.execOwnershipTimeout page s
  | .metadataUpdate page pkg expected new => Sys2Proof.Machine.execMetadataUpdate page pkg expected new s
  | .mmaCompletion crew => Sys2Proof.Machine.execMmaCompletion crew s
  | .chainCompletion crew => Sys2Proof.Machine.execChainCompletion crew s
  | .drainCompletion crew op => Sys2Proof.Machine.execDrainCompletion crew op s
  | .chuckLoadCompletion crew op => Sys2Proof.Machine.execChuckLoadCompletion crew op s
  | .msmxCompletion crew op => Sys2Proof.Machine.execMsmxCompletion crew op s
  | .msclCompletion crew op => Sys2Proof.Machine.execMsclCompletion crew op s
  | .copyCommandStart engine => Sys2Proof.Machine.execCopyCommandStart engine s
  | .futureCompletion op => Sys2Proof.Machine.execFutureCompletion op s
  | .powerSample milliwatts => Sys2Proof.Machine.execPowerSample milliwatts s
  | .coolantFault => Sys2Proof.Machine.execCoolantFault s
  | .flitArrival link guest => Sys2Proof.Machine.execFlitArrival link guest s
  | .calendarSlot cal => Sys2Proof.Machine.execCalendarSlot cal s
  | .linkDown port => Sys2Proof.Machine.execLinkDown port s
  | .packageUnreachable pkg => Sys2Proof.Machine.execPackageUnreachable pkg s
  | .sequencerReappoint clocks => Sys2Proof.Machine.execSequencerReappoint clocks s
  | .refreshRateChange layer milliCelsius => Sys2Proof.Machine.execRefreshRateChange layer milliCelsius s
  | .onDieCheckFail pa => Sys2Proof.Machine.execOnDieCheckFail pa s
  | .eventRaise n => Sys2Proof.Machine.execEventRaise n s
  | .eventDoorbell width value => Sys2Proof.Machine.execEventDoorbell width value s
  | .eventConfigWrite n mode value => Sys2Proof.Machine.execEventConfigWrite n mode value s
  | .ckpt mode value => Sys2Proof.Machine.execCkpt mode value s
  | .checkpointWrite => Sys2Proof.Machine.execCheckpointWrite s
  | .checkpointClose => Sys2Proof.Machine.execCheckpointClose s
  | .coldReset image => Sys2Proof.Machine.execColdReset image s
  | .attestationRequest nonce => Sys2Proof.Machine.execAttestationRequest nonce s
  | .systemBlockWrite mode word value => Sys2Proof.Machine.execSystemBlockWrite mode word value s
  | .execWrite hart value => Sys2Proof.Machine.execExecWrite hart value s
  | .liveWrite hart value => Sys2Proof.Machine.execLiveWrite hart value s
  | .fpmWrite hart value => Sys2Proof.Machine.execFpmWrite hart value s
  | .fflagsAccess hart write => Sys2Proof.Machine.execFflagsAccess hart write s
  | .tagmapClear crew value => Sys2Proof.Machine.execTagmapClear crew value s
  | .nheadWrite guest value => Sys2Proof.Machine.execNheadWrite guest value s
  | .registerWrite hart reg value => Sys2Proof.Machine.execRegisterWrite hart reg value s
  | .coolantRestored => Sys2Proof.Machine.execCoolantRestored s
  | .serviceCoreRestart service => Sys2Proof.Machine.execServiceCoreRestart service s
  | .wait page => Sys2Proof.Machine.execWait page s
  | .peerInvalidation pkg pa recalled => Sys2Proof.Machine.execPeerInvalidation pkg pa recalled s

end Sys2Proof.Machine
end

