-- ==== Sys2Proof/Machine/Schedule.lean ====
section
/-! DEFINITION. An issue, and what happens around one step: time and the counters that count it (R19, R475, R476), what a step wakes, which
teams are ready (R373, R172, R22), and which step comes next. The order is the model's own: the choices in `schedule`, then free
ones (log entry 4). -/
namespace Sys2Proof.Machine

/-! ### An issue -/

/-- Whether the step just done was an instruction held at issue. -/
def State.waited (s : State) : Bool :=
  s.turn == .hart && s.now.sched.wait != .none && s.now.sched.waitTick == s.tick

/-- Whether the step just done was an instruction that did not issue: a wait at a barrier comes after issue (R373, R476). -/
def State.withheld (s : State) : Bool :=
  s.waited && (match s.now.sched.wait with | .barrier _ _ => false | _ => true)

/-- Passes of an issued instruction (R156): the 32-lane words of its member set, which for SEL is %exec (R85, R97), one on a
host-die team, none of a scalar form. -/
def passesOf (h : Nat) (t : Hart) (i : Instr) : Nat :=
  if !isCompute h then 1
  else match Instr.form? i with
    | some (o, x) =>
      let m := if o == .sel then t.exec else t.members x
      if perLane x then ((List.range ((t.W + 31) / 32)).filter (fun w =>
        (List.range 32).any (fun l => laneIn m (32 * w + l)))).length else 0
    | none => 0

/-- Whether an instruction of a state came to its passes: one that traps, at issue or in its access, makes none (R89, R156,
R191). A per-lane form that does not trap goes on at the next instruction and leaves the trap registers alone. -/
def passed (i : Instr) (s t : State) : Bool :=
  match Instr.form? i with
  | some (o, x) => precheck o x s == .go && (!perLane x || (t.now.pc == s.now.pc + 12 && t.now.trap == s.now.trap))
  | none => true

/-- Count an instruction that issued, with its passes, by the events 2 and 3 of R476. -/
def State.countIssue (s : State) (h guest passes : Nat) : State :=
  if (s.core (coreOf h)).pmc.isEmpty then s
  else (s.pmcAdd (coreOf h) 2 1 guest (some (pipeOf h))).pmcAdd (coreOf h) 3 passes guest (some (pipeOf h))

/-- What the counters see of an instruction of a state once it has been executed: one that was held did not issue. -/
def counted (i : Instr) (s : State) : Out → Out
  | .next t => .next (if t.withheld then t else t.countIssue s.cur s.now.guest (if passed i s t then passesOf s.cur s.now i else 0))
  | o => o

/-- The running hart sets out to issue: an earlier YIELD no longer holds it back. -/
def State.setOut (s : State) : State :=
  s.modNow (fun t => { t with sched := { t.sched with yielded := false } })

/-- The fetch, decoding (R26, R43) and execution of the running hart's next instruction. -/
def State.issueNow (s : State) : Out :=
  match s.fetchNext s.cur with
  | (.trap c a i, s1) => s1.raise c a i 1
  | (.hold, s1) => s1.block .refill
  | (.word w, s1) =>
    match decodeWord w with
    | .ok i => counted i s1 (exec i s1)
    | .error c => s1.illegalWord w c

/-! ### Readiness (R22, R172, R192, R373) -/

/-- Whether a pipe or engine of a compute core may issue in this cycle under the power step (R22; log entry 21). -/
def State.powered (s : State) : Bool := s.pkg.power == 0 || decide (s.cycles.toNat % 8 < 8 - s.pkg.power)

/-- Whether a hart runs at all. -/
def Sched.runs (q : Sched) : Bool := !q.inReset && !q.exited && !q.stopped && !q.halted && !q.wfi

/-- Whether PREEMPT or a host event is to be taken before a hart's next instruction (R192). -/
def State.asyncDue (s : State) (h : Nat) : Bool :=
  preemptFirst (s.hart h) || s.noteDue h || (s.eventDue h).isSome

/-- Whether a waiting hart may try again: something has happened since it stopped. Barriers end by their own step. -/
def Sched.retries (q : Sched) (progress : Nat) : Bool :=
  match q.wait with
  | .none => true
  | .barrier _ _ => false
  | _ => decide (q.waitTick < progress)

/-- Whether the next entry of a hart's split stack can be refilled, now or once what holds it is over: meanwhile the team is not
ready (R162). -/
def State.refillable (s : State) (h : Nat) : Bool :=
  match s.refillReady h 0 with
  | .error (.trap _ _ _) => false
  | _ => true

/-- Whether a hart that waits would not wait any longer, or would ask memory, the hub or another package for something new (R70, R373,
R425, R429). -/
def State.goesOn (s : State) (h : Nat) : Bool :=
  match ({ s with cur := h, turn := .hart, schedule := [], waiting := [] } : State).setOut.issueNow with
  | .next t => !t.withheld || t.mem != s.mem || t.hub != s.hub || t.run != s.run || t.outbox != s.outbox ||
      (t.hart h).sched.hold != (s.hart h).sched.hold
  | _ => true

/-- Whether a hart may issue next, power, YIELD and the pipe's choice left aside: a team that waits is not ready (R373). -/
def State.mayIssue (s : State) (h : Nat) (t : Hart) : Bool :=
  t.sched.runs && t.sched.demote.isNone && t.sched.retries s.progress && !s.asyncDue h &&
  !(t.stack.isEmpty && t.spilled != 0 && s.refillable h) && (t.sched.wait == .none || s.goesOn h)

/-- Whether two harts share a pipe (R11). Each host thread stands alone. -/
def samePipe (a b : Nat) : Bool := isCompute a && isCompute b && coreOf a == coreOf b && pipeOf a == pipeOf b

/-- The effective class of a hart's crew. -/
def State.hartClass (s : State) (h : Nat) : Nat := ((s.crewOf h).map s.crewPrio).getD 0

/-- Whether hart a goes before hart b on their pipe (R373). -/
def State.before (s : State) (a b : Nat) : Bool :=
  let la := (s.hart a).sched.lastIssue
  let lb := (s.hart b).sched.lastIssue
  let late (l : Nat) : Bool := l + 1024 ≤ s.cycles.toNat
  if late la || late lb then decide (la < lb) || (la == lb && decide (a < b))
  else if s.hartClass a != s.hartClass b then s.hartClass a > s.hartClass b
  else decide (la < lb) || (la == lb && decide (a < b))

/-- The harts that may issue: of each pipe the one it chooses. A team that yielded stands back for one cycle where another of its
pipe is ready (R172). -/
def State.readyHarts (s : State) : List Nat :=
  let able := (s.harts.filter (fun p => s.mayIssue p.1 p.2)).map Prod.fst
  let stay := able.filter (fun h => !((s.hart h).sched.yielded && able.any (fun g => g != h && samePipe g h && !(s.hart g).sched.yielded)))
  stay.filter (fun h => !(stay.any (fun g => g != h && samePipe g h && s.before g h)))

/-! ### Steps of the hardware that may come next -/

/-- Steps of loads, replies, requests and acknowledgements. -/
def MemSys.steps (m : MemSys) : List Instr :=
  (m.loads.map (fun l => if l.scalar then [Instr.registerReply l.id] else l.sectors.map (fun q => Instr.sectorReturn l.id q.addr))).flatten ++
  m.replies.map (fun r => Instr.registerReply r.id) ++ m.acks.map (fun a => Instr.storeAcknowledgement a.id) ++
  m.reqs.map (fun r =>
    if r.kind.isLdp && r.parked then (if r.released then .ldpHoldRelease r.id else .ldpHoldTimeout r.id)
    else if r.parked then .krecDeferred r.id
    else if r.ru then .reduAtAgent r.id
    else .homeAccess r.id) ++
  (m.clusters.map (fun c => ((c.2.bytes.map (fun b => b.1 / 128)).eraseDups).map (fun l => Instr.scopedCacheEviction true c.1 l))).flatten

/-- Steps of harts and their store buffers. -/
def State.hartSteps (s : State) : List Instr :=
  (s.harts.map (fun p =>
    let h := p.1
    let t := p.2
    (if t.spilled != 0 && t.stack.length < 16 then [Instr.splitStackRefill h] else []) ++
    (if t.sb.isEmpty then [] else [.storeBufferDeparture h]) ++
    (if preemptFirst t then [.preemptDelivery h]
     else if s.noteDue h then [.migrationNotify h]
     else if (s.eventDue h).isSome then [.externalEvent h]
     else []))).flatten ++
  (s.cores.map (fun c =>
    (((c.2.l1.bytes.map (fun b => b.1 / 128)).eraseDups).map (fun l => Instr.scopedCacheEviction false c.1 l)) ++
    (if c.2.acqs.isEmpty then [] else [.acqGrant c.1]))).flatten

/-- Steps of crews and of their engines. -/
def State.crewSteps (s : State) : List Instr :=
  (s.run.crews.map (fun c =>
    [Instr.crewExit c.key] ++ (if c.draining then [.drainingSettled c.key] else []) ++
    (if s.overran c && !c.draining && !c.discarded then [.preemptTimeout c.key] else []) ++
    (if c.mmaQueued then [.mmaCompletion c.key] else []) ++
    (if c.chains.any (fun ch => ch.closed && ch.queue.isEmpty) then [.chainCompletion c.key] else []))).flatten ++
  (s.run.ops.map (fun o => match o.kind with
    | .copy _ _ => if o.status.isSome then [Instr.futureCompletion o.id] else []
    | .chuckLoad .. => [.chuckLoadCompletion o.crew o.id]
    | .drain .. => [.drainCompletion o.crew o.id]
    | .msmx .. => [.msmxCompletion o.crew o.id]
    | .mscl .. => [.msclCompletion o.crew o.id]
    | .finished _ => [.futureCompletion o.id])).flatten ++
  s.run.engines.map (fun p => .copyCommandStart p.1)

/-- Steps of the launch unit, once boot is over. -/
def State.launchSteps (s : State) : List Instr :=
  if s.pkg.boot.step != 4 then []
  else
    s.run.pending.map (fun p => Instr.futureCompletion p.1) ++
    ((List.range 1024).filter (fun q => (s.lqHead q).isSome)).map (fun q => .launchRecordStart q) ++
    ((List.range 32).filter (fun i => sget 0 s.run.slots i == 0)).map (fun i => .queueBinding i) ++
    (if s.staleSlot then [.queueBinding 32] else []) ++
    (match s.serveNext with | some (l, _) => [.crewPlacement l.id] | none => []) ++
    (s.run.launches.filter (fun l => !l.ended)).map (fun l => .admissionWaitExpiry l.id)

/-- The home of a number. -/
def homeOfNo : Nat → Home
  | 0 => .h0
  | 1 => .h1
  | 2 => .l
  | _ => .p

/-- Whether a step leaves a state as it is. -/
def staysPut (o : Out) (s : State) : Bool :=
  match o with
  | .next t => decide (t = s)
  | _ => false

/-- Steps of the hub and the homes. -/
def State.hubSteps (s : State) : List Instr :=
  s.hub.kvx.map (fun k => Instr.registerReply k.id) ++ s.hub.conts.map (fun k => .rungExpiry k.id) ++
  (s.hub.moves.filter BlockMove.ended).map (fun m => if m.up then .blockSettle m.id else .blockMoveDone m.id) ++
  (if s.hub.migQueue.isEmpty then [] else [.migrationCommandTake]) ++
  s.hub.migs.map (fun m => match m.st with
    | .queued => .migrationStart m.id
    | .moving => .lineCopy m.id
    | .shootdown => .shootdownComplete m.id
    | .aborting => .abortComplete m.id) ++
  ((s.hub.holdq.map Prod.fst ++ s.hub.stalled.map Update.region).eraseDups).map (fun r => .holdQueueRetry r) ++
  (s.hub.outq.map (fun p => (p.2.map (fun o => o.unsent.map (fun i => Instr.updateSend p.1 o.upd.dot.toNat i))).flatten)).flatten ++
  ((s.hub.sweeps.map Prod.fst ++ s.hub.shares.map Prod.fst).eraseDups.filter (fun r => !staysPut (execSweepRebase r [] s) s)).map
    (fun r => .sweepRebase r []) ++
  s.hub.ownWait.map (fun r => .delayedGrant r.page) ++ s.hub.ownSent.map (fun r => .ownershipTimeout r.page) ++
  (s.mem.homes.map (fun p =>
    (if p.2.period == s.cycles.toNat / 2 ^ 20 then [] else [Instr.migrationRatePeriod (homeOfNo p.1)]) ++
    (if p.2.merge then p.2.dir.map (fun e => .unitMerge (homeOfNo p.1) e.base (e.size + 1)) else []))).flatten

/-- Steps of calendars and of a checkpoint. -/
def PkgSys.steps (p : PkgSys) : List Instr :=
  (p.calendars.filter (fun c => !c.2.ready.isEmpty)).map (fun c => .calendarSlot c.1) ++
  (match p.boot.ckpt with | 1 => [Instr.checkpointWrite] | 2 => [.checkpointClose] | _ => [])

/-- Steps of the power controller, once in each of its periods (R22), and of firmware: for packages that no route reaches (R489), and its
shootdowns of what is lost (R463). -/
def State.controllerSteps (s : State) : List Instr :=
  (if s.pkg.sampled == s.powerPeriod then [] else [Instr.powerSample (Config.milliwatts s.tick)]) ++
  ((List.range s.pkg.packages).filter (fun p => p != s.pkg.pkg && !s.pkg.unreachable.contains p &&
    (s.link (portOut (s.portOf p))).down)).map (fun p => .packageUnreachable p) ++
  (s.pkg.unreachable.filter (fun p => !s.pkg.shot.contains (4 + p))).map (fun p => .packageUnreachable p) ++
  ((List.range 3).filter (fun d => !(s.unshot d).isEmpty)).map (fun d => .homeLoss d)

/-- Whether the sender of a direction has seen HOLD for a round trip, so that no more comes over it (R17). -/
def LinkSt.shut (l : LinkSt) : Bool := !l.down && l.hold && decide (96 ≤ l.late)

/-- Whether an outside event must wait where it stands: a doorbell for a full queue (R417), an update or a flit whose sender holds it back
(R17, R316), a write at a migration cursor (R420), an access to %fflags (R127). -/
def State.inputWaits (s : State) (e : Instr) : Bool :=
  match e with
  | .migrationDoorbell k => staysPut (execMigrationDoorbell k s) s
  | .keepingUpdateApply u => (s.link (portOut (s.portOf u.origin) + 1)).shut
  | .writeBackArrival _ _ pa _ => (s.cursorMig pa).isSome
  | .peerRequest p g pa k => (s.cursorMig pa).isSome && staysPut (execPeerRequest p g pa k s) s
  | .fflagsAccess h w => w.isSome && !s.flagsSettled h
  | .flitArrival l _ => (s.link l).shut
  | _ => false

/-! ### Choosing the next step -/

/-- Whether a step is one that the power step withholds: an issue of a pipe or a step of an engine of the compute dies (R22). -/
def Choice.paced : Choice → Bool
  | .issue h => isCompute h
  | .event e => (match e with
    | .mmaCompletion _ => true
    | .chuckLoadCompletion _ _ => true
    | .drainCompletion _ _ => true
    | .msmxCompletion _ _ => true
    | .msclCompletion _ _ => true
    | _ => false)
  | .input _ => false

/-- Whether two steps stand in one place of those that wait: they are the same, or issues of one pipe. -/
def Choice.alike (a b : Choice) : Bool :=
  a == b || (match a, b with | .issue g, .issue h => samePipe g h | _, _ => false)

/-- Everything that may come next, power left aside: of the outside events the first that need not wait. -/
def State.allOptions (s : State) : List Choice :=
  s.readyHarts.map Choice.issue ++
  (s.mem.steps ++ s.hartSteps ++ s.crewSteps ++ s.launchSteps ++ s.hubSteps ++ s.pkg.steps ++ s.controllerSteps).map Choice.event ++
  (match s.inputs.find? (fun e => !s.inputWaits e) with
   | none => []
   | some e => [.input e])

/-- Everything that may come next in this cycle (R22). -/
def State.options (s : State) : List Choice := s.allOptions.filter (fun c => !c.paced || s.powered)

/-- The possible next steps that have waited, the longest first, and those that have become possible behind them (R381). One that the
power step withholds keeps its place, and so does a pipe whose next team is another one. -/
def State.waiters (s : State) (os : List Choice) : List Choice :=
  s.waiting.filter (fun c => os.any c.alike) ++ os.filter (fun c => !s.waiting.any c.alike)

/-- Choose the next step: by the schedule while it lasts, else freely; but now and then, at free times, the step that has waited
longest comes, so that none waits without end (R381; log entry 77). -/
def State.pick (s : State) : State :=
  let os := s.options
  let ws := s.waiters s.allOptions
  let oldest := ws.find? (fun c => os.any c.alike)
  let k := match s.schedule with
    | k :: _ => k
    | [] => if s.tick % (Config.patience + 1) == 0 then (findIdx? (fun c => oldest.any c.alike) os |>.map Prod.fst).getD 0
      else Config.choose s.tick
  let taken := os[k % os.length]?
  let s1 := { s with schedule := s.schedule.drop 1, waiting := ws.filter (fun c => !taken.any c.alike) }
  match taken with
  | none => { s1 with turn := .idle }
  | some (.issue h) => { s1 with cur := h, turn := .hart }
  | some (.event e) => { s1 with turn := .event e }
  | some (.input e) => { s1 with turn := .event e, inputs := s1.inputs.erase e }

/-! ### Time (R19, R475, R476) -/

/-- Cycles that the step of a tick takes (R516; log entry 4). -/
def stepCycles (tick : Nat) : Nat := 1 + Config.elapsed tick

/-- Count what passes in a step's cycles on one core, by the events 1 and 4 to 7 and 12 of R476. -/
def State.countCore (s : State) (core dt : Nat) : State :=
  let mine := s.harts.filter (fun p => coreOf p.1 == core && p.2.sched.runs)
  let busy := s.run.crews.any (fun c => c.core == core && c.mmaQueued)
  let s1 := s.pmcAdd core 1 dt 0 none
  let s2 := if busy then s1.pmcAdd core 7 dt 0 none else s1
  let pipesUsed := (mine.filter (fun p => p.2.sched.wait == .none)).map (fun p => (pipeOf p.1, p.2.guest))
  let issuing := s.turn == .hart && coreOf s.cur == core
  let s3 := pipesUsed.eraseDups.foldl (fun st p =>
    if !s.powered then st.pmcAdd core 12 dt p.2 (some p.1)
    else st.pmcAdd core 4 (if issuing && pipeOf s.cur == p.1 then dt - 1 else dt) p.2 (some p.1)) s2
  mine.foldl (fun st p => match p.2.sched.wait with
    | .operands => st.pmcAdd core 5 dt p.2.guest (some (pipeOf p.1))
    | .future _ => st.pmcAdd core 5 dt p.2.guest (some (pipeOf p.1))
    | .barrier _ _ => st.pmcAdd core 6 dt p.2.guest (some (pipeOf p.1))
    | _ => st) s3

/-- Count a step's cycles on every core that has a configured counter. -/
def State.countTime (s : State) (dt : Nat) : State :=
  ((s.cores.filter (fun c => !c.2.pmc.isEmpty)).map Prod.fst).foldl (fun st c => st.countCore c dt) s

/-! ### What follows every step -/

/-- During the first part of a checkpoint, firmware pre-empts every crew (R492). -/
def State.quiesce (s : State) : State :=
  if s.pkg.boot.ckpt != 1 then s
  else (s.run.crews.filter (fun c => !c.draining && c.raised.isNone)).foldl (fun st c => st.raisePreempt c.key false) s

/-- Waits that a step has ended: barrier phases that flipped, launches whose wake word it wrote, and fault records that a promotion
held. -/
def State.wakeUp (s : State) : State :=
  (((s.harts.filter (fun p => match p.2.sched.wait with | .barrier _ _ => true | _ => false)).map Prod.fst).foldl
    State.endBarrierWait s).wakeAll.retryFaults

/-- A YIELD holds its team back for the cycle after it (R172); the hart that issued notes when. -/
def State.noteIssue (s : State) : State :=
  let s1 := ((s.harts.filter (fun p => p.2.sched.yielded && !(s.turn == .hart && p.1 == s.cur))).map Prod.fst).foldl
    (fun st h => st.modHart h (fun t => { t with sched := { t.sched with yielded := false } })) s
  if s.turn == .hart && !s.withheld then s1.modNow (fun t => { t with sched := { t.sched with lastIssue := s.cycles.toNat } }) else s1

/-- A step's time passes. -/
def State.pass (s : State) : State :=
  let dt := stepCycles s.tick
  { s.countTime dt with
    cycles := s.cycles + BitVec.ofNat 64 dt, tick := s.tick + 1, progress := if s.withheld then s.progress else s.tick }

/-- A state after its step: what the step ended goes on, time has passed, and the next step is chosen. -/
def State.settle (s : State) : State := (s.wakeUp.quiesce.noteIssue.pass).pick

/-- What ends every step that ends in a next state. -/
def settled : Out → Out
  | .next s => .next s.settle
  | o => o

end Sys2Proof.Machine
end

