-- ==== Sys2Proof/Machine/Step.lean ====
section
/-! DEFINITION. One step of the machine: the step that stands next, or the issue of the current hart's instruction. -/
namespace Sys2Proof.Machine

/-- One step: a step of the hardware, the passing of time, or the fetch, decoding (R26, R43) and execution of the current hart's
next instruction. -/
def step (s : State) : Host.Outcome State Fault Refusal :=
  match s.turn with
  | .event e => settled (exec e s)
  | .idle => settled (.next s)
  | .hart => settled s.setOut.issueNow

/-- The state with an instruction where the next step fetches: its bits above `nbits` are 0 (log entry 22). -/
def State.withFetchWord (s : State) (nbits w : Nat) : State := s.load (w % 2 ^ nbits)

end Sys2Proof.Machine
end

