-- ==== Sys2Proof/Safety.lean ====
section
/-! DEFINITION. The terms in which statements speak: when an instruction issues normally, what a step may leave
unchanged, and what a safe run is. -/
namespace Sys2Proof.Safety

open Machine

/-! ### Safe runs -/

/-- A step that neither faults nor is refused. -/
def stepSafe (s : State) : Prop := ∃ t, step s = .next t

/-- A run of n steps without a fault or a refusal. -/
def runSafe : Nat → State → Prop
  | 0, _ => True
  | n + 1, s => ∃ t, step s = .next t ∧ runSafe n t

/-! ### When an instruction issues normally (R35, R43, R67, R70, R71, R186, R248) -/

/-- Every register of a use holds a state that `p` accepts, in the lanes the instruction concerns. -/
def regsIn (p : RegSt → Bool) (t : Hart) (u : Use) (lanes : Mask) : Bool :=
  match u.op with
  | .s r _ _ => (List.range u.n).all (fun i => p (t.getS (r.toNat + i)).st)
  | .v r _ _ => (lanesOf t.W lanes).all (fun l => (List.range u.n).all (fun i => p (t.getV (r.toNat + i) l).st))
  | .k r _ => p (if (t.getK r.toNat).empty then .empty else .full)
  | _ => true

/-- A state that a reader waits for (R70): EMPTY, with or without a pending handle. -/
def notEmpty : RegSt → Bool
  | .empty => false | .future => false | _ => true

/-- A source is FULL, R70; the data of a plain store may be POISON (R74), and FTEST, FHND and FCAN take a pending future
as it is (R396). -/
def sourceReady (s : State) (o : Op) (x : Args) (u : Use) : Bool :=
  !u.rd ||
  ((futureExempt o u s.now || regsIn notEmpty s.now u (relevant s o x u)) &&
   ((o == .st && u.slot == 1) || regsIn (· != .poison) s.now u (relevant s o x u)))

/-- A destination is not EMPTY (R71). -/
def destReady (s : State) (o : Op) (x : Args) (u : Use) : Bool := !u.wr || regsIn notEmpty s.now u (relevant s o x u)

/-- The running hart issues the form without a trap and without a wait, and it acts: the form is well formed (R43),
permitted on this core and in this mode (R43, R186), its guard is FULL, it has lanes to act on (R35), its registers lie
within the team's allotment (R67), its sources are FULL and its destinations not EMPTY (R70, R71), and no earlier
flags are still to come where it reads them (R127). -/
def ready (o : Op) (x : Args) (s : State) : Bool :=
  let t := s.now
  decide (t.sb.length ≤ 64) && checkArgs o x == none && (!isHostThread s.cur || !hostBarred o x) &&
  decide (modeRank o.row.mode ≤ modeRank t.mode) && srDenied t x == none &&
  (x.g == 0 || !(t.getK x.g.toNat).empty) && acts t o x &&
  (usesOf o x).all (fun u => allotted t (s.kernelOf s.cur) (u.named o x) && sourceReady s o x u && destReady s o x u) &&
  !flagsWait s o x

/-! ### What a step leaves unchanged -/

/-- Only the running hart differs: memory, caches, tables, engines, the package and every other hart are as before. -/
def onlyRunning (s t : State) : Prop :=
  t = { s with harts := t.harts } ∧ ∀ h, h ≠ s.cur → t.hart h = s.hart h

/-- Of the running hart only the general registers, the predicate registers, the pc, the flags and the issue state may
differ: %exec, %live, the split stack, the store buffer, the mode, %fpm, its place, the trap and the supervisor
registers are as before. -/
def onlyRegisters (u u' : Hart) : Prop :=
  u' = { u with pc := u'.pc, s := u'.s, v := u'.v, k := u'.k, fflags := u'.fflags, sched := u'.sched }

/-- Every scalar register reads as before. -/
def scalarsKept (u u' : Hart) : Prop := ∀ r, u'.getS r = u.getS r

/-- Every lane of every vector register reads as before. -/
def vectorsKept (u u' : Hart) : Prop := ∀ r l, u'.getV r l = u.getV r l

/-- Every predicate register reads as before. -/
def predicatesKept (u u' : Hart) : Prop := ∀ r, u'.getK r = u.getK r

/-- No byte of memory differs. -/
def memoryKept (s t : State) : Prop := ∀ a, t.byte a = s.byte a

/-- D, and nothing else among the general registers, holds a result: `y l` in each listed lane of a vector destination (the
low 32 bits in the named register and, for a 64-bit type, the high ones in the next), `y 0` in a scalar destination but s0,
which discards it (R31, R63, R69, R86). -/
def resultIn (ty : Ty) (d : Operand) (ls : List Nat) (y : Nat → Word) (u u' : Hart) : Prop :=
  (∀ r, u'.getS r = (match d with
    | .s q _ _ => if r = q.toNat ∧ r ≠ 0 then ⟨.full, y 0⟩ else u.getS r
    | _ => u.getS r)) ∧
  (∀ r l, u'.getV r l = (match d with
    | .v q _ _ =>
      if r = q.toNat ∧ l ∈ ls then ⟨.full, (y l).truncate 32⟩
      else if tyBits ty = 64 ∧ r = q.toNat + 1 ∧ l ∈ ls then ⟨.full, (y l >>> 32).truncate 32⟩
      else u.getV r l
    | _ => u.getV r l)) ∧
  predicatesKept u u'

/-- The step of an instruction answers `t`, in which nothing but the running hart differs, and of it only the general
registers, the predicate registers, the flags and the issue state; the pc has moved past the instruction. -/
def registerStep (i : Instr) (s t : State) : Prop :=
  exec i s = .next t ∧ onlyRunning s t ∧ memoryKept s t ∧ onlyRegisters s.now t.now ∧ t.now.pc = s.now.pc + 12

/-- The instruction completes: its step answers a next state in which the pc has moved past it and D holds its results in
the listed lanes; every other register, every flag, every special register, memory and every other hart are as before. -/
def completesWith (i : Instr) (x : Args) (s : State) (ls : List Nat) (y : Nat → Word) : Prop :=
  ∃ t, registerStep i s t ∧ t.now.fflags = s.now.fflags ∧ resultIn x.ty x.d ls y s.now t.now

/-- The flags of the results of some lanes, together (R126). -/
def flagsOf (ls : List Nat) (y : Nat → Res) : Flags := ls.foldl (fun f l => f ||| (y l).2) 0

/-- The instruction completes as `completesWith` says, with results of type `ty` that set flags: those of all listed lanes
are set in %fflags and none is cleared (R126). -/
def completesFlags (i : Instr) (ty : Ty) (d : Operand) (s : State) (ls : List Nat) (y : Nat → Res) : Prop :=
  ∃ t, registerStep i s t ∧ t.now.fflags = s.now.fflags ||| flagsOf ls y ∧
    resultIn ty d ls (fun l => extended ty (interp ty (y l).1)) s.now t.now

/-- The instruction completes with a mask in predicate register r, whose bits below W `m` gives, and sets the flags `fl`;
every other register and every other flag are as before. Nothing is written to k0 (R63). -/
def completesMask (i : Instr) (s : State) (r : Nat) (fl : Flags) (m : Nat → Bool) : Prop :=
  ∃ t v, registerStep i s t ∧ t.now.fflags = s.now.fflags ||| fl ∧ scalarsKept s.now t.now ∧ vectorsKept s.now t.now ∧
    (∀ l, l < s.now.W → s.now.W ≤ 1024 → laneIn v l = m l) ∧
    (∀ q, t.now.getK q = if q = r ∧ q ≠ 0 then ⟨false, v⟩ else s.now.getK q)

/-- The lanes that a form writes: its member set (R35, R85). -/
def memberLanes (s : State) (x : Args) : List Nat := lanesOf s.now.W (s.now.members x)

/-! ### Memory forms (R191, R241 to R244, R279) -/

/-- A memory form issues: it is ready, and no acquire of the team is under way (R279). -/
def memReady (o : Op) (x : Args) (s : State) : Bool := ready o x s && !s.acqPending s.cur

/-- What the access of a form needs of each lane's bytes. -/
def wantOf (o : Op) (x : Args) : Want :=
  let n := accessSize o x
  match o with
  | .ld => ⟨x.sub.toNat % 4, n, .load, true, false, .read⟩
  | .st => ⟨x.sub.toNat % 4, n, .store, false, true, .plainStore⟩
  | .lds => ⟨0, n, .load, true, false, .read⟩
  | .sts => ⟨0, n, .store, false, true, .plainStore⟩
  | .ldp => ⟨0, n, .load, true, false, .atomic⟩
  | .cctl => ⟨0, 1, .load, true, false, .skip⟩
  | .kld | .ksib => ⟨0, n, .atomic, true, false, .form⟩
  | .kst | .krec => ⟨0, n, .atomic, true, true, .form⟩
  | _ => ⟨0, n, .atomic, true, true, .atomic⟩

/-- Every lane of a form passes the checks of R191: what each lane accesses, and the state they leave. -/
def access (o : Op) (x : Args) (s : State) : Option (List LaneRef × State) :=
  match s.unwait.checkAll (wantOf o x) (s.laneAddrs o x (accessSize o x)) with
  | .ok refs t => some (refs, t)
  | .out _ => none

/-- D, and nothing else among the general registers, is EMPTY: the span that a memory form fills, in the lanes given for a
vector destination (R69). -/
def emptied (x : Args) (lanes : List Nat) (u u' : Hart) : Prop :=
  (∀ r, u'.getS r = if kindOf x.d = .s ∧ regOf x.d ≤ r ∧ r < regOf x.d + dSpan x ∧ r ≠ 0 then ⟨.empty, 0⟩ else u.getS r) ∧
  (∀ r l, u'.getV r l =
    if kindOf x.d = .v ∧ regOf x.d ≤ r ∧ r < regOf x.d + dSpan x ∧ l ∈ lanes then ⟨.empty, 0⟩ else u.getV r l) ∧
  predicatesKept u u'

/-- The general registers, the predicate registers and the flags read as before. -/
def registersKept (u u' : Hart) : Prop :=
  scalarsKept u u' ∧ vectorsKept u u' ∧ predicatesKept u u' ∧ u'.fflags = u.fflags

/-- The record that a restore form reads at an aligned address, when it can be reached and no earlier access of the hart to it is
under way: the places of its bytes, the header, the body, the uncorrectable sectors, and the state the reads leave (R203). -/
def recordRead (kind : Nat) (s : State) (va : Nat) : Option (List RecByte × Nat × List Byte × List Nat × State) :=
  if va % 64 != 0 then none
  else match s.unwait.recRange va 64 false with
    | .error _ => none
    | .ok (hl, s2) =>
      if s2.recBusy hl then none
      else
        let (hb, _, rej, s3) := s2.recRead va hl
        match rej, s3.recRange va (64 + hdCount (ofBytes hb) * recItem kind s3.now.W) false with
        | none, .ok (l, s4) =>
          if s4.recBusy l then none
          else
            let (bs, bad, rej', s5) := s4.recRead va l
            if rej'.isSome then none else some (l, ofBytes hb, bs.drop 64, bad, s5)
        | _, _ => none

/-- No scoped cache on a core's path holds a byte that memory does not have yet (R228). -/
def nothingDirty (s : State) (core : Nat) : Prop :=
  192 ≤ core ∨ ((s.core core).l1.dirty (fun _ => true) = [] ∧ (s.cluster (clusterOf core)).dirty (fun _ => true) = [])

/-! ### What holds between steps -/

/-- Where the next step is an issue, the hart chosen may issue: it runs, waits for no demotion, owes no PREEMPT and no host event
(R192), is powered on a compute die (R22), and its pipe, which issues one instruction, has chosen it and no other (R11, R373). -/
def issueInv (s : State) : Prop :=
  s.turn = .hart →
    (∃ p ∈ s.harts, p.1 = s.cur ∧ p.2.sched.inReset = false ∧ p.2.sched.exited = false ∧ p.2.sched.stopped = false ∧
      p.2.sched.halted = false ∧ p.2.sched.wfi = false ∧ p.2.sched.demote = none) ∧
    s.asyncDue s.cur = false ∧ (isCompute s.cur = true → s.powered = true) ∧ s.cur ∈ s.readyHarts ∧
    ∀ h ∈ s.readyHarts, samePipe h s.cur = true → h = s.cur

end Sys2Proof.Safety
end

