-- ==== Sys2Proof/Certificates/Slice0/Obligations.lean ====
section
/-! DEFINITION. The statements about this model for the provers. -/
open Sys2Proof Sys2Proof.Machine Sys2Proof.Safety

/-! ### Classes 0 and 1 -/

/-- R92, R93, R94, R95: the results of integer arithmetic and of LEA, and nothing else changed. `a`, `b` and `d` are the
source values of R86; `p` and `q` the two sources of a form that may be a two-operand one (R88). -/
def Obligations.IntegerArithmetic : Prop :=
  ∀ (x : Args) (s : State),
    let w := tyBits x.ty
    let a := fun l => interp x.ty (s.src x.ty x.a l)
    let b := fun l => interp x.ty (s.src x.ty x.b l)
    let d := fun l => interp x.ty (s.src x.ty x.d l)
    let p := fun o l => if twoOperand o x = true then d l else a l
    let q := fun o l => if twoOperand o x = true then a l else b l
    let lo : Int := if tySigned x.ty = true then -(2 ^ (w - 1)) else 0
    let hi : Int := if tySigned x.ty = true then 2 ^ (w - 1) - 1 else 2 ^ w - 1
    let sat := fun (y : Int) => if x.sub = 1 then (if hi < y then hi else if y < lo then lo else y) else y
    let gives := fun (i : Instr) (y : Nat → Int) => completesWith i x s (memberLanes s x) (fun l => extended x.ty (y l))
    (ready .add x s = true → gives (.add x) (fun l => sat (p .add l + q .add l))) ∧
    (ready .sub x s = true → gives (.sub x) (fun l => sat (a l - b l))) ∧
    (ready .mul x s = true → gives (.mul x) (fun l => sat (a l * b l))) ∧
    (ready .mad x s = true → gives (.mad x) (fun l => sat (a l * b l + d l))) ∧
    (ready .mulh x s = true → gives (.mulh x) (fun l => (a l * b l) / 2 ^ w)) ∧
    (ready .div x s = true → gives (.div x) (fun l =>
      if b l = 0 then (if tySigned x.ty = true then -1 else 2 ^ w - 1) else (a l).tdiv (b l))) ∧
    (ready .rem x s = true → gives (.rem x) (fun l => if b l = 0 then a l else a l - b l * (a l).tdiv (b l))) ∧
    (ready .min x s = true → gives (.min x) (fun l => if a l ≤ b l then a l else b l)) ∧
    (ready .max x s = true → gives (.max x) (fun l => if a l ≤ b l then b l else a l)) ∧
    (ready .abs x s = true → gives (.abs x) (fun l => sat (if a l < 0 then -a l else a l))) ∧
    (ready .lea x s = true → gives (.lea x) (fun l => p .lea l + q .lea l * 2 ^ x.sub.toNat))

/-- R35: the member set: the lanes of %exec whose bit in the guard register, negated with NEG, is set; all lanes of %exec when
unguarded. -/
def Obligations.MemberSet : Prop :=
  ∀ (t : Hart) (x : Args) (l : Nat), l < t.W → t.W ≤ 1024 →
    (laneIn (t.members x) l = true ↔
      laneIn t.exec l = true ∧ ((x.g = 0 ∨ laneIn (t.getK x.g.toNat).v l = true) ↔ x.neg = false))

/-- R97 to R100: SEL, MOV, MOVW and MOVH. The members of SEL are the lanes of %exec, and its guard selects. -/
def Obligations.SelectAndMove : Prop :=
  ∀ (x : Args) (s : State),
    let a := fun l => s.src x.ty x.a l
    let b := fun l => s.src x.ty x.b l
    let g := s.now.guardLanes x
    let gives := fun (i : Instr) (ls : List Nat) (y : Nat → Nat) =>
      completesWith i x s ls (fun l => extended x.ty (y l))
    (ready .sel x s = true → gives (.sel x) (lanesOf s.now.W s.now.exec) (fun l =>
      if (if kindOf x.d = .s then (s.now.exec &&& g) ≠ 0 else laneIn g l = true) then a l else b l)) ∧
    (ready .mov x s = true → gives (.mov x) (memberLanes s x) a) ∧
    (ready .movw x s = true → gives (.movw x) (memberLanes s x) a) ∧
    (ready .movh x s = true → gives (.movh x) (memberLanes s x) (fun l =>
      (match x.a with | .wide i => i.toNat % 2 ^ 32 | .imm i => (BitVec.signExtend 32 i).toNat | _ => 0) * 2 ^ 32 +
        s.src .b64 x.d l % 2 ^ 32))

/-- R102 to R106: logic, shifts, counts, bit fields and byte permutes. -/
def Obligations.LogicAndShift : Prop :=
  ∀ (x : Args) (s : State),
    let w := tyBits x.ty
    let a := fun l => s.src x.ty x.a l
    let b := fun l => s.src x.ty x.b l
    let d := fun l => s.src x.ty x.d l
    let p := fun o l => if twoOperand o x = true then d l else a l
    let q := fun o l => if twoOperand o x = true then a l else b l
    let pos := fun l => b l % 256
    let len := fun l => min (b l / 256 % 256) w
    let mk := fun l => (2 ^ len l - 1) * 2 ^ pos l % 2 ^ w
    let gives := fun (i : Instr) (y : Nat → Int) => completesWith i x s (memberLanes s x) (fun l => extended x.ty (y l))
    (ready .and x s = true → gives (.and x) (fun l => (p .and l &&& q .and l : Nat))) ∧
    (ready .or x s = true → gives (.or x) (fun l => (p .or l ||| q .or l : Nat))) ∧
    (ready .xor x s = true → gives (.xor x) (fun l => (p .xor l ^^^ q .xor l : Nat))) ∧
    (ready .andn x s = true → gives (.andn x) (fun l => (p .andn l &&& (2 ^ w - 1 - q .andn l) : Nat))) ∧
    (ready .not x s = true → gives (.not x) (fun l => (2 ^ w - 1 - a l : Nat))) ∧
    (ready .shl x s = true → gives (.shl x) (fun l => if w ≤ b l then 0 else (a l : Int) * 2 ^ b l)) ∧
    (ready .shr x s = true → gives (.shr x) (fun l => if w ≤ b l then 0 else (a l : Int) / 2 ^ b l)) ∧
    (ready .sra x s = true → gives (.sra x) (fun l => toSigned w (a l) / 2 ^ min (b l) (w - 1))) ∧
    (ready .rol x s = true → gives (.rol x) (fun l => (a l * 2 ^ (b l % w) + a l / 2 ^ (w - b l % w) : Nat))) ∧
    (ready .clz x s = true → ∃ n : Nat → Nat,
      (∀ l, n l ≤ w ∧ a l < 2 ^ (w - n l) ∧ (n l < w → 2 ^ (w - n l - 1) ≤ a l)) ∧ gives (.clz x) (fun l => n l)) ∧
    (ready .ctz x s = true → ∃ n : Nat → Nat,
      (∀ l, n l ≤ w ∧ (∀ i < n l, (a l).testBit i = false) ∧ (n l < w → (a l).testBit (n l) = true)) ∧
      gives (.ctz x) (fun l => n l)) ∧
    (ready .popc x s = true → gives (.popc x) (fun l => ((List.range w).filter (fun i => (a l).testBit i)).length)) ∧
    (ready .brev x s = true → ∃ y : Nat → Nat,
      (∀ l i, i < w → (y l).testBit i = (a l).testBit (w - 1 - i)) ∧ gives (.brev x) (fun l => y l)) ∧
    (ready .bfx x s = true → gives (.bfx x) (fun l =>
      let f : Int := interp x.ty (a l) / 2 ^ pos l % 2 ^ len l
      if tySigned x.ty = true ∧ 0 < len l ∧ 2 ^ (len l - 1) ≤ f then f - 2 ^ len l else f)) ∧
    (ready .bfi x s = true → gives (.bfi x) (fun l =>
      ((d l &&& (2 ^ w - 1 - mk l)) ||| ((a l * 2 ^ pos l) &&& mk l) : Nat))) ∧
    (ready .prmb x s = true → ∃ y : Nat → Nat,
      (∀ l i, i < w / 8 → y l / 256 ^ i % 256 =
        if (b l).testBit (4 * i + 3) then 0 else a l / 256 ^ (b l / 16 ^ i % 8 % (w / 8)) % 256) ∧
      gives (.prmb x) (fun l => y l))

/-- R96, R141: CMP and FCMP with a K destination write the bit of each member and keep every other bit; with an S
destination they write 1 or 0. -/
def Obligations.Compares : Prop :=
  ∀ (x : Args) (s : State),
    let a := fun l => interp x.ty (s.src x.ty x.a l)
    let b := fun l => interp x.ty (s.src x.ty x.b l)
    let cc : Nat → Bool := fun l => match x.sub.toNat with
      | 0 => decide (a l = b l) | 1 => decide (a l ≠ b l) | 2 => decide (a l < b l) | 3 => decide (a l ≤ b l)
      | 4 => decide (b l < a l) | _ => decide (b l ≤ a l)
    let f := fmtOf x.ty
    let value := fun o l => f.value (f.flushIn (envOf s.now.fpm x.rm.toNat) (s.fpSrc x.ty o l))
    let fc := fun l => cc8 x.sub.toNat (value x.a l) (value x.b l)
    let merged := fun (r : BitVec 4) (c : Nat → Bool) l =>
      if laneIn (s.now.members x) l = true then c l else laneIn (s.now.getK r.toNat).v l
    (ready .cmp x s = true → ∀ r e, x.d = .k r e → completesMask (.cmp x) s r.toNat 0 (merged r cc)) ∧
    (ready .cmp x s = true → ∀ r e m, x.d = .s r e m →
      completesWith (.cmp x) x s [0] (fun _ => if cc 0 = true then 1 else 0)) ∧
    (ready .fcmp x s = true → ∀ r e, x.d = .k r e →
      completesMask (.fcmp x) s r.toNat (flagsOf (memberLanes s x) (fun l => (0, (fc l).2))) (merged r (fun l => (fc l).1))) ∧
    (ready .fcmp x s = true → ∀ r e m, x.d = .s r e m →
      ∃ t : State, registerStep (.fcmp x) s t ∧ t.now.fflags = s.now.fflags ||| (fc 0).2 ∧
        resultIn x.ty x.d [0] (fun _ => if (fc 0).1 = true then 1 else 0) s.now t.now)

/-- R136, R138, R140, R142, R143, R144: floating-point arithmetic. Each result and its flags are what the operation of its
rule gives on the operand patterns, subnormal ones flushed under FTZIN (R124), element by element of a packed type (R137);
all flags of the lanes are set in %fflags together.
That FMIN, FMAX, FABS and FNEG leave a tiny result under FTZOUT is the model's reading (log entry 63). -/
def Obligations.FloatArithmetic : Prop :=
  ∀ (x : Args) (s : State),
    let f := fmtOf x.ty
    let env := envOf s.now.fpm x.rm.toNat
    let src := fun o l i => f.flushIn env (elemAt x.ty (s.fpSrc x.ty o l) i)
    let a := src x.a
    let b := src x.b
    let d := src x.d
    let gives := fun (i : Instr) (y : Nat → Nat → Res) =>
      completesFlags i x.ty x.d s (formLanes s.now x) (fun l => byElem x.ty (y l))
    (ready .fadd x s = true → gives (.fadd x) (fun l i => f.add env (f.value (a l i)) (f.value (b l i)))) ∧
    (ready .fsub x s = true → gives (.fsub x) (fun l i => f.add env (f.value (a l i)) (f.value (b l i)).negate)) ∧
    (ready .fmul x s = true → gives (.fmul x) (fun l i => f.mulAdd env (f.value (a l i)) (f.value (b l i)) none)) ∧
    (ready .ffma x s = true → gives (.ffma x) (fun l i =>
      f.mulAdd env (f.value (a l i)) (f.value (b l i)) (some (f.value (d l i))))) ∧
    (ready .fdiv x s = true → gives (.fdiv x) (fun l i => f.div env (f.value (a l i)) (f.value (b l i)))) ∧
    (ready .fsqrt x s = true → gives (.fsqrt x) (fun l i => f.sqrt env (f.value (a l i)))) ∧
    (ready .fmin x s = true → gives (.fmin x) (fun l i => f.minMax env false (x.sub == 1) (a l i) (b l i))) ∧
    (ready .fmax x s = true → gives (.fmax x) (fun l i => f.minMax env true (x.sub == 1) (a l i) (b l i))) ∧
    (ready .fabs x s = true → gives (.fabs x) (fun l i => (a l i % 2 ^ (f.eb + f.mb), 0))) ∧
    (ready .fneg x s = true → gives (.fneg x) (fun l i =>
      (a l i % 2 ^ (f.eb + f.mb) + (if (a l i).testBit (f.eb + f.mb) = true then 0 else 2 ^ (f.eb + f.mb)), 0))) ∧
    (ready .fclass x s = true → gives (.fclass x) (fun l i => (classOf f (a l i), 0))) ∧
    (ready .frnd x s = true → gives (.frnd x) (fun l i => f.integral env (a l i))) ∧
    (ready .fscl x s = true → completesFlags (.fscl x) x.ty x.d s (formLanes s.now x) (fun l =>
      f.scale env (f.flushIn env (s.fpSrc x.ty x.a l)) (toSigned 32 (s.src .b32 x.b l))))

/-- R149 to R155: CVT, CVTP, CVTBP, CVFBP, AMAX and QSCL.
The scale byte of CVTP without B, a BF16 immediate as a value of FP64, QSCL without a flush and with NX beside OF, and AMAX without a
member are the model's readings (log entries 60, 63, 64). -/
def Obligations.Conversions : Prop :=
  ∀ (x : Args) (s : State),
    let env := envOf s.now.fpm x.rm.toNat
    let m := s.now.members x
    let n := packCount x.ty
    let scale := fun l => scaleOf (if x.b = .none then 0x38 else s.src .b32 x.b l % 256)
    let aVal := fun (l i : Nat) => (s.now.getV (regOf x.a + i) l).v.toNat
    let element := fun l i => packOne env x.ty (scale l) (aVal l i)
    (ready .cvt x s = true → ∀ st, tyOfCode x.sub.toNat = some st →
      completesFlags (.cvt x) x.ty x.d s (formLanes s.now x) (fun l =>
        cvtOne env st x.ty (if tyFloat st = true then s.fpSrc st x.a l else s.src st x.a l))) ∧
    (ready .cvtp x s = true → x.sub = 0 →
      ∃ y : Nat → Res, completesFlags (.cvtp x) .b32 x.d s (memberLanes s x) y ∧
        ∀ l, (∀ i < n, (y l).1 / 2 ^ (packBits x.ty * i) % 2 ^ packBits x.ty = (element l i).1 % 2 ^ packBits x.ty) ∧
          (y l).2 = flagsOf (List.range n) (element l)) ∧
    (ready .cvtp x s = true → x.sub = 1 →
      let y := fun l i =>
        unpackOne env x.ty (scale l) (aVal l 0 / 2 ^ (packBits x.ty * i) % 2 ^ packBits x.ty)
      ∃ t : State, registerStep (.cvtp x) s t ∧ scalarsKept s.now t.now ∧ predicatesKept s.now t.now ∧
        (∀ r l, t.now.getV r l = if regOf x.d ≤ r ∧ r < regOf x.d + n ∧ l ∈ memberLanes s x
          then ⟨.full, BitVec.ofNat 32 (y l (r - regOf x.d)).1⟩ else s.now.getV r l) ∧
        t.now.fflags = s.now.fflags ||| (memberLanes s x).foldl (fun f l => f ||| flagsOf (List.range n) (y l)) 0) ∧
    (ready .cvtbp x s = true → unconverged s.now m = 0 →
      ∃ y : Nat → Nat, (∀ l k, k < 4 → l < s.now.W → y l / 256 ^ k % 256 =
          if 4 * (l % 32) + k < 16 * x.sub.toNat
          then planeByte (wordBytes s.now (regOf x.a) (l / 32)) (4 * (l % 32) + k) % 256 else 0) ∧
        completesWith (.cvtbp x) { x with ty := .b32 } s (lanesOf s.now.W (processed s.now.W m &&& s.now.live))
          (fun l => BitVec.ofNat 64 (y l % 2 ^ 32))) ∧
    (ready .cvfbp x s = true → unconverged s.now m = 0 →
      ∃ y : Nat → Nat, (∀ l k, k < 4 → l < s.now.W → y l / 256 ^ k % 256 =
          planeElem x.sub.toNat (wordBytes s.now (regOf x.a) (l / 32)) (4 * (l % 32) + k) % 256) ∧
        completesWith (.cvfbp x) { x with ty := .b32 } s (lanesOf s.now.W (processed s.now.W m &&& s.now.live))
          (fun l => BitVec.ofNat 64 (y l % 2 ^ 32))) ∧
    (ready .amax x s = true →
      let ls := if kindOf x.a = .v then memberLanes s x else [0]
      let y := BitVec.ofNat 32 ((ls.map (fun l => amaxSource env x.ty (s.fpSrc x.ty x.a l))).foldl amaxJoin
        (amaxJoin (s.amaxOf s.cur x.sub.toNat).toNat 0))
      ∃ t : State, exec (.amax x) s = .next t ∧ t.now.pc = s.now.pc + 12 ∧ memoryKept s t ∧
        t.amaxOf s.cur x.sub.toNat = y ∧ (∀ k, k ≠ x.sub.toNat → t.amaxOf s.cur k = s.amaxOf s.cur k) ∧
        t.now.fflags = s.now.fflags ∧ vectorsKept s.now t.now ∧ predicatesKept s.now t.now ∧
        ∀ r, t.now.getS r = if kindOf x.d = .s ∧ r = regOf x.d ∧ r ≠ 0 then ⟨.full, y.setWidth 64⟩ else s.now.getS r) ∧
    (ready .qscl x s = true → completesFlags (.qscl x) .b32 x.d s (formLanes s.now x) (fun _ =>
      qscl env x.ty (s.amaxOf s.cur x.sub.toNat).toNat))

/-- R135, R145, R179: the special functions and VTOS are long-latency producers: they complete at issue, D is EMPTY, and one
reply holds the values and flags that arrive later. The result is rounded to nearest even, whatever %fpm says. R69: a scalar D but
s0 is EMPTY, no other register differs, memory and %fflags are as before. -/
def Obligations.LongLatencyForms : Prop :=
  (∀ (x : Args) (s : State),
    let f := fmtOf x.ty
    let env := (envOf s.now.fpm x.rm.toNat).nearest
    let value := fun g l => f.special env g (f.flushIn env (s.fpSrc x.ty x.a l))
    let lanes := fun (y : Nat → Res) => (formLanes s.now x).map (fun l => (l, y l))
    let gives := fun (i : Instr) (rs : List (Nat × Res)) =>
      exec i s = .next ((s.unwait.later x.ty x.d rs).modNow Hart.advance)
    (ready .frcp x s = true → gives (.frcp x) (lanes (value .rcp))) ∧
    (ready .frsq x s = true → gives (.frsq x) (lanes (value .rsq))) ∧
    (ready .fexp2 x s = true → gives (.fexp2 x) (lanes (value .exp2))) ∧
    (ready .flog2 x s = true → gives (.flog2 x) (lanes (value .log2))) ∧
    (ready .fsin x s = true → gives (.fsin x) (lanes (value .sin))) ∧
    (ready .fcos x s = true → gives (.fcos x) (lanes (value .cos))) ∧
    (ready .ftanh x s = true → gives (.ftanh x) (lanes (value .tanh))) ∧
    (ready .vtos x s = true → gives (.vtos x)
      [(0, (if s.scalar x.b < s.now.W ∧ laneIn s.now.live (s.scalar x.b) = true
        then s.src x.ty x.a (s.scalar x.b) else 0, 0))])) ∧
  (∀ (s : State) (ty : Ty) (q : BitVec 8) (e : Bool) (m : BitVec 7) (y : Res),
    let t := s.later ty (.s q e m) [(0, y)]
    memoryKept s t ∧ t.now.pc = s.now.pc ∧ t.now.fflags = s.now.fflags ∧
    (∀ r, t.now.getS r = if r = q.toNat ∧ r ≠ 0 then ⟨.empty, 0⟩ else s.now.getS r) ∧
    vectorsKept s.now t.now ∧ predicatesKept s.now t.now ∧
    ∃ r, t.mem.replies = s.mem.replies ++ [r] ∧ r.id = s.nextId ∧ r.hart = s.cur ∧ r.flags = y.2 ∧
      r.regs = [(false, q.toNat, 0, extended ty (interp ty y.1), false)])

/-! ### Class 4: lanes and masks -/

/-- R176 to R181: the cross-lane forms.
That LRED with no member has no effect and FTZOUT does not act are the model's readings (log entries 28, 60). -/
def Obligations.LaneExchange : Prop :=
  ∀ (x : Args) (s : State),
    let m := s.now.members x
    let env := envOf s.now.fpm 0
    let ls := memberLanes s x
    (ready .shfl x s = true → completesWith (.shfl x) x s ls (fun l =>
      let j := shflSource s.now.W x.sub.toNat l (s.src .b32 x.b l)
      extended x.ty (if laneIn s.now.live j = true then s.src x.ty x.a j else 0))) ∧
    (ready .lred x s = true → ls ≠ [] ∨ kindOf x.d = .v →
      completesFlags (.lred x) x.ty x.d s (if kindOf x.d = .v then ls else [0]) (fun _ =>
        redTree env x.ty (x.sub.toNat % 8) (s.redValues env x))) ∧
    (ready .scan x s = true → completesFlags (.scan x) x.ty x.d s ls (fun l =>
      let before := (ls.filter (fun j => j < l)).length
      redTree env x.ty (x.sub.toNat % 8) ((s.redValues env x).take (if x.sub.toNat < 8 then before + 1 else before)))) ∧
    (ready .vote x s = true →
      let pred : Mask := match x.a with
        | .v r _ _ => maskOf (ls.filter (fun l => (s.now.getV r.toNat l).v ≠ 0))
        | o => s.now.readMask o &&& m
      let yes := if x.sub = 0 then pred = m else if x.sub = 1 then pred ≠ 0 else pred = m ∨ pred = 0
      (kindOf x.d = .s → completesWith (.vote x) x s [0] (fun _ =>
        if x.sub = 3 then BitVec.ofNat 64 (maskWord pred 0) else if yes then 1 else 0)) ∧
      (isMaskOp x.d = true → exec (.vote x) s = .next (s.unwait.modNow (fun t => (t.writeMask x.d
        (if x.sub = 3 then pred
         else if yes then t.readMask x.d ||| m else t.readMask x.d &&& ~~~m)).advance)))) ∧
    (ready .topk x s = true →
      let vs := ls.map (fun l => (l, s.src x.ty x.a l))
      ∃ v : Mask, (∀ l, l < s.now.W → s.now.W ≤ 1024 →
          (laneIn v l = true ↔ l ∈ ls ∧ topRank x.ty vs l (s.src x.ty x.a l) < s.scalar x.b)) ∧
        exec (.topk x) s = .next (s.unwait.modNow (fun t => (t.writeMask x.d v).advance))) ∧
    (ready .gtrn x s = true → unconverged s.now m = 0 →
      let w := tyBits x.ty
      let n := 256 / w
      ∃ t : State, registerStep (.gtrn x) s t ∧ scalarsKept s.now t.now ∧ predicatesKept s.now t.now ∧
        t.now.fflags = s.now.fflags ∧
        (∀ r l, ¬(regOf x.d ≤ r ∧ r < regOf x.d + 8 ∧ l < s.now.W ∧
          laneIn (processed s.now.W m &&& s.now.live) l = true) → t.now.getV r l = s.now.getV r l) ∧
        ∀ l i, l < s.now.W → i < 8 → laneIn (processed s.now.W m &&& s.now.live) l = true →
          t.now.getV (regOf x.d + i) l = ⟨.full, BitVec.ofNat 32 (sumN ((List.range (32 / w)).map (fun k =>
            gtrnElem s.now (regOf x.d) w (l - l % n + (i * (32 / w) + k)) (l % n) * 2 ^ (w * k))))⟩)

/-- R168, R173: the mask forms: what each writes to its destination; the pc moves on and nothing else changes. -/
def Obligations.MaskForms : Prop :=
  ∀ (x : Args) (s : State),
    let a := s.now.readMask x.a
    let b := s.now.readMask x.b
    let all := allLanes s.now.W
    let i := s.scalar x.b
    let gives := fun (c : Instr) (f : Hart → Hart) => exec c s = .next (s.unwait.modNow (fun t => (f t).advance))
    (ready .kand x s = true → gives (.kand x) (fun t => t.writeMask x.d (a &&& b))) ∧
    (ready .kor x s = true → gives (.kor x) (fun t => t.writeMask x.d (a ||| b))) ∧
    (ready .kxor x s = true → gives (.kxor x) (fun t => t.writeMask x.d (a ^^^ b))) ∧
    (ready .knot x s = true → gives (.knot x) (fun t => t.writeMask x.d (all &&& ~~~a))) ∧
    (ready .kmov x s = true → gives (.kmov x) (fun t =>
      if isMaskOp x.d = true ∧ isMaskOp x.a = true then t.writeMask x.d a
      else if isMaskOp x.a = true then
        t.setS (regOf x.d) (if i < (s.now.W + 63) / 64 then BitVec.ofNat 64 (maskWord a i) else 0)
      else if i < (s.now.W + 63) / 64 then
        t.writeMask x.d (putMaskWord s.now.W (s.now.readMask x.d) i (s.scalar x.a))
      else t)) ∧
    (ready .kpop x s = true → gives (.kpop x) (fun t => t.setS (regOf x.d) (BitVec.ofNat 64 (lanesOf s.now.W a).length))) ∧
    (ready .kffs x s = true → gives (.kffs x) (fun t => t.setS (regOf x.d)
      (match (lanesOf s.now.W a).head? with | some l => BitVec.ofNat 64 l | none => BitVec.allOnes 64))) ∧
    (ready .exec x s = true → gives (.exec x) (fun t => (t.setExec (t.exec &&& a)).writeMask x.d s.now.exec)) ∧
    (ready .execr x s = true → gives (.execr x) (fun t => t.setExec a))

/-- R76, R77: what a write of a mask destination does: %exec keeps within %live, %live only narrows and takes what it loses
out of %exec, and ends a team that has none left, %tmask ignores the write, k0 discards it, and a k register takes the bits below W. -/
def Obligations.MaskDestinations : Prop :=
  ∀ (t : Hart) (m : Mask),
    (t.writeMask (.sr 0x010) m).exec = m &&& t.live ∧ (t.writeMask (.sr 0x010) m).live = t.live ∧
    (t.writeMask (.sr 0x011) m).live = m &&& t.live ∧
    (t.writeMask (.sr 0x011) m).exec = t.exec &&& (m &&& t.live) ∧
    (m &&& t.live = 0 → (t.writeMask (.sr 0x011) m).sched.exited = true) ∧
    t.writeMask (.sr 0x044) m = t ∧
    ∀ r e q, (t.writeMask (.k r e) m).getK q = (if q = r.toNat ∧ q ≠ 0 then ⟨false, m &&& allLanes t.W⟩ else t.getK q) ∧
      (t.writeMask (.k r e) m).exec = t.exec ∧ (t.writeMask (.k r e) m).live = t.live

/-! ### Control flow -/

/-- R26, R159, R160, R172: branches, calls and jumps. A branch goes to PC + 12 * off, a call leaves PC + 12 in D, a jump goes to
the address in its register, and an untaken branch and NOP go on at PC + 12. -/
def Obligations.BranchesAndCalls : Prop :=
  ∀ (x : Args) (s : State),
    let pc := s.now.pc
    let off := match x.a with | .wide i => i.toInt | _ => immInt x.b
    let to_ := fun (off : Int) => pc + BitVec.ofInt 64 (12 * off)
    let a := interp x.ty (s.src x.ty x.a 0)
    let taken := match x.sub.toNat with
      | 0 => a = 0 | 1 => a ≠ 0 | 2 => a < 0 | 3 => a ≤ 0 | 4 => a > 0 | _ => a ≥ 0
    let gives := fun (i : Instr) (target : Word) =>
      ∃ t : State, exec i s = .next t ∧ onlyRunning s t ∧ onlyRegisters s.now t.now ∧ t.now.pc = target ∧
        t.now.fflags = s.now.fflags ∧ vectorsKept s.now t.now ∧ predicatesKept s.now t.now ∧
        ∀ r, t.now.getS r = match i with
          | .call _ => if r = regOf x.d ∧ r ≠ 0 then ⟨.full, pc + 12⟩ else s.now.getS r
          | _ => s.now.getS r
    (ready .br x s = true → gives (.br x) (to_ off)) ∧
    (ready .brc x s = true → taken → gives (.brc x) (to_ (immInt x.b))) ∧
    (ready .brc x s = true → ¬ taken → gives (.brc x) (pc + 12)) ∧
    (ready .brz x s = true → s.now.readMask x.a &&& s.now.exec = 0 → gives (.brz x) (to_ (immInt x.b))) ∧
    (ready .brz x s = true → s.now.readMask x.a &&& s.now.exec ≠ 0 → gives (.brz x) (pc + 12)) ∧
    (ready .call x s = true → gives (.call x) (to_ off)) ∧
    (ready .ret x s = true → (s.now.getS (regOf x.a)).v.toNat % 4 = 0 → gives (.ret x) (s.now.getS (regOf x.a)).v) ∧
    (ready .jmpi x s = true → (s.now.getS (regOf x.a)).v.toNat % 4 = 0 → gives (.jmpi x) (s.now.getS (regOf x.a)).v) ∧
    (ready .nop x s = true → gives (.nop x) (pc + 12)) ∧
    (ready .yield x s = true → gives (.yield x) (pc + 12)) ∧
    (ready .loop x s = true →
      let d := (s.now.getS (regOf x.d)).v - 1
      ∃ t : State, exec (.loop x) s = .next t ∧ memoryKept s t ∧ onlyRegisters s.now t.now ∧
        t.now.pc = (if d = 0 then pc + 12 else to_ (immInt x.b)) ∧
        vectorsKept s.now t.now ∧ predicatesKept s.now t.now ∧ t.now.fflags = s.now.fflags ∧
        ∀ r, t.now.getS r = if r = regOf x.d ∧ r ≠ 0 then ⟨.full, d⟩ else s.now.getS r)

/-- R163 to R165: the split stack. Where the pushed entries stay resident (at most 16 and within the limit), BRD pushes the
reconvergence entry and, on a split, the path that takes the branch, and goes on with the other lanes; JOIN goes on with the
first path that still has live lanes, or past the reconvergence point, where the entries that come back next translate. -/
def Obligations.Divergence : Prop :=
  ∀ (x : Args) (s : State),
    let t := s.now
    let take := t.exec &&& t.guardLanes x &&& t.readMask x.a
    let rest := t.exec &&& ~~~take
    let dest := t.pc + BitVec.ofInt 64 (12 * immInt x.b)
    let room := fun n => t.stack.length + n ≤ 16 ∧ t.depth + n ≤ t.place.sslimit
    let gives := fun (c : Instr) (m : Mask) (pc : Word) (st : List SEntry) =>
      ∃ u : State, exec c s = .next u ∧ onlyRunning s u ∧ u.now.exec = m ∧ u.now.pc = pc ∧ u.now.stack = st ∧
        u.now.live = t.live ∧ u.now.spilled = t.spilled ∧ scalarsKept t u.now ∧ vectorsKept t u.now ∧ predicatesKept t u.now
    (ready .brd x s = true → take ≠ 0 → rest ≠ 0 → room 2 →
      gives (.brd x) rest (t.pc + 12) (⟨true, dest, take⟩ :: ⟨false, 0, t.exec⟩ :: t.stack)) ∧
    (ready .brd x s = true → take ≠ 0 → rest = 0 → room 1 →
      gives (.brd x) t.exec dest (⟨false, 0, t.exec⟩ :: t.stack)) ∧
    (ready .brd x s = true → take = 0 → room 1 →
      gives (.brd x) t.exec (t.pc + 12) (⟨false, 0, t.exec⟩ :: t.stack)) ∧
    (ready .join x s = true → ∀ e r s2, t.stack = e :: r → s.unwait.refillReady s.cur r.length = .ok s2 →
      let joins := fun (pc : Word) =>
        ∃ u : State, exec (.join x) s = .next u ∧ (t.spilled = 0 → onlyRunning s u) ∧ u.mem = s2.mem ∧
          u.now.exec = e.mask &&& t.live ∧ u.now.pc = pc ∧ u.now.stack = r ∧ u.now.live = t.live ∧ u.now.spilled = t.spilled ∧
          scalarsKept t u.now ∧ vectorsKept t u.now ∧ predicatesKept t u.now
      (e.path = true → e.mask &&& t.live ≠ 0 → joins e.pc) ∧ (e.path = false → joins (t.pc + 12))) ∧
    (ready .join x s = true → t.depth = 0 → exec (.join x) s = .next (s.unwait.takeTrap s.cur 4 0 0 t.exec))

/-- R164: MBR goes on with its first group that is not empty, in the order of the lanes that match no offset and then of the
offsets, and pushes a path for each other group above the reconvergence entry. -/
def Obligations.MultiBranch : Prop :=
  ∀ (x : MbrArgs) (s : State), checkMbr x = none →
    s.now.sb.length ≤ 64 →
    (∀ i, i < 4 → ([x.o0, x.o1, x.o2, x.o3][i]?.getD 0) ≠ 0 → (s.now.getK (x.g.toNat + i)).empty = false) →
    ∀ m a others, mbrGroups s.now x = (m, a) :: others →
      s.now.stack.length + (others.length + 1) ≤ 16 → s.now.depth + (others.length + 1) ≤ s.now.place.sslimit →
      ∃ u : State, exec (.mbr x) s = .next u ∧ onlyRunning s u ∧ u.now.exec = m ∧ u.now.pc = a ∧
        u.now.stack = others.map (fun g => ⟨true, g.2, g.1⟩) ++ ⟨false, 0, s.now.exec⟩ :: s.now.stack ∧
        scalarsKept s.now u.now ∧ vectorsKept s.now u.now ∧ predicatesKept s.now u.now

/-- R166: EXIT takes the members out of %live and %exec; a team with no live lane left has exited. -/
def Obligations.Exits : Prop :=
  ∀ (x : Args) (s : State), ready .exit x s = true →
    let gone := s.now.members x
    let live := s.now.live &&& ~~~gone &&& s.now.live
    (live = 0 ∨ s.now.exec &&& live ≠ 0 ∨ s.now.depth = 0) →
    ∃ u : State, exec (.exit x) s = .next u ∧ onlyRunning s u ∧ u.now.live = live ∧ u.now.exec = s.now.exec &&& live ∧
      u.now.pc = s.now.pc + 12 ∧ (live = 0 → u.now.sched.exited = true) ∧
      scalarsKept s.now u.now ∧ vectorsKept s.now u.now ∧ predicatesKept s.now u.now

/-- R35, R43, R67, R70, R71: what comes before an instruction's effect. A form that does not act only ends the wait and moves the
pc on; a form that the checks trap or hold has none of its effect.
The order of the checks is the model's reading (log entries 24, 25). -/
def Obligations.IssueChecks : Prop :=
  ∀ (o : Op) (x : Args) (s : State) (f : State → Out), s.now.sb.length ≤ 64 →
    (∀ c, checkArgs o x = some c →
      issue o x s f = .next (s.takeTrap s.cur 1 0 (hostDie s.cur + c * 16) 0)) ∧
    (checkArgs o x = none → isHostThread s.cur = true → hostBarred o x = true →
      issue o x s f = .next (s.takeTrap s.cur 1 0 (1 + 9 * 16) 0)) ∧
    (checkArgs o x = none → (isHostThread s.cur = false ∨ hostBarred o x = false) → modeRank s.now.mode < modeRank o.row.mode →
      issue o x s f = .next (s.takeTrap s.cur 0x16 0 0 0)) ∧
    (checkArgs o x = none → (isHostThread s.cur = false ∨ hostBarred o x = false) → modeRank o.row.mode ≤ modeRank s.now.mode →
      ∀ n, srDenied s.now x = some n → issue o x s f = .next (s.takeTrap s.cur 0x16 0 n 0)) ∧
    (checkArgs o x = none → (isHostThread s.cur = false ∨ hostBarred o x = false) → modeRank o.row.mode ≤ modeRank s.now.mode →
      srDenied s.now x = none →
      (x.g ≠ 0 → (s.now.getK x.g.toNat).empty = true → o ≠ .sel →
        let empties := ((usesOf o x).filter (fun u => kindOf u.op != .v)).filter (fun u =>
          u.rd && !futureExempt o u s.now && lanesIn s.now u (relevant s o x u) RegSt.isEmpty != 0)
        ((∀ u ∈ empties, eOf u.op = false ∨ u.slot = 0 ∨ u.slot = 1) → ∃ t : State, issue o x s f = .next t ∧ t.now.pc = s.now.pc ∧
          t.now.sched.wait = waitOn s.now (usesOf o x) ∧ scalarsKept s.now t.now ∧ vectorsKept s.now t.now ∧
          predicatesKept s.now t.now ∧ memoryKept s t) ∧
        (∀ u, empties.head? = some u → eOf u.op = true → u.slot = 2 ∨ u.slot = 3 → issue o x s f =
          .next (s.takeTrap s.cur 2 0 (operandReport s.cur u.slot u.op) (lanesIn s.now u (relevant s o x u) RegSt.isEmpty)))) ∧
      ((x.g = 0 ∨ (s.now.getK x.g.toNat).empty = false ∨ o = .sel) → acts s.now o x = false →
        issue o x s f = .next (s.unwait.modNow Hart.advance)) ∧
      ((x.g = 0 ∨ (s.now.getK x.g.toNat).empty = false ∨ o = .sel) → acts s.now o x = true →
        ∀ u, (usesOf o x).find? (fun u => !allotted s.now (s.kernelOf s.cur) (u.named o x)) = some u →
          issue o x s f = .next (s.takeTrap s.cur 0x17 0 (operandReport s.cur u.slot u.op) 0)))

/-- R70, R71, R73, R75: of the sources in the order of R70, the first that is EMPTY in a relevant lane holds the instruction at issue,
or traps as EMPTY-READ when it is A or B with E = 1; with no source EMPTY, the first that is POISON traps, but for the data of a plain
store; then a destination that is EMPTY in a relevant lane holds it. While it is held, nothing but the wait itself changes.
That a wait is a next state, and the lanes of A that SHFL and VTOS name while B is EMPTY, are the model's readings (log entries 24,
86). -/
def Obligations.EmptyOperandWaits : Prop :=
  ∀ (o : Op) (x : Args) (s : State) (f : State → Out), s.now.sb.length ≤ 64 → 0 < s.now.W → s.now.W ≤ 1024 →
    checkArgs o x = none → (isHostThread s.cur = false ∨ hostBarred o x = false) →
    modeRank o.row.mode ≤ modeRank s.now.mode → srDenied s.now x = none →
    (x.g = 0 ∨ (s.now.getK x.g.toNat).empty = false ∨ o = .sel) → acts s.now o x = true →
    (∀ u ∈ usesOf o x, allotted s.now (s.kernelOf s.cur) (u.named o x) = true) →
    let has := fun (u : Use) (p : RegSt → Bool) => !regsIn (fun r => !p r) s.now u (relevant s o x u)
    let traps := fun (c : Nat) (u : Use) (p : RegSt → Bool) => issue o x s f =
      .next (s.takeTrap s.cur c 0 (operandReport s.cur u.slot u.op) (lanesIn s.now u (relevant s o x u) p))
    let waits := ∃ t : State, issue o x s f = .next t ∧ onlyRunning s t ∧ t.now = { s.now with sched := t.now.sched } ∧
      t.now.sched.wait = waitOn s.now (usesOf o x) ∧ t.now.sched.waitTick = s.tick
    let empty := fun u => u.rd && !futureExempt o u s.now && has u RegSt.isEmpty
    let poison := fun u => u.rd && !(o == .st && u.slot == 1) && has u (· == .poison)
    (∀ u, (usesOf o x).find? empty = some u →
      ((eOf u.op = true ∧ (u.slot = 2 ∨ u.slot = 3)) → traps 2 u RegSt.isEmpty) ∧
      (¬ (eOf u.op = true ∧ (u.slot = 2 ∨ u.slot = 3)) → waits)) ∧
    ((usesOf o x).find? empty = none → ∀ u, (usesOf o x).find? poison = some u → traps 3 u (· == .poison)) ∧
    ((usesOf o x).find? empty = none → (usesOf o x).find? poison = none →
      (∃ u ∈ usesOf o x, u.wr = true ∧ has u RegSt.isEmpty = true) → waits)

/-! ### Traps -/

/-- R186: routing. A trap never goes below the mode that raised it; FW keeps its own; a cause that %hdeleg does not delegate, and
PARTITION, go to HOST or above; inside a team handler, or with %tvec disabled, no trap goes to the team. -/
def Obligations.TrapRouting : Prop :=
  ∀ (t : Hart) (c : Nat),
    modeRank t.mode ≤ targetRank (trapTarget t c) ∧
    (t.mode = .fw → trapTarget t c = .fw) ∧
    (t.mode ≠ .fw → (t.sup.hdeleg.getLsbD c = false ∨ c = 0x14) → trapTarget t c = .host) ∧
    (t.mode ≠ .fw → t.sup.hdeleg.getLsbD c = true → c ≠ 0x14 → t.mode ≠ .host →
      (t.sup.gdeleg.getLsbD c = false ∨ t.mode ≠ .user ∨ t.trap.tstatus.getLsbD 2 = true ∨
        t.trap.tvec.getLsbD 20 = false ∨ teamDelegable c = false ∨ t.place.codeLen ≤ t.trap.tvec.toNat % 2 ^ 20) →
      trapTarget t c = .guest) ∧
    (t.mode = .user → t.sup.hdeleg.getLsbD c = true → c ≠ 0x14 → t.sup.gdeleg.getLsbD c = true →
      t.trap.tstatus.getLsbD 2 = false → t.trap.tvec.getLsbD 20 = true → teamDelegable c = true →
      t.trap.tvec.toNat % 2 ^ 20 < t.place.codeLen → trapTarget t c = .team)

/-- R187: what delivery writes and what it leaves. -/
def Obligations.TrapDelivery : Prop :=
  ∀ (s : State) (h c taddr tinfo : Nat) (tmask : Mask),
    let t := s.hart h
    let u := (s.takeTrap h c taddr tinfo tmask).hart h
    let restart := if c = 0x12 ∨ c = 0x11 then t.pc + 12 else t.pc
    let saved := BitVec.ofNat 64 (putBits t.trap.tstatus.toNat 0 2 (modeRank t.mode))
    let reports := u.trap.tcause = BitVec.ofNat 8 c ∧ u.trap.tpc = t.pc ∧ u.trap.taddr = BitVec.ofNat 64 taddr ∧
      u.trap.tinfo = BitVec.ofNat 64 tinfo ∧ u.trap.tmask = tmask ∧ u.trap.tvec = t.trap.tvec
    let kept := u.exec = t.exec ∧ u.live = t.live ∧ u.k = t.k ∧ u.s = t.s ∧ u.v = t.v ∧ u.stack = t.stack ∧ u.sb = t.sb ∧
      u.fpm = t.fpm ∧ u.fflags = t.fflags ∧ (∀ j, j ≠ h → (s.takeTrap h c taddr tinfo tmask).hart j = s.hart j) ∧
      memoryKept s (s.takeTrap h c taddr tinfo tmask)
    (trapTarget t c = .team → reports ∧ kept ∧ u.mode = t.mode ∧ u.trap.tstatus = saved ||| 4 ∧ u.sup = t.sup ∧
      u.pc = BitVec.ofNat 64 (t.place.codeStart + 12 * (t.trap.tvec.toNat % 2 ^ 20))) ∧
    (trapTarget t c = .guest → s.handlerOk h .guest t.sup.gtvec = true → reports ∧ kept ∧ u.mode = .guest ∧
      u.trap.tstatus = saved ∧ u.sup = { t.sup with gepc := restart } ∧ u.pc = t.sup.gtvec) ∧
    (trapTarget t c = .host → s.crewed h = false → s.handlerOk h .host t.sup.htvec = true → reports ∧ kept ∧
      u.mode = .host ∧ u.trap.tstatus = saved ∧ u.sup = { t.sup with hepc := restart } ∧ u.pc = t.sup.htvec) ∧
    (trapTarget t c = .fw → s.crewed h = false → reports ∧ kept ∧ u.mode = .fw ∧ u.trap.tstatus = saved ∧ u.sup = t.sup ∧
      u.pc = t.sup.fwtvec)

/-- R172, R198: BRK raises BREAKPOINT and TRAP raises SYSCALL, with their code in %tinfo. -/
def Obligations.SystemCalls : Prop :=
  ∀ (x : Args) (s : State),
    let code := match x.a with | .imm i => i.toNat | _ => 0
    (ready .brk x s = true → exec (.brk x) s = .next (s.unwait.takeTrap s.cur 0x11 0 code 0)) ∧
    (ready .trap x s = true → exec (.trap x) s = .next (s.unwait.takeTrap s.cur 0x12 0 code 0))

/-- R195: TRET returns to the saved pc of its mode, in the mode %tstatus names, and changes nothing else; where that mode ranks above
the current one it is ILLEGAL with check 0xA. R187: so a guest handler that only executes TRET goes back to the restart address, in
the mode of the trap. -/
def Obligations.TrapReturn : Prop :=
  (∀ (x : Args) (s : State), ready .tret x s = true →
    let t := s.now
    let m := t.trap.tstatus.toNat % 4
    (modeRank t.mode < m → exec (.tret x) s = .next (s.unwait.takeTrap s.cur 1 0 (hostDie s.cur + 0xA * 16) 0)) ∧
    (m ≤ modeRank t.mode → ∃ u : State, exec (.tret x) s = .next u ∧ onlyRunning s u ∧
      u.now = { t with pc := u.now.pc, mode := u.now.mode, sched := u.now.sched } ∧ modeRank u.now.mode = m ∧
      (t.mode = .guest → u.now.pc = t.sup.gepc) ∧ (t.mode = .host → u.now.pc = t.sup.hepc) ∧
      (t.mode = .fw → u.now.pc = if t.trap.tcause = 0x11 ∨ t.trap.tcause = 0x12 then t.trap.tpc + 12 else t.trap.tpc))) ∧
  (∀ (s : State) (h c taddr tinfo : Nat) (tmask : Mask),
    let t := s.hart h
    trapTarget t c = .guest → s.handlerOk h .guest t.sup.gtvec = true →
    let u := ((s.takeTrap h c taddr tinfo tmask).hart h).returnTo
    u.pc = (if c = 0x12 ∨ c = 0x11 then t.pc + 12 else t.pc) ∧ u.mode = t.mode ∧
      u.trap.tstatus.toNat % 4 = modeRank t.mode ∧ u.exec = t.exec ∧ u.s = t.s ∧ u.v = t.v ∧ u.k = t.k)

/-! ### Special registers and the host forms -/

/-- R123, R197: SRR gives the register to D; SRW writes it by its access: RW registers take the value in the bits they have, RO
registers ignore it, HW registers are ILLEGAL.
That the reserved bits of %kvdir keep what is written is the model's reading (log entry 43). -/
def Obligations.SpecialRegisters : Prop :=
  ∀ (x : Args) (s : State),
    let a := BitVec.ofNat 64 (s.scalar x.a)
    let gives := fun (f : Hart → Hart) => exec (.srw x) s = .next (s.unwait.modNow (fun t => (f t).advance))
    (ready .srr x s = true → ∃ t : State, registerStep (.srr x) s t ∧ t.now.fflags = s.now.fflags ∧
      vectorsKept s.now t.now ∧ predicatesKept s.now t.now ∧
      ∀ r, t.now.getS r = if kindOf x.d = .s ∧ r = regOf x.d ∧ r ≠ 0 then ⟨.full, s.readSr s.cur (srOf x.a)⟩
        else s.now.getS r) ∧
    (ready .srw x s = true →
      (x.d = .sr 0x012 → gives (fun t => { t with fpm :=
        if a.toNat % 8 = 0 ∨ a.toNat % 8 = 7 then BitVec.ofNat 7 (a.toNat - a.toNat % 8 + 1) else BitVec.ofNat 7 a.toNat })) ∧
      (x.d = .sr 0x013 → gives (fun t => { t with fflags := BitVec.ofNat 5 a.toNat })) ∧
      (x.d = .sr 0x045 → gives (fun t => { t with trap := { t.trap with tvec := BitVec.ofNat 64 (a.toNat % 2 ^ 21) } })) ∧
      (x.d = .sr 0x046 → gives (fun t => { t with trap := { t.trap with tstatus := BitVec.ofNat 64 (a.toNat % 16) } })) ∧
      (x.d = .sr 0x100 → gives (fun t => { t with sup := { t.sup with gtvec := a } })) ∧
      (x.d = .sr 0x101 → gives (fun t => { t with sup := { t.sup with gdeleg := BitVec.ofNat 32 a.toNat } })) ∧
      (x.d = .sr 0x102 → gives (fun t => { t with sup := { t.sup with gepc := a } })) ∧
      (x.d = .sr 0x103 → gives (fun t => { t with sup := { t.sup with gscratch := a } })) ∧
      (x.d = .sr 0x104 → gives (fun t => { t with sup := { t.sup with s1ptb := a } })) ∧
      (x.d = .sr 0x200 → gives (fun t => { t with sup := { t.sup with htvec := a } })) ∧
      (x.d = .sr 0x201 → gives (fun t => { t with sup := { t.sup with hdeleg := BitVec.ofNat 32 a.toNat } })) ∧
      (x.d = .sr 0x202 → gives (fun t => { t with sup := { t.sup with hepc := a } })) ∧
      (x.d = .sr 0x203 → gives (fun t => { t with sup := { t.sup with hscratch := a } })) ∧
      (x.d = .sr 0x204 → gives (fun t => { t with sup := { t.sup with s2ptb := a } })) ∧
      (x.d = .sr 0x300 → gives (fun t => { t with sup := { t.sup with fwtvec := a } })) ∧
      (x.d = .sr 0x301 → gives (fun t => { t with sup := { t.sup with fwscratch := a } })) ∧
      (∀ n, x.d = .sr n → n ∈ ([1, 2, 3, 4, 5, 6, 7, 8, 9, 10, 11, 12, 13, 14, 0x17, 0x30, 0x31, 0x40, 0x41, 0x42, 0x43, 0x60,
        0x61] : List (BitVec 10)) → gives (fun t => t)) ∧
      (x.d = .sr 0x014 → exec (.srw x) s = .next ((match s.crewOf s.cur with
        | some c => s.unwait.modCrew c.key (fun k => k.clearTags a.toNat)
        | none => s.unwait).modNow Hart.advance)) ∧
      (∀ n, n < 8 → x.d = .sr (BitVec.ofNat 10 (0x20 + n)) →
        exec (.srw x) s = .next ((s.unwait.setAmax s.cur n (BitVec.ofNat 32 a.toNat)).modNow Hart.advance)) ∧
      (x.d = .sr 0x050 → s.now.mode ≠ .user → exec (.srw x) s =
        .next ((s.unwait.modHub (fun u => { u with kvdir := sset 0 u.kvdir s.now.guest a })).modNow Hart.advance))) ∧
    (x.d = .sr 0x050 → s.now.mode = .user → checkArgs .srw x = none →
      exec (.srw x) s = .next (s.takeTrap s.cur 0x16 0 0x050 0)) ∧
    ((x.d = .sr 0x015 ∨ x.d = .sr 0x016) → checkArgs .srw x = none →
      exec (.srw x) s = .next (s.takeTrap s.cur 1 0 (hostDie s.cur + 8 * 16) 0))

/-- R199: HALT stops a service core past the instruction until it is restarted; WFI waits past the instruction while nothing is
pending for the thread.
The pc that a HALT leaves is the model's reading (log entry 50). -/
def Obligations.HaltAndWait : Prop :=
  ∀ (x : Args) (s : State),
    (ready .halt x s = true → ∃ t : State, exec (.halt x) s = .next t ∧ onlyRunning s t ∧ t.now.pc = s.now.pc + 12 ∧
      t.now.sched.halted = true ∧ onlyRegisters s.now t.now ∧ scalarsKept s.now t.now ∧ vectorsKept s.now t.now ∧
      predicatesKept s.now t.now ∧ t.now.fflags = s.now.fflags) ∧
    (ready .wfi x s = true → s.notePending s.cur = none → s.eventPending s.cur = none →
      ∃ t : State, exec (.wfi x) s = .next t ∧ onlyRunning s t ∧ t.now.pc = s.now.pc + 12 ∧ t.now.sched.wfi = true ∧
        onlyRegisters s.now t.now ∧ scalarsKept s.now t.now ∧ vectorsKept s.now t.now ∧ predicatesKept s.now t.now ∧
        t.now.fflags = s.now.fflags)

/-! ### Memory -/

/-- R3, R271, R420, R463: a write at coherent points changes the bytes it names, on both frames of a line that a migration has
copied, and no other byte; reading them back gives what was written; the memory keeps its canonical form. -/
def Obligations.CoherentWrite : Prop :=
  ∀ (s : State) (by_ : Nat) (l : List (Nat × Byte)) (poison : List Nat),
    let t := s.cohPoke by_ l poison
    let alive := fun a => s.homeFailed a = false
    (Memory.wf s.mem.cells = true → Memory.wf t.mem.cells = true) ∧
    t.harts = s.harts ∧ t.cores = s.cores ∧ t.hub = s.hub ∧ t.run = s.run ∧ t.pkg = s.pkg ∧
    (∀ a, (∀ p ∈ l, a ∉ s.writeAddrs p.1) → t.byte a = s.byte a) ∧
    ((l.map (fun p => s.writeAddrs p.1)).flatten.Nodup → ∀ p ∈ l, alive p.1 →
      (∀ a ∈ s.writeAddrs p.1, t.byte a = p.2) ∧ t.byte (t.readAddr p.1) = p.2)

/-- R409, R429: what the checks of an access change. The registers and the pc stay. Each lane's bytes are those of its references. A
byte of memory differs only as the accessed and dirty bits of leaves are set and as this package takes POOL pages that it reaches; an
accessed bit is set and never cleared, in both frames of a line that a migration has copied, from the byte that a read finds there.
What taking a page does besides writing its ownership word is the model's reading (log entry 53). -/
def Obligations.AccessChecks : Prop :=
  (∀ (o : Op) (x : Args) (s t : State) (refs : List LaneRef), access o x s = some (refs, t) →
    let lanes := (s.laneAddrs o x (accessSize o x)).map Prod.fst
    t.cur = s.cur ∧ registersKept s.now t.now ∧ onlyRegisters s.now t.now ∧ t.now.pc = s.now.pc ∧
    (∀ h, h ≠ s.cur → t.hart h = s.hart h) ∧ t.mem.reqs.map (fun q => { q with released := false }) = s.mem.reqs.map (fun q => { q with released := false }) ∧
    t.mem.loads = s.mem.loads ∧ t.mem.replies = s.mem.replies ∧
    (∀ r ∈ refs, r.lane ∈ lanes ∧ r.vas.length = r.pas.length) ∧
    (∀ l ∈ lanes, sumN ((refs.filter (fun r => r.lane == l)).map (fun r => r.vas.length)) = (wantOf o x).size) ∧
    ∃ l : List (Sum (Nat × Bool) Nat),
      (∀ p, Sum.inr p ∈ l → ∃ r ∈ refs, p = poolPage r.pa ∧ tierOf r.pa = 2 ∧ r.keep = false ∧ ownState (s.ownWord p) = 0) ∧
      ∀ a, t.byte a = (l.foldl (fun st q => match q with
        | .inl (leaf, d) => st.setAD leaf d
        | .inr p => (st.takeOwn p).2) s).byte a) ∧
  (∀ (s : State) (leaf : Nat) (d : Bool) (a : Nat),
    (a ∉ s.writeAddrs leaf → (s.setAD leaf d).byte a = s.byte a) ∧
    (a ∈ s.writeAddrs leaf → (s.setAD leaf d).byte a = s.byte a ∨
      (s.setAD leaf d).byte a = (s.byte (s.readAddr leaf) ||| 0x40 ||| if d then 0x80 else 0)))

/-- R72, R244 to R246: LD issues: D is EMPTY in its lanes, and one load is under way whose sectors hold the bytes of every lane,
those that the store buffer supplies already taken. Nothing is written to memory. -/
def Obligations.PlainLoads : Prop :=
  ∀ (x : Args) (s t0 : State) (refs : List LaneRef), memReady .ld x s = true → access .ld x s = some (refs, t0) →
    let space := x.sub.toNat % 4
    let device := space ≠ 1 ∧ refs.any LaneRef.io = true
    let ps := (refs.map (fun r => (lanePieces x (perLane x) r (fun _ => none)).map (fun p => (r, p)))).flatten
    let taken := fun va => if space = 1 then some (t0.scratchByte s.cur va).1
      else if device then none else sbByte s.now.sb va
    ¬ (device ∧ (s.now.sb.any SbEntry.io = true ∨ t0.ioBusy s.cur = true)) →
    t0.granulesHeld (coreOf s.cur) + granules (sectorsOf (space == 1) ps) ≤ 4096 →
    ∃ t : State, exec (.ld x) s = .next t ∧ t.now.pc = s.now.pc + 12 ∧ (∀ a, t.byte a = t0.byte a) ∧ t.now.fflags = s.now.fflags ∧
      emptied x (refs.map LaneRef.lane) s.now t.now ∧ t.now.sb = s.now.sb ∧
      (refs = [] → t.mem.loads = s.mem.loads) ∧
      (refs ≠ [] → ∃ ld, t.mem.loads = s.mem.loads ++ [ld] ∧ ld.hart = s.cur ∧ ld.scalar = !perLane x ∧
        ∀ p, (∃ q ∈ ld.sectors, p ∈ q.pieces) ↔ ∃ r ∈ refs, p ∈ lanePieces x (perLane x) r taken)

/-- R222, R244, R247, R248: ST and STS put the bytes of D into the store buffer, whose youngest bytes they are from then on, and
ST of space SCRATCH writes the crew's scratchpad; no register changes, and no byte of memory.
A store that alone exceeds the buffer issues when it is empty (log entry 30). -/
def Obligations.PlainStores : Prop :=
  ∀ (x : Args) (s t0 : State) (refs : List LaneRef),
    let data := fun (o : Op) => (refs.map (fun r => r.vas.zip (r.slice (s.storeData x (accessSize o x) r.lane).1))).flatten
    let stored := fun o a => ((data o).reverse.find? (fun p => p.1 == a)).map Prod.snd
    let made := sumN (refs.map (fun r => ((r.vas.map (· / 128)).eraseDups).length))
    let buffered := fun (o : Op) (i : Instr) => s.now.W ≤ 1024 → s.now.sb = [] ∨ s.now.sb.length + made ≤ 64 →
      ∃ t : State, exec i s = .next t ∧ t.now.pc = s.now.pc + 12 ∧ t.mem = t0.mem ∧ registersKept s.now t.now ∧
        ∀ a, sbByte t.now.sb a = match stored o a with | some b => some b | none => sbByte s.now.sb a
    (memReady .st x s = true → access .st x s = some (refs, t0) → x.sub.toNat % 4 ≠ 1 → buffered .st (.st x)) ∧
    (memReady .sts x s = true → access .sts x s = some (refs, t0) → buffered .sts (.sts x)) ∧
    (memReady .st x s = true → access .st x s = some (refs, t0) → x.sub.toNat % 4 = 1 → (s.crewOf s.cur).isSome = true →
      ∃ t : State, exec (.st x) s = .next t ∧ t.now.pc = s.now.pc + 12 ∧ t.mem = t0.mem ∧ registersKept s.now t.now ∧
        ∀ a, (t.scratchByte s.cur a).1 = (stored .st a).getD (s.scratchByte s.cur a).1)

/-- R250 to R254, R262 to R264, R267: strong loads, polling loads, atomics and reductions issue and complete: the accesses of their
lanes are sent, an LDP or CAS whose path has siblings then waits for its replies, and the pc moves on. Where every access is
performed at the home or at the die's agent, and no scoped cache of the core holds dirty bytes, D is EMPTY in its lanes, each lane's
access waits there as the form asks, an atomic counts in %uasc from issue, and no byte of memory changes. -/
def Obligations.StrongForms : Prop :=
  ∀ (x : Args) (s t0 : State) (refs : List LaneRef),
    let core := coreOf s.cur
    let scope := x.rm.toNat
    let order := x.sub.toNat
    let reg := if x.d = .none ∨ (kindOf x.d = .s ∧ regOf x.d = 0) then none else some (regOf x.d)
    let old := fun l => ofBytes (s.storeData x (accessSize .ldp x) l).1
    let expect := fun l => ofBytes (s.storeData x (accessSize .cas x) l).1
    let ru := fun (r : LaneRef) => r.ru && decide (2 ≤ scope) && !r.uncached
    let issues := fun (o : Op) => memReady o x s = true ∧ access o x s = some (refs, t0) ∧ t0.strongWaits refs order scope = false
    let counts := fun (o : Op) => issues o ∧ s.now.uasc + refs.length ≤ 65535
    let loads := fun (o : Op) (kind : Nat → ReqKind) =>
      (t0.modNow (fun t => t.markEmpty x.d (dSpan x) (refs.map LaneRef.lane))).sendReqs x (accessSize o x) order scope refs (perLane x)
        (some (regOf x.d)) kind (fun _ => false)
    let atomics := fun (o : Op) (d : Option Nat) (kind : Nat → ReqKind) (f : LaneRef → Bool) =>
      t0.sendAtomic x (accessSize o x) order refs d kind f
    let held := fun (u : State) => if refs = [] then u else u.modNow (fun t => t.awaitDemotion t0.nextId)
    let gives := fun (o : Op) (i : Instr) (u : State) (d : Option Nat) (n : Nat) (kind : Nat → ReqKind) =>
      ∃ t : State, t = u.modNow Hart.advance ∧ exec i s = .next t ∧
        (nothingDirty t0 core → (∀ r ∈ refs, r.level core scope = 3 ∨ (o = .redu ∧ ru r = true)) →
          t.now.pc = s.now.pc + 12 ∧ t.now.fflags = s.now.fflags ∧ t.now.uasc = s.now.uasc + n ∧
          (d.isSome = true → emptied x (refs.map LaneRef.lane) s.now t.now) ∧ (d = none → registersKept s.now t.now) ∧
          (∀ a, t.byte a = t0.byte a) ∧
          ∀ r ∈ refs, ∃ q ∈ t.mem.reqs, q.hart = s.cur ∧ q.pa = r.pa ∧ q.va = r.va ∧ q.size = accessSize o x ∧
            q.kind = kind r.lane ∧ q.lane = (if perLane x = true then some r.lane else none) ∧ q.reg = d ∧ q.order = order ∧
            q.scope = scope ∧ q.level = 3)
    (issues .lds → gives .lds (.lds x) (loads .lds (fun _ => .load)) (some (regOf x.d)) 0 (fun _ => .load)) ∧
    (issues .ldp → gives .ldp (.ldp x) (held (loads .ldp (fun l => .ldp (old l)))) (some (regOf x.d)) 0 (fun l => .ldp (old l))) ∧
    (counts .amo →
      let kind := fun l => .amo (modOf x.b % 16) x.ty (s.src x.ty x.b l)
      gives .amo (.amo x) (atomics .amo reg kind (fun _ => false)) reg refs.length kind) ∧
    (counts .cas →
      let kind := fun l => .cas (expect l) (s.casNew x l)
      gives .cas (.cas x) (held (atomics .cas reg kind (fun _ => false))) reg refs.length kind) ∧
    (counts .redu →
      let kind := fun l => .redu (modOf x.b % 16) x.ty (s.src x.ty x.b l)
      gives .redu (.redu x) (atomics .redu none kind ru) none refs.length kind)

/-- R28, R160, R191, R243: an access at an address that is not a multiple of its size raises ALIGNMENT with the first lane's
address and the size, and no lane accesses; RET and JMPI to an address that is not a multiple of 4 raise it with that address and
size 4.
That a form without lanes reports lane 0 in %tmask is the model's reading (log entry 26). -/
def Obligations.MisalignedAccess : Prop :=
  ∀ (x : Args) (s : State),
    let traps := fun (o : Op) (i : Instr) =>
      memReady o x s = true → ∀ l a rest, s.laneAddrs o x (accessSize o x) = (l, a) :: rest →
        (∀ p ∈ (l, a) :: rest, p.2 % accessSize o x ≠ 0) →
        exec i s = .next (s.unwait.takeTrap s.cur 7 a (accessSize o x) (maskOf (l :: rest.map Prod.fst)))
    traps .ld (.ld x) ∧ traps .st (.st x) ∧ traps .lds (.lds x) ∧ traps .sts (.sts x) ∧ traps .ldp (.ldp x) ∧
    traps .amo (.amo x) ∧ traps .cas (.cas x) ∧ traps .redu (.redu x) ∧
    ((s.now.getS (regOf x.a)).v.toNat % 4 ≠ 0 →
      (ready .ret x s = true →
        exec (.ret x) s = .next (s.unwait.takeTrap s.cur 7 (s.now.getS (regOf x.a)).v.toNat 4 1)) ∧
      (ready .jmpi x s = true →
        exec (.jmpi x) s = .next (s.unwait.takeTrap s.cur 7 (s.now.getS (regOf x.a)).v.toNat 4 1)))

/-- R255 to R257, R284: PREF changes no register and only sends requests that fill none; CCTL and FENCE do the cache actions of their scope, a FENCE.SC with its stamp
between them, and change no register.
That a FENCE waits for earlier accesses whatever its order is the model's reading (log entry 71). -/
def Obligations.CacheForms : Prop :=
  ∀ (x : Args) (s : State),
    let core := coreOf s.cur
    let op := x.sub.toNat
    let scope := x.rm.toNat
    (memReady .pref x s = true → ∃ t : State, exec (.pref x) s = .next t ∧ t.now.pc = s.now.pc + 12 ∧ registersKept s.now t.now ∧
      onlyRegisters s.now { t.now with prefetch := s.now.prefetch, fetched := s.now.fetched } ∧
      t.mem.reqs = s.mem.reqs ∧ ∃ l, t.mem.loads = s.mem.loads ++ l ∧ ∀ k ∈ l, k.prefetch = true ∧ k.hart = s.cur) ∧
    (memReady .cctl x s = true → s.now.sb = [] → x.a = .none → x.b = .none →
      (2 ≤ scope → s.backWaits core (fun _ => true) = false) →
      exec (.cctl x) s = .next ((s.unwait.cacheControl core op scope (fun _ => true)).modNow Hart.advance)) ∧
    (memReady .cctl x s = true → s.now.sb = [] → (x.a ≠ .none ∨ x.b ≠ .none) →
      ∀ refs t0, access .cctl x s = some (refs, t0) →
        let sel := fun a => refs.any (fun r => r.pa / 128 == a / 128)
        (2 ≤ scope → t0.backWaits core sel = false) →
        exec (.cctl x) s = .next ((t0.cacheControl core op scope sel).modNow Hart.advance)) ∧
    (memReady .fence x s = true → (isRel op = true → s.now.sb = [] ∧ s.now.uasc = 0) →
      s.earlierOut s.cur s.nextId = false →
      (op = 4 → scope = 4 → s.pkg.unreachable.contains s.pkg.seqPkg = false) →
      (isRel op = true → 2 ≤ scope → s.backWaits core (fun _ => true) = false) →
      let s1 := if isRel op = true then s.unwait.release core scope else s.unwait
      let s2 := if op = 4 then s1.fenceStamp core scope else s1
      let s3 := if isAcq op = true then s2.acquire core scope else s2
      exec (.fence x) s = .next (s3.modNow Hart.advance) ∧ registersKept s.now (s3.modNow Hart.advance).now)

/-- R228, R229, R256: what the actions on the scoped caches leave: a write-back no dirty byte, an invalidation no clean byte and
every dirty one, both together no byte of the lines chosen; a release no dirty byte on the path, an acquire no clean one. -/
def Obligations.ScopedCaches : Prop :=
  ∀ (s : State) (core scope : Nat) (sel : Nat → Bool), core < 192 → 1 ≤ scope →
    let l1 := fun (t : State) => (t.core core).l1
    let cl := fun (t : State) => t.cluster (clusterOf core)
    let back := s.cacheControl core 0 scope sel
    let inv := s.cacheControl core 1 scope sel
    let both := s.cacheControl core 2 scope sel
    (l1 back).dirty sel = [] ∧ (2 ≤ scope → (cl back).dirty sel = []) ∧
    (∀ a b, sel a = true → (l1 inv).get a = some b → b.dirty = true) ∧
    (∀ a b, (l1 s).get a = some b → b.dirty = true → (l1 inv).get a = some b) ∧ (l1 inv).dirty sel = (l1 s).dirty sel ∧
    (∀ a, sel a = true → (l1 both).get a = none ∧ (2 ≤ scope → (cl both).get a = none)) ∧
    (l1 (s.release core scope)).dirty (fun _ => true) = [] ∧
    (2 ≤ scope → (cl (s.release core scope)).dirty (fun _ => true) = []) ∧
    (∀ a b, (l1 (s.acquire core scope)).get a = some b → b.dirty = true) ∧
    (2 ≤ scope → ∀ a b, (cl (s.acquire core scope)).get a = some b → b.dirty = true)

/-- R266, R304 to R308: the keeping forms send their one access to the home of the local replica; the registers they fill are EMPTY
until it answers. -/
def Obligations.KeepingForms : Prop :=
  ∀ (x : Args) (s t0 : State) (refs : List LaneRef),
    let reg := fun r => (s.now.getS r).v
    let gives := fun (o : Op) (i : Instr) (n order : Nat) (kind : ReqKind) =>
      memReady o x s = true → access o x s = some (refs, t0) → t0.strongWaits refs order x.rm.toNat = false →
        ∃ t : State, exec i s = .next t ∧ t.now.pc = s.now.pc + 12 ∧ t.now.fflags = s.now.fflags ∧ vectorsKept s.now t.now ∧
          predicatesKept s.now t.now ∧
          (∀ r, t.now.getS r = if regOf x.d ≤ r ∧ r < regOf x.d + n ∧ r ≠ 0 then ⟨.empty, 0⟩ else s.now.getS r) ∧
          (nothingDirty s (coreOf s.cur) → ∀ a, t.byte a = t0.byte a) ∧
          ∀ r ∈ refs, ∃ q ∈ t.mem.reqs, q.hart = s.cur ∧ q.pa = r.pa ∧ q.level = 3 ∧ q.keep = r.keep ∧ q.kind = kind ∧
            q.reg = some (regOf x.d) ∧ q.order = order ∧ q.scope = x.rm.toNat
    gives .kld (.kld x) 3 x.sub.toNat .kld ∧
    gives .ksib (.ksib x) 2 x.sub.toNat (.ksib (s.scalar x.b)) ∧
    gives .kst (.kst x) 1 x.sub.toNat (.kst (reg (regOf x.d)) (reg (regOf x.b)) (reg (regOf x.b + 1))) ∧
    gives .krec (.krec x) 1 3 (if x.sub = 0
      then .krec 0 x.ty (reg (regOf x.d)) (reg (regOf x.b)) (reg (regOf x.b + 1))
      else .krec x.sub.toNat x.ty (reg (regOf x.d)) 0 0)

/-- R297, R298: a context word of at most four entries gives back the vector it packs and is no handle; a join takes the greater
counter of each replica; a dot joined to a vector is covered; siblings stay in dominance order, each once. -/
def Obligations.VectorsAndDots : Prop :=
  (∀ v : Vec, (∀ r, r < 16 → v.at_ r < 4096) → v.entries.length ≤ 4 →
    isHandle (packVec v.entries) = false ∧ packedOk (wordEntries (packVec v.entries)) = true ∧
    ∀ r, r < 16 → (ofEntries (wordEntries (packVec v.entries))).at_ r = v.at_ r) ∧
  (∀ (a b : Vec) (r : Nat), r < 16 → (a.join b).at_ r = max (a.at_ r) (b.at_ r)) ∧
  (∀ (a : Vec) (dot : Nat), dot < 65536 → (a.joinDot dot).covers dot = true) ∧
  (∀ (a b : Vec) (dot : Nat), dot < 65536 → a.covers dot = true → (a.join b).covers dot = true ∧ (b.join a).covers dot = true) ∧
  (∀ (y : Sib) (l : List Sib), (insertSib y l).Perm (y :: l)) ∧
  (∀ (y : Sib) (l : List Sib), l.Pairwise (fun p q => dotBefore q.dot p.dot = false) →
    (insertSib y l).Pairwise (fun p q => dotBefore q.dot p.dot = false))

/-- R262, R263, R265: at the home an atomic reads the old value and writes the new one as one step, a CAS writes only when the old value is
what it expects, a load writes nothing, and the answer carries the old value; an LDP that finds what it expects stays. In a structure of R6
the new value keeps the fields that the mode may not write. -/
def Obligations.AtomicsAtHome : Prop :=
  ∀ (s : State) (r : Req), r.level = 3 → r.keep = false → selector r.pa < 14 → r.pa % 128 + r.size ≤ 128 →
    let s0 := if r.weak = true then s else (s.stampFor 3 r.core r.pa r.order r.clock).2
    let q := s0.cohTouch (agentOf r.core) r.guest (r.mode == .fw) (r.pa / 128) r.kind.writes true
    q.2 = true → (q.1.cohPeek r.pa r.size).2 = false →
    let old := ofBytes (q.1.cohPeek r.pa r.size).1
    let t := s.performData r
    let holds := fun v => (t.cohPeek r.pa r.size).1 = (q.1.guarded r.mode (placed r.pa (toBytes r.size v))).map Prod.snd
    let stays := (t.cohPeek r.pa r.size).1 = (q.1.cohPeek r.pa r.size).1
    let answered := (∀ d, r.reg = some d → ∃ p ∈ t.mem.replies, p.id = r.id ∧ p.hart = r.hart ∧ p.regs = r.fill old false)
    (∀ op ty b, (r.kind = .amo op ty b ∨ r.kind = .redu op ty b) →
      let w := tyBits ty
      let less := fun x y => if tySigned ty = true then toSigned w x < toSigned w y else x < y
      answered ∧ (r.reg = none → ∃ a ∈ t.mem.acks, a.id = r.id ∧ a.tag = r.tag) ∧
      (ty ≠ .f32 → holds (match op with
        | 0 => (old + b) % 2 ^ w
        | 1 => if less b old then b else old
        | 2 => if less old b then b else old
        | 3 => old &&& b
        | 4 => old ||| b
        | 5 => old ^^^ b
        | _ => b)) ∧
      (ty = .f32 → holds (fmtF32.add ⟨1, false, false, false, false⟩ (fmtF32.value old) (fmtF32.value b)).1)) ∧
    (∀ e n, r.kind = .cas e n → answered ∧ (old = e → holds n) ∧ (old ≠ e → stays)) ∧
    (r.kind = .load → answered ∧ stays) ∧
    (∀ e, r.kind = .ldp e → stays ∧ (old ≠ e ∨ r.parked = true → answered) ∧
      (old = e → r.parked = false → t.mem.replies = q.1.mem.replies ∧
        ∃ p ∈ t.mem.reqs, p = { r with parked := true, since := s.cycles.toNat }))

/-! ### The matrix unit -/

/-- R117, R118: what a cell holds after some finite contributions does not depend on their order. -/
def Obligations.AccumulationOrder : Prop :=
  ∀ (c : Cell) (l l' : List (Int × Int)), l.Perm l' →
    l.foldl (fun k p => k.take p.1 p.2) c = l'.foldl (fun k p => k.take p.1 p.2) c

/-- R258 to R260, R330 to R335, R343, R344, R351, R356: the matrix forms at issue, for a crew whose team has converged. `gives` says what
becomes of the crew; everything else but the pc stays. -/
def Obligations.MatrixForms : Prop :=
  ∀ (x : Args) (s : State) (c : Crew), s.now.exec = s.now.live → s.crewOf s.cur = some c →
    let fits := fun (o : Operand) (al n : Nat) => ((kindOf o = .s ∨ 16 < al) → s.spaOf o % al = 0) ∧
      s.spaOf o < c.kernel.scratch ∧ s.spaOf o + n ≤ c.kernel.scratch
    let gives := fun (i : Instr) (f : Crew → Crew) => exec i s = .next ((s.unwait.modCrew c.key f).modNow Hart.advance)
    let q := chkOf x.a
    let opened := c.chains.find? (fun ch => !ch.closed)
    let block := c.scratchAt (s.spaOf x.a) 32
    (ready .chld x s = true → fits x.b 16 (16384 * fmtSize (fmtCode x.ty)) → c.mmaQueued = false → s.chuckLoading c q = false →
      ∃ (t : State) (op : AOp), exec (.chld x) s = .next t ∧ t.now.pc = s.now.pc + 12 ∧ memoryKept s t ∧ vectorsKept s.now t.now ∧
        predicatesKept s.now t.now ∧ t.run.ops = s.run.ops ++ [op] ∧
        op.kind = .chuckLoad q (s.spaOf x.b) x.ty (x.sub == 1) (c.fenced s.cur) ∧ op.hart = s.cur ∧ op.crew = c.key ∧
        t.run.crews = updWhere (fun k => k.key == c.key) (fun k => k.setChuck q { k.chuck q with state := 0 }) s.run.crews ∧
        ∀ r, t.now.getS r = if futureReg x.d = some r then ⟨.future, op.handle⟩ else s.now.getS r) ∧
    (ready .chinv x s = true → c.mmaQueued = false → s.chuckLoading c q = false →
      gives (.chinv x) (fun k => k.setChuck q { k.chuck q with state := 0, nancol := 0, exps := [] })) ∧
    (ready .mcb x s = true → opened = none → fits x.a 32 32 → fmtBlockOk block c.kernel.scratch = true →
      let f := fmtBlockOf block
      let t := accOf x.d
      32 ≤ c.kernel.chucks → t + f.nc ≤ c.kernel.acc → (∀ j, j < f.nc → s.tileBusy c (t + j) = false) →
      gives (.mcb x) (fun k =>
        let k1 : Crew := { k.fence s.cur with chains := k.chains ++ [⟨t, f, barOf x.b, 0, [], 0, false⟩] }
        if f.red = true then (List.range (f.nc / 2)).foldl (fun (k : Crew) j =>
          let k2 := k.setTile (t + j) { k.tile (t + j) with shadow := some (t + f.nc / 2 + j) }
          k2.setTile (t + f.nc / 2 + j) { k2.tile (t + f.nc / 2 + j) with shadow := none }) k1 else k1)) ∧
    (ready .mma x s = true → ∀ ch, opened = some ch → (ch.m + 1) * ch.fmt.kTotal ≤ 2 ^ 20 →
      (∀ q, q < 32 → s.chuckLoading c q = false ∧ (c.chuck q).state = 1 ∧ (c.chuck q).fmt.toNat = ch.fmt.bfmt) →
      fits x.a 16 (64 * ch.fmt.kTotal * fmtSize ch.fmt.afmt) →
      (ch.fmt.ascale = 0 ∨ ch.fmt.ascale + (ch.m + 1) * 64 * ch.fmt.ga ≤ c.kernel.scratch) →
      (ch.fmt.bscale = 0 ∨ ch.fmt.bscale + (ch.m + 1) * ch.fmt.subs * 128 * ch.fmt.gb ≤ c.kernel.scratch) →
      sumN ((s.run.crews.filter (fun k => k.core == c.core)).map (fun k => sumN (k.chains.map (fun h => h.queue.length)))) < 8 →
      gives (.mma x) (fun k => { k with chains := k.chains.map (fun h =>
        if h == ch then { ch with m := ch.m + 1, queue := ch.queue ++ [⟨ch.m, s.spaOf x.a, x.sub == 1, c.fenced s.cur⟩] } else h) })) ∧
    (ready .mce x s = true → ∀ ch, opened = some ch →
      gives (.mce x) (fun k => { k with chains := k.chains.map (fun h => if h == ch then { h with closed := true } else h) })) ∧
    (ready .morf x s = true → gives (.morf x) (fun k => k.fence s.cur)) ∧
    (ready .mclr x s = true →
      let n := if x.b = .none then 1 else (immInt x.b).toNat
      let ts := (List.range n).map (accOf x.a + ·)
      accOf x.a + n ≤ c.kernel.acc → (∀ t ∈ ts, c.openOn t = false ∧ s.tileBusy c t = false) →
      gives (.mclr x) (fun k => ts.foldl (fun k t => k.setTile t Tile.init) k)) ∧
    (ready .msmx x s = true → s.acqPending s.cur = false → fits x.a 32 32 → msmxBad block (x.sub == 1) = false →
      let b := msmxBlock block (x.sub == 1)
      let t := accOf x.d
      b.otile < c.kernel.acc → b.pdst + (63 * b.pitch + 128 * fmtSize b.pfmt) ≤ c.kernel.scratch →
      c.openOn t = false → c.closingOn t = false → s.drainOn c t = false →
      exec (.msmx x) s = .next ((s.unwait.plainOp (.msmx t (barOf x.b) b)).modNow Hart.advance)) ∧
    (ready .mscl x s = true → c.openOn (accOf x.d) = false → c.closingOn (accOf x.d) = false → s.drainOn c (accOf x.d) = false →
      exec (.mscl x) s = .next ((s.unwait.plainOp (.mscl (accOf x.d) (barOf x.b))).modNow Hart.advance))

/-- R338: MDRN is issued to the engine: the operation holds what it will do, D holds its future, and the tile stays until it
completes; with TAGEN its tag counts it. -/
def Obligations.DrainIssue : Prop :=
  ∀ (x : Args) (s : State) (c : Crew), ready .mdrn x s = true → s.acqPending s.cur = false → s.now.exec = s.now.live → s.crewOf s.cur = some c →
    let t := accOf x.a
    let dst := (s.now.getS (regOf x.b)).v.toNat
    let ctl := (s.now.getS (regOf x.b + 1)).v.toNat
    let d := drainCtl ctl
    drainBad x.ty (x.sub.getLsbD 0) dst ctl = false →
    (d.scr = true → dst % 16 = 0 ∧ dst < c.kernel.scratch ∧
      dst + drainExtent x.ty (x.sub.getLsbD 0) d.stride ≤ c.kernel.scratch) →
    (d.tagen = true → d.tag < c.kernel.tags ∧ sget 0 c.tagCount d.tag < 64) →
    c.openOn t = false → s.tileBusy c t = false →
    (∀ u, (c.tile t).shadow = some u → (c.tile u).cells = (c.tile t).cells) →
    ∃ (u : State) (op : AOp), exec (.mdrn x) s = .next u ∧ u.now.pc = s.now.pc + 12 ∧ memoryKept s u ∧ vectorsKept s.now u.now ∧
      predicatesKept s.now u.now ∧ u.now.fflags = s.now.fflags ∧ u.run.ops = s.run.ops ++ [op] ∧
      op.kind = .drain t x.ty (x.sub.getLsbD 0) (x.sub.getLsbD 1) (x.sub.getLsbD 2) (x.sub.getLsbD 3) x.rm.toNat s.now.fpm
        dst ctl ∧
      op.tag = (if d.tagen = true then some d.tag else none) ∧
      (∀ r, u.now.getS r = if futureReg x.d = some r then ⟨.future, op.handle⟩ else s.now.getS r) ∧
      (d.tagen = false → u.run.crews = s.run.crews) ∧
      (d.tagen = true → ∃ k, u.crew? c.key = some k ∧ k.tiles = c.tiles ∧ bit k.tagmap.toNat d.tag = false ∧
        sget 0 k.tagCount d.tag = sget 0 c.tagCount d.tag + 1)

/-- R258, R259: LDACC is a long-latency producer of the words or rounded cells that the lanes name; STACC writes them, in ascending lane
order. -/
def Obligations.AccumulatorMoves : Prop :=
  ∀ (x : Args) (s : State) (c : Crew), s.crewOf s.cur = some c →
    let i := accOf x.a
    let ls := (if perLane x = true then memberLanes s x else [0]).map (fun l => (l, s.src .b32 x.b l))
    let env := envOf s.now.fpm x.rm.toNat
    (∀ p ∈ ls, p.2 < accSpace x.ty) → c.openOn i = false → s.tileBusy c i = false →
    (ready .ldacc x s = true →
      exec (.ldacc x) s = .next ((s.unwait.laterOf (some i) x.ty x.d (ls.map (fun p =>
        (p.1, if x.ty = .b64 then (c.tile i).word p.2 else ((c.tile i).cell p.2).toFmt fmtF32 env 1 0, 0)))).modNow
          Hart.advance)) ∧
    (ready .stacc x s = true →
      exec (.stacc x) s = .next ((s.unwait.modCrew c.key (fun k => k.setTile i (ls.foldl (fun t p =>
        if x.ty = .b64 then t.setWord p.2 (s.src x.ty x.d p.1) else t.setCell p.2 (cellOfF32 (s.src x.ty x.d p.1)))
        (k.tile i)))).modNow Hart.advance))

/-- R330, R333, R334, R335, R347: a matrix form of a team that has not converged raises DIVERGENCE with the lanes that are missing; MMA
and MCE without an open chain raise MATRIX-STATE with reason 1, MCB with one open reason 2. -/
def Obligations.MatrixTraps : Prop :=
  ∀ (x : Args) (s : State),
    let t := s.now
    let diverged := fun (o : Op) (i : Instr) => ready o x s = true → (matGlobal o = true → s.acqPending s.cur = false) → t.exec ≠ t.live →
      exec i s = .next (s.unwait.takeTrap s.cur 4 0 0 (t.live &&& ~~~t.exec))
    diverged .chld (.chld x) ∧ diverged .mcb (.mcb x) ∧ diverged .mma (.mma x) ∧ diverged .mce (.mce x) ∧
    diverged .mdrn (.mdrn x) ∧ diverged .mclr (.mclr x) ∧ diverged .msmx (.msmx x) ∧ diverged .mscl (.mscl x) ∧ diverged .chinv (.chinv x) ∧ diverged .morf (.morf x) ∧
    (t.exec = t.live → ∀ c, s.crewOf s.cur = some c →
      let opened := c.chains.find? (fun ch => !ch.closed)
      (ready .mma x s = true → opened = none → exec (.mma x) s = .next (s.unwait.takeTrap s.cur 0xF 0 1 0)) ∧
      (ready .mce x s = true → opened = none → exec (.mce x) s = .next (s.unwait.takeTrap s.cur 0xF 0 1 0)) ∧
      (ready .mcb x s = true → opened ≠ none → exec (.mcb x) s = .next (s.unwait.takeTrap s.cur 0xF 0 2 0)))

/-! ### Copies, futures and barriers -/

/-- R386 to R388, R391: a copy form reads its descriptor and goes to the engine of its core; D holds its future, its tag's bit
of %tagmap is clear and the tag counts it. -/
def Obligations.CopyIssue : Prop :=
  ∀ (x : Args) (s : State) (c : Crew), s.crewOf s.cur = some c →
    let off := match x.a with | .spa n => n.toNat * 16 | _ => s.scalar x.a
    let tag := match x.b with | .tag n => n.toNat | _ => 0
    let e := copyEngine (coreOf s.cur)
    off % 64 = 0 → off + 64 ≤ c.kernel.scratch → (sget [] s.run.engines e).length < 64 → sget 0 c.tagCount tag < 64 →
    let gives := fun (i : Instr) (kind : Nat) =>
      ∃ (t : State) (op : AOp) (k : Crew), exec i s = .next t ∧ t.now.pc = s.now.pc + 12 ∧ memoryKept s t ∧ vectorsKept s.now t.now ∧
        predicatesKept s.now t.now ∧ t.now.fflags = s.now.fflags ∧ t.run.ops = s.run.ops ++ [op] ∧
        op.kind = .copy e (copyCmd kind (s.scratchNat c.key off 64)) ∧ op.tag = some tag ∧ op.hart = s.cur ∧
        sget [] t.run.engines e = sget [] s.run.engines e ++ [op.id] ∧
        (∀ r, t.now.getS r = if futureReg x.d = some r then ⟨.future, op.handle⟩ else s.now.getS r) ∧
        t.crew? c.key = some k ∧ k.scratch = c.scratch ∧ (tag < 64 → bit k.tagmap.toNat tag = false) ∧
        sget 0 k.tagCount tag = sget 0 c.tagCount tag + 1
    (memReady .cpy x s = true → gives (.cpy x) 0) ∧ (memReady .cpyg x s = true → gives (.cpyg x) 1) ∧
    (memReady .cpys x s = true → gives (.cpys x) 2)

/-- R393, R395, R396: AWAIT gives the handle with its status once the operation is complete, 0xFFFF once it has left the window and
0xFFFE for a handle that names nothing of the guest's, and waits while it is pending; FTEST tells whether it would wait; FHND
gives the register's bits. R396, R397: FCAN
leaves a mark on a copy, a chuck load or a drain that is pending, and does nothing on an operation that is no longer pending. -/
def Obligations.FutureForms : Prop :=
  ∀ (x : Args) (s : State),
    let v := handleOf (s.scalar x.a)
    let a := s.now.getS (regOf x.a)
    let found := s.judge s.now.guest s.now.mode v
    let gives := fun (i : Instr) (y : Nat) =>
      ∃ t : State, exec i s = .next t ∧ t.now.pc = s.now.pc + 12 ∧ memoryKept s t ∧ vectorsKept s.now t.now ∧
        predicatesKept s.now t.now ∧ t.now.fflags = s.now.fflags ∧
        ∀ r, t.now.getS r = if kindOf x.d = .s ∧ r = regOf x.d ∧ r ≠ 0 then ⟨.full, BitVec.ofNat 64 y⟩ else s.now.getS r
    let ended := decide (a.st = .full ∧ a.v.toNat / 2 ^ 48 ≠ 0) ||
      decide (s.judge s.now.guest s.now.mode (handleOf a.v.toNat) ≠ .pending)
    (ready .await x s = true → found = .bad → gives (.await x) (v + 0xFFFE * 2 ^ 48)) ∧
    (ready .await x s = true → found = .expired → gives (.await x) (v + 0xFFFF * 2 ^ 48)) ∧
    (ready .await x s = true → ∀ st, found = .complete st → gives (.await x) (v + st * 2 ^ 48)) ∧
    (ready .await x s = true → found = .pending → ∃ t : State, exec (.await x) s = .next t ∧ t.now.pc = s.now.pc ∧
      registersKept s.now t.now ∧ t.now.sched.wait = .awaitOp (BitVec.ofNat 64 v) ∧ memoryKept s t) ∧
    (ready .ftest x s = true → kindOf x.d ≠ .k → gives (.ftest x) (if ended = true then 1 else 0)) ∧
    (ready .ftest x s = true → kindOf x.d = .k →
      ∃ t : State, exec (.ftest x) s = .next t ∧ t.now.pc = s.now.pc + 12 ∧ scalarsKept s.now t.now ∧ vectorsKept s.now t.now ∧
        ∀ r, t.now.getK r = if r = regOf x.d ∧ r ≠ 0 then ⟨false, if ended = true then allLanes s.now.W else 0⟩ else s.now.getK r) ∧
    (ready .fhnd x s = true → gives (.fhnd x) a.v.toNat) ∧
    (ready .fcan x s = true →
      let w := handleOf a.v.toNat
      let kind := bits w 12 4
      (∃ t : State, exec (.fcan x) s = .next t ∧ t.now.pc = s.now.pc + 12 ∧ (kind ≠ 2 → registersKept s.now t.now)) ∧
      (s.judge s.now.guest s.now.mode w ≠ .pending → exec (.fcan x) s = .next (s.unwait.modNow Hart.advance)) ∧
      (s.judge s.now.guest s.now.mode w = .pending → (kind = 0 ∨ kind = 1 ∨ kind = 4) →
        ∃ t : State, exec (.fcan x) s = .next t ∧ memoryKept s t ∧ t.run.ops = s.run.ops.map (fun o =>
          if handleOf o.handle.toNat == w && o.status.isNone then { o with cancelled := true } else o)))

/-- R398: with m the tags of its mask that the crew has, WANY gives the set ones of m once there is one or m is empty, WALL once all of
m are set, and WFFR takes the lowest, whose bit of %tagmap it clears, or gives all ones where m is empty; each waits until then. WANY,
WALL and a wait leave the crew as it was. -/
def Obligations.TagForms : Prop :=
  (∀ (x : Args) (s : State),
    let crew := s.crewOf s.cur
    let m := s.scalar x.a % 2 ^ ((crew.map (fun c => c.kernel.tags)).getD 0)
    let set := ((crew.map (fun c => c.tagmap.toNat)).getD 0) &&& m
    let gives := fun (i : Instr) (y : Nat) (crews : List Crew) =>
      ∃ t : State, exec i s = .next t ∧ t.now.pc = s.now.pc + 12 ∧ memoryKept s t ∧ vectorsKept s.now t.now ∧
        predicatesKept s.now t.now ∧ t.now.fflags = s.now.fflags ∧ t.run.crews = crews ∧
        ∀ r, t.now.getS r = if kindOf x.d = .s ∧ r = regOf x.d ∧ r ≠ 0 then ⟨.full, BitVec.ofNat 64 y⟩ else s.now.getS r
    let waits := fun (i : Instr) => ∃ t : State, exec i s = .next t ∧ t.now.pc = s.now.pc ∧ registersKept s.now t.now ∧
      t.now.sched.wait = .tags m ∧ memoryKept s t ∧ t.run.crews = s.run.crews
    (ready .wany x s = true → (m = 0 ∨ set ≠ 0) → gives (.wany x) set s.run.crews) ∧
    (ready .wany x s = true → m ≠ 0 → set = 0 → waits (.wany x)) ∧
    (ready .wall x s = true → set = m → gives (.wall x) m s.run.crews) ∧
    (ready .wall x s = true → set ≠ m → waits (.wall x)) ∧
    (ready .wffr x s = true → m = 0 → gives (.wffr x) (2 ^ 64 - 1) s.run.crews) ∧
    (ready .wffr x s = true → ∀ i, set.testBit i = true → (∀ j < i, set.testBit j = false) →
      gives (.wffr x) i (s.run.crews.map (fun c => if c.key = s.now.place.crewKey then c.clearTags (2 ^ i) else c))) ∧
    (ready .wffr x s = true → m ≠ 0 → set = 0 → waits (.wffr x))) ∧
  (∀ (c : Crew) (i j : Nat), i < 64 → j < 64 →
    c.clearTags (2 ^ i) = { c with tagmap := (c.clearTags (2 ^ i)).tagmap, tagSeen := (c.clearTags (2 ^ i)).tagSeen } ∧
    (c.clearTags (2 ^ i)).tagmap.toNat.testBit j = (c.tagmap.toNat.testBit j && decide (j ≠ i)))

/-- R465, R466, R468: the record of a barrier. An arrival counts; the one that completes the phase flips PHASE, clears the count and moves
the status; a status report is kept with its first unit; BINIT sets the expected count and clears the rest. R289, R468 to R470: the
barrier forms, of a team of a crew.
That an arrival waits for earlier loads is the model's reading (log entry 71). -/
def Obligations.BarrierForms : Prop :=
  (∀ (r status first n : Nat), r < 2 ^ 128 →
    let last := max (bits r 0 16) 1 ≤ bits r 16 16 + 1
    let a := barArrive r
    let b := barReport r status first
    let i := barInit r n
    (¬ last → a = r + 2 ^ 16) ∧
    (last → bits a 0 16 = bits r 0 16 ∧ bits a 16 16 = 0 ∧ barPhase a = !barPhase r ∧ bits a 48 16 = bits r 48 16 ∧
      bits a 96 32 = bits r 64 32 ∧ bits a 64 32 = (bits r 64 32 &&& 0xFF00)) ∧
    (bits b 0 32 = bits r 0 32 ∧ barPhase b = barPhase r ∧ bits b 48 16 = bits r 48 16 ∧ bits b 96 32 = bits r 96 32 ∧
      bits b 64 8 = (bits r 64 8 ||| status % 256) ∧
      (bit r 33 = true ∨ status % 256 / 2 = 0 → bits b 72 8 = bits r 72 8) ∧
      (bit r 33 = false → status % 256 / 2 ≠ 0 → bits b 72 8 = first % 256 ∧ bit b 33 = true)) ∧
    (bits i 0 16 = n % 2 ^ 16 ∧ bits i 16 16 = 0 ∧ barPhase i = barPhase r ∧ bit i 33 = false ∧ bits i 64 64 = 0 ∧
      ∀ t, t < 16 → barSeen i t = barPhase r)) ∧
  (∀ (x : Args) (s : State) (c : Crew), s.crewOf s.cur = some c →
    let team := s.now.place.team
    let record := fun b => s.barRecord c b
    let sets := fun (i : Instr) (b v : Nat) => exec i s = .next ((s.unwait.setBarRecord c b v).modNow Hart.advance)
    (ready .binit x s = true → sets (.binit x) (barOf x.d) (barInit (record (barOf x.d)) (s.scalar x.a % 2 ^ 16))) ∧
    (ready .barv x s = true → s.now.sb = [] → s.now.uasc = 0 → s.earlierOut s.cur s.nextId = false → sets (.barv x) (barOf x.d) (barArrive (record (barOf x.d)))) ∧
    (ready .bwait x s = true → barPhase (record (barOf x.d)) ≠ barSeen (record (barOf x.d)) team →
      sets (.bwait x) (barOf x.d) (barObserve (record (barOf x.d)) team)) ∧
    (ready .bwait x s = true → barPhase (record (barOf x.d)) = barSeen (record (barOf x.d)) team →
      ∃ t : State, exec (.bwait x) s = .next t ∧ t.now.pc = s.now.pc ∧ t.now.sched.wait = .barrier (barOf x.d) false ∧
        registersKept s.now t.now ∧ t.run = s.run) ∧
    (ready .barw x s = true → s.now.sb = [] → s.now.uasc = 0 → s.earlierOut s.cur s.nextId = false →
      let s1 := (s.unwait.setBarRecord c (barOf x.d) (barArrive (record (barOf x.d)))).modNow Hart.advance
      let r := s1.barRecord c (barOf x.d)
      exec (.barw x) s = .next (if barPhase r = barSeen r team
        then s1.modNow (fun t => { t with sched := { t.sched with wait := .barrier (barOf x.d) true, waitTick := s.tick } })
        else (s1.setBarRecord c (barOf x.d) (barObserve r team)))) ∧
    (ready .bqry x s = true → ∃ t : State, exec (.bqry x) s = .next t ∧ t.now.pc = s.now.pc + 12 ∧ t.run = s.run ∧ memoryKept s t ∧
      vectorsKept s.now t.now ∧ predicatesKept s.now t.now ∧ t.now.fflags = s.now.fflags ∧
      ∀ r, t.now.getS r = if r = regOf x.d ∧ r ≠ 0
        then ⟨.full, BitVec.ofNat 64 (if x.b = .imm 1 then record (barOf x.a) / 2 ^ 64 else record (barOf x.a))⟩
        else s.now.getS r))

/-! ### Launch, placement, KV tables and counters -/

/-- R66, R201, R366, R372, R374, R375, R377: LNCH appends the record its lanes hold to a queue with room; ACQ grants the full
allotment; PARK raises PREEMPT in the live teams of the crew; WAKE is a store at SYSTEM scope with REL.
PARK in a thread without a crew, and lane 0 in %tmask of a LNCH that traps, are the model's readings (log entries 26, 44). -/
def Obligations.LaunchForms : Prop :=
  ∀ (x : Args) (s : State),
    let s1 := s.unwait
    let t := s.now
    let core := coreOf s.cur
    (memReady .lnch x s = true → ∀ refs s2, s1.checkAll ⟨0, 64, .load, true, false, .read⟩ [(0, s.scalar x.a)] = .ok refs s2 →
      let q := s.scalar x.b
      let pa := (refs.map LaneRef.pa).headD 0
      let bad := 1024 ≤ q ∨ s2.lqField q 0 1 = 0 ∨ (modeRank t.mode < 2 ∧ s2.lqGuest q ≠ t.guest)
      (bad → exec (.lnch x) s = .next (s1.takeTrap s.cur 6 (s1.lqDesc q) 2 1)) ∧
      (¬ bad → s2.lqFull q = true → exec (.lnch x) s = s1.block .form) ∧
      (¬ bad → s2.lqFull q = false → t.sb = [] → t.uasc = 0 → s.earlierOut s.cur s.nextId = false →
        s.backWaits core (fun _ => true) = false →
        let read := fun (st : State) a =>
          st.weakRead core t.guest (t.mode == .fw) (refs.any LaneRef.nc) (refs.any LaneRef.uncached) false false a 32
        let r0 := read s2 pa
        let r1 := read r0.2.2 (pa + 32)
        (r1.2.2.rejCount ≠ s2.rejCount →
          exec (.lnch x) s = .next (r1.2.2.takeTrap s.cur 0x14 ((refs.map LaneRef.va).headD 0) 0 1)) ∧
        (r1.2.2.rejCount = s2.rejCount →
        ∃ u : State, exec (.lnch x) s = .next u ∧ u = ((r1.2.2.release core 4).appendRecord q (ofBytes (r0.1 ++ r1.1)) x.d).modNow Hart.advance ∧
          u.now.pc = t.pc + 12 ∧ vectorsKept t u.now ∧ predicatesKept t u.now ∧ u.now.fflags = t.fflags ∧
          ∀ r, futureReg x.d ≠ some r → u.now.getS r = t.getS r))) ∧
    (ready .acq x s = true → ∀ c, s.crewOf s.cur = some c →
      (t.place.acqDone = true → exec (.acq x) s = .next (s1.modNow Hart.advance)) ∧
      (t.place.acqDone = false → c.unreserved = false ∨ ((s.core c.core).acqs = [] ∧
          ∀ p, p < 4 → c.kernel.needOn c.p0 p ≤ freeUnits (s.crewsOn c.core []) p) →
        ∃ u : State, exec (.acq x) s = .next u ∧ u.now.pc = t.pc + 12 ∧ registersKept t u.now ∧ memoryKept s u ∧
          u.now.place.sAllot = c.kernel.fsreg ∧ u.now.place.vAllot = c.kernel.fvreg ∧ u.now.place.acqDone = true ∧
          (∀ k, u.crewOf s.cur = some k → k.unreserved = false) ∧
          ∀ h, h ∉ c.harts → h ≠ s.cur → u.hart h = s.hart h) ∧
      (t.place.acqDone = false → c.unreserved = true →
        (∃ p, p < 4 ∧ freeUnits (s.crewsOn c.core []) p < c.kernel.needOn c.p0 p) →
        ∃ u : State, exec (.acq x) s = .next u ∧ u.now.pc = t.pc ∧ registersKept t u.now ∧ memoryKept s u ∧ u.now.sched.wait = .acq ∧
          s.cur ∈ (u.core c.core).acqs ∧ u.now.place = t.place)) ∧
    (ready .park x s = true → ∀ c, s.crewOf s.cur = some c → c.draining = true ∨ c.raised ≠ none →
      exec (.park x) s = .next (s1.modNow Hart.advance)) ∧
    (ready .park x s = true → ∀ c, s.crewOf s.cur = some c → c.draining = false → c.raised = none →
      ∃ u : State, exec (.park x) s = .next u ∧ u.now.pc = t.pc + 12 ∧ registersKept t u.now ∧ memoryKept s u ∧
        ∀ h ∈ c.harts, (s.hart h).alive = true → (u.hart h).sched.preempt = some (s.parkFits c)) ∧
    (memReady .wake x s = true → ∀ refs s2,
      s1.checkAll ⟨0, 8, .store, false, true, .plainStore⟩ [(0, s1.addrOf .wake { x with b := .none } 8 0)] = .ok refs s2 →
      let es := (refs.map (fun r => storeEntries s2.nextId t.mode false true r.io false false 2 4 r (toBytes 8 (s.src .b64 x.b 0)) false)).flatten
      t.sb = [] ∨ t.sb.length + es.length ≤ 64 →
      ∃ u : State, exec (.wake x) s = .next u ∧ u.now.pc = t.pc + 12 ∧ registersKept t u.now ∧ u.mem = s2.mem ∧ u.now.sb = t.sb ++ es ∧
        ∀ e ∈ es, e.strong = true ∧ e.order = 2 ∧ e.scope = 4)

/-- R191, R413 to R416, R429, R430, R517: the placement forms, at a page that translates and whose home takes the form. Each writes
its report to D; PIN and UNPIN count in the placement record of the page, HINT writes its hint, MIGR appends a MOVE of the page to the
migration command queue, and the OWNR forms act on the ownership word of a POOL page. The permission of PIN and UNPIN comes first, the
home's rejection last.
The record of a page is plain data of the model, and that of a frame which a migration fills is its old one (log entry 5). -/
def Obligations.PlacementForms : Prop :=
  ∀ (x : Args) (s s2 : State) (t : Trans) (pa : Nat),
    let s1 := s.unwait
    let va := fun o => s1.addrOf o { x with b := .none } 1 0
    let reaches := fun (o : Op) write => ready o x s = true ∧ s1.translate (s1.xctx s.cur) (va o) .load write = (.ok t pa, s2)
    let taken := fun (st : State) => st.rejected pa (agentOf (coreOf s.cur)) st.now.guest (st.now.mode == .fw)
    let rejects := fun (o : Op) (i : Instr) (st : State) => ∀ st1, taken st = some st1 →
      exec i s = .next (st1.takeTrap s.cur 0x14 (va o) 0 1)
    let reports := fun (i : Instr) (st : State) (count status : Nat) =>
      ∃ u : State, exec i s = .next u ∧ u.now.pc = s.now.pc + 12 ∧ vectorsKept s.now u.now ∧ predicatesKept s.now u.now ∧
        u.now.fflags = s.now.fflags ∧ u.mem = st.mem ∧ u.hub = st.hub ∧ u.run = st.run ∧ u.cores = st.cores ∧ u.pkg = st.pkg ∧
        u.outbox = st.outbox ∧
        ∀ r, u.now.getS r = if kindOf x.d = .s ∧ r = regOf x.d ∧ r ≠ 0 then ⟨.full, BitVec.ofNat 64 (count + status * 2 ^ 8)⟩
          else s.now.getS r
    let waits := fun (i : Instr) (st : State) (hold : Option Nat) =>
      ∃ u : State, exec i s = .next u ∧ u.now.pc = s.now.pc ∧ registersKept s.now u.now ∧ u.now.sched.hold = hold ∧
        u.mem = st.mem ∧ u.hub = st.hub ∧ u.outbox = st.outbox
    let page := (t.pcls = 0 ∨ t.pcls = 3) ∧ selector pa < 14
    let recOf := fun (st : State) => (st.pageOf (st.recFrame (pa / 4096))).1
    (∀ s3, reaches .pin false → s1.pinDenied t = none → s2.gainPage t pa (va .pin) = (none, s3) →
      let r := s3.frame (recOf s3)
      let counted := s3.modFrame (recOf s3) (fun q => { q with pin := r.pin + 1, pguest := s.now.guest })
      rejects .pin (.pin x) s3 ∧ (taken s3 = none →
        (¬ page → reports (.pin x) s3 r.pin 1) ∧
        (page → r.mstate = 0 → r.pin < 255 →
          reports (.pin x) (if t.pooled pa = true then counted.waitPinned (poolPage pa) else counted) (r.pin + 1) 0) ∧
        (page → r.mstate = 0 → 255 ≤ r.pin → reports (.pin x) s3 r.pin 2))) ∧
    (reaches .unpin false → s1.pinDenied t = none →
      let r := s2.frame (recOf s2)
      rejects .unpin (.unpin x) s2 ∧ (taken s2 = none →
        (¬ page → reports (.unpin x) s2 r.pin 1) ∧
        (page → r.pin ≠ 0 →
          reports (.unpin x) (s2.modFrame (recOf s2) (fun q => { q with pin := r.pin - 1, pguest := s.now.guest })) (r.pin - 1) 0) ∧
        (page → r.pin = 0 → reports (.unpin x) s2 0 3))) ∧
    (∀ n, s1.pinDenied t = some n →
      (reaches .pin false → exec (.pin x) s = .next (s2.takeTrap s.cur 6 (va .pin) (1 + 16 * n) 1)) ∧
      (reaches .unpin false → exec (.unpin x) s = .next (s2.takeTrap s.cur 6 (va .unpin) (1 + 16 * n) 1))) ∧
    (ready .hint x s = true → s1.translate (s1.xctx s.cur) (s1.addrOf .hint x 1 0) .load false = (.ok t pa, s2) →
      selector pa < 14 →
      ∃ u : State, exec (.hint x) s = .next u ∧ u.now.pc = s.now.pc + 12 ∧ registersKept s.now u.now ∧
        u.frame (recOf s2) = { s2.frame (recOf s2) with hintv := x.sub.toNat + 1 } ∧
        (∀ g, g ≠ recOf s2 → u.frame g = s2.frame g) ∧ u.mem.cells = s2.mem.cells) ∧
    (reaches .migr false → s2.hub.migQueue.length < migQueueLen →
      let b := if x.b = .none then 0 else s2.scalar x.b
      ∃ (u : State) (c : MigCmd), exec (.migr x) s = .next u ∧ u.now.pc = s.now.pc + 12 ∧ vectorsKept s.now u.now ∧ predicatesKept s.now u.now ∧
        u.now.fflags = s.now.fflags ∧ u.mem = s2.mem ∧ u.hub.migQueue = s2.hub.migQueue ++ [c] ∧ c.hart = some s.cur ∧
        c.dreg = futureReg x.d ∧ c.taff1 = t.taff1 ∧
        c.cmd = x.sub.toNat * 16 + b2n (bit b 1) * 64 + b2n (bit b 1 && bit b 0) * 128 + s2.now.guest * 2 ^ 8 +
          (if t.pcls = 2 then pa / 4096 else pa / t.gsize * (t.gsize / 4096)) * 2 ^ 64 ∧
        ∀ r, u.now.getS r = if futureReg x.d = some r then ⟨.future, c.handle⟩ else s.now.getS r) ∧
    (reaches .ownrRequest true →
      let p := poolPage pa
      let w := s2.ownWord p
      let hold := s.now.sched.hold
      let next := s2.ownStep p
      rejects .ownrRequest (.ownrRequest x) s2 ∧ (taken s2 = none →
        (tierOf pa ≠ 2 → reports (.ownrRequest x) s2 0 6) ∧
        (tierOf pa = 2 → ownKeep w = true → reports (.ownrRequest x) s2 (ownOwner w) 7) ∧
        (tierOf pa = 2 → ownKeep w = false → s2.owns p = true →
          (hold = none → reports (.ownrRequest x) s2 (ownOwner w) 4) ∧
          (hold = some p → reports (.ownrRequest x) s2 (ownOwner w) 0)) ∧
        (tierOf pa = 2 → s2.owns p = false → ∀ told, hold = some (holdEnded p told) →
          reports (.ownrRequest x) s2 (ownOwner w) 5) ∧
        (tierOf pa = 2 → s2.owns p = false → hold = none →
          (next.1 = true → reports (.ownrRequest x) next.2 (ownOwner (next.2.ownWord p)) 0) ∧
          (next.1 = false → waits (.ownrRequest x) next.2 (some p))))) ∧
    (reaches .ownrRelease true →
      let p := poolPage pa
      let w := s2.ownWord p
      let r := s2.frame (recOf s2)
      let busy := r.pin ≠ 0 ∨ r.mstate ≠ 0 ∨ s2.flushWaits (poolAddr p) 4096 = true
      let c := (s2.recallPage (poolAddr p) 4096).setOwn p (ownNext w (ownOwner w) 0 0)
      rejects .ownrRelease (.ownrRelease x) s2 ∧ (taken s2 = none →
        (tierOf pa ≠ 2 → reports (.ownrRelease x) s2 0 6) ∧
        (tierOf pa = 2 → ownKeep w = true → reports (.ownrRelease x) s2 (ownOwner w) 7) ∧
        (tierOf pa = 2 → ownKeep w = false → s2.owns p = false →
          reports (.ownrRelease x) s2 (ownOwner w) (if s.now.sched.hold = some p then 0 else 4)) ∧
        (tierOf pa = 2 → ownKeep w = false → s2.owns p = true → busy → waits (.ownrRelease x) s2 s2.now.sched.hold) ∧
        (tierOf pa = 2 → ownKeep w = false → s2.owns p = true → ¬ busy →
          (c.1 = true → reports (.ownrRelease x) c.2 (ownOwner w) 0) ∧
          (c.1 = false → waits (.ownrRelease x) c.2 (some p)))))

/-- R171, R411: TLBI takes the entries its operands select out of the translation caches of its scope and keeps the others; IFLUSH
empties the instruction caches and loop buffers of its scope and keeps the others. Both change no register. An S operand that names no guest
raises PERMISSION.
Lane 0 in its %tmask is the model's reading (log entry 26). -/
def Obligations.CacheMaintenance : Prop :=
  ∀ (x : Args) (s : State),
    let t := s.now
    let core := coreOf s.cur
    let scope := x.rm.toNat
    let settled := t.sb = [] ∧ t.uasc = 0 ∧ (2 ≤ scope → s.backWaits core (fun _ => true) = false)
    (ready .tlbi x s = true → t.tlbiCheck x = none → (t.mode = .guest → x.sub ≠ 2) → (kindOf x.b = .s → s.scalar x.b ≤ 63) →
      settled →
      let chosen := fun key e => scopeTlb core scope key = true ∧ t.tlbiSelect x.sub.toNat (s.scalar x.a) (s.scalar x.b) e = true
      (∀ ts, (∀ e, e ∈ ts → ∃ p ∈ s.mem.tlbs, e ∈ p.2 ∧ chosen p.1 e) → s.inFlight core scope ts = false) →
      ∃ u : State, exec (.tlbi x) s = .next u ∧ u.now.pc = t.pc + 12 ∧ registersKept t u.now ∧ (nothingDirty s core → memoryKept s u) ∧
        ∀ key e, (∃ l, (key, l) ∈ u.mem.tlbs ∧ e ∈ l) ↔ (∃ l, (key, l) ∈ s.mem.tlbs ∧ e ∈ l) ∧ ¬ chosen key e) ∧
    (∀ n, checkArgs .tlbi x = none ∨ checkArgs .tlbi x = some 8 → 1 ≤ modeRank t.mode → t.tlbiCheck x = some n →
      exec (.tlbi x) s = .next (s.takeTrap s.cur 1 0 (hostDie s.cur + n * 16) 0)) ∧
    (checkArgs .tlbi x = none → t.tlbiCheck x = none → t.mode = .guest → x.sub = 2 →
      exec (.tlbi x) s = .next (s.takeTrap s.cur 0x16 0 0 0)) ∧
    (ready .tlbi x s = true → t.tlbiCheck x = none → (t.mode = .guest → x.sub ≠ 2) → kindOf x.b = .s → 63 < s.scalar x.b →
      exec (.tlbi x) s = .next (s.unwait.takeTrap s.cur 6 0 0 1)) ∧
    (ready .iflush x s = true → settled →
      ∃ u : State, exec (.iflush x) s = .next u ∧ u.now.pc = t.pc + 12 ∧ registersKept t u.now ∧ (nothingDirty s core → memoryKept s u) ∧
        (∀ c, sameInstance core scope c = true → (u.core c).icache = [] ∧ (u.core c).loops = []) ∧
        ∀ c, sameInstance core scope c = false → (u.core c).icache = (s.core c).icache ∧ (u.core c).loops = (s.core c).loops)

/-- R436 to R441: the KV forms, once their reads of the descriptors and of the entries are served. KVR gives the entry or POISON; KVW
writes the new entry where the old one is as expected and neither PARK nor PROMO, and gives the old one with its status; KVX goes
to the hub with D, the next register and its predicate EMPTY. A reason of R438 raises KV-FAULT.
The address of a row and the order of the reasons are the model's reading (log entry 43). -/
def Obligations.KvForms : Prop :=
  ∀ (x : Args) (s s2 : State) (vs : List (Nat × Nat × Bool)) (ts : Nat),
    let s1 := s.unwait
    let t := s.now
    let core := coreOf s.cur
    let kd := (s.readSr s.cur 0x050).toNat
    let seq := (t.getS (regOf x.a)).v.toNat
    let block := (t.getS (regOf x.a + 1)).v.toNat
    let every := allLanes t.W
    let served := fun order ls => ∀ f, s1.kvDescs order ls f = f vs ts s2
    let gives := fun (i : Instr) (m : State) (bad : Bool) (v : Nat) =>
      ∃ u : State, exec i s = .next u ∧ u.now.pc = t.pc + 12 ∧ vectorsKept t u.now ∧ predicatesKept t u.now ∧ u.now.fflags = t.fflags ∧
        (∀ a, u.byte a = m.byte a) ∧
        ∀ r, u.now.getS r = if kindOf x.d = .s ∧ r = regOf x.d ∧ r ≠ 0
          then ⟨if bad = true then .poison else .full, BitVec.ofNat 64 v⟩ else t.getS r
    let entry := (bits ((vs.head?.map (fun p => p.2.1)).getD 0) 64 64 + 8 * block) % 2 ^ 64
    let new := (t.getS (regOf x.b + 1)).v.toNat
    let refused := bits new 9 3 ≠ 0 ∨ bits new 48 16 ≠ 0 ∨ bit new 3 = true ∨ bit new 4 = true ∨ bits new 1 2 = 3
    (memReady .kvr x s = true → served 1 (s1.allOf seq) →
      (∀ n, kvReason kd seq none (some block) (vs.head?.map Prod.snd) = some n →
        exec (.kvr x) s = .next (s2.takeTrap s2.cur 0x13 (kvDescAt kd seq) (kvInfo n seq) every)) ∧
      (kvReason kd seq none (some block) (vs.head?.map Prod.snd) = none → ∀ d, vs.head?.map Prod.snd = some (d, true) →
        gives (.kvr x) s2 true 0) ∧
      (kvReason kd seq none (some block) (vs.head?.map Prod.snd) = none → ∀ d, vs.head?.map Prod.snd = some (d, false) →
        ∀ r rest s3, s2.checkAll ⟨0, 8, .load, true, false, .read⟩ (s2.allOf entry) = .ok (r :: rest) s3 →
          s3.strongWaits [r] 1 3 = false →
          let f := s3.kvRead r 8
          f.2.2.1 = true → gives (.kvr x) f.2.2.2.2 f.2.1 f.1)) ∧
    (memReady .kvw x s = true → served 3 (s1.allOf seq) →
      (∀ n, kvReason kd seq none (some block) (vs.head?.map Prod.snd) = some n →
        exec (.kvw x) s = .next (s2.takeTrap s2.cur 0x13 (kvDescAt kd seq) (kvInfo n seq) every)) ∧
      (kvReason kd seq none (some block) (vs.head?.map Prod.snd) = none → ∀ d, vs.head?.map Prod.snd = some (d, true) →
        (refused → exec (.kvw x) s = .next (s2.takeTrap s2.cur 0x13 (kvDescAt kd seq) (kvInfo 7 seq) every)) ∧
        (¬ refused → gives (.kvw x) s2 true 0))) ∧
    (memReady .kvw x s = true → served 3 (s1.allOf seq) →
      kvReason kd seq none (some block) (vs.head?.map Prod.snd) = none → ∀ d, vs.head?.map Prod.snd = some (d, false) →
      ∀ r rest s3, s2.checkAll ⟨0, 8, .atomic, true, true, .atomic⟩ (s2.allOf entry) = .ok (r :: rest) s3 →
        let expected := (t.getS (regOf x.b)).v.toNat
        let status := fun old => if bit old 4 = true ∨ bit old 3 = true then 2 else if old ≠ expected then 1 else 0
        (refused → exec (.kvw x) s = .next (s3.takeTrap s3.cur 0x13 (kvDescAt kd seq) (kvInfo 7 seq) every)) ∧
        (¬ refused → s3.strongWaits [r] 3 3 = false → s3.cursorMig r.pa = none →
          let f := ((s3.release core 3).preStrong core 3 (r.pa / 128)).atPoint s.cur core t.guest t.mode 3 r.pa 8
            true (fun old => if status old = 0 then some new else none)
          f.ok = true → gives (.kvw x) f.st f.bad (putBits f.old 48 4 (status f.old)))) ∧
    (memReady .kvx x s = true → memberLanes s x = [] →
      exec (.kvx x) s = .next ((s1.modNow (fun u => u.setK (regOf x.b) 0)).modNow Hart.advance)) ∧
    (memReady .kvx x s = true → memberLanes s x ≠ [] →
      let asked := (lanesOf t.W (t.members x)).map
        (fun l => (l, (t.getV (regOf x.a) l).v.toNat, (t.getV (regOf x.a + 1) l).v.toNat))
      let asks : List KvxAsk := asked.map (fun q => ⟨q.1, q.2.1, q.2.2, (vs.find? (fun p => p.1 == q.1)).map Prod.snd⟩)
      let fine := asks.filter (fun q => (q.desc.map Prod.snd) == some false)
      let entryVa := fun (q : KvxAsk) => (bits ((q.desc.map Prod.fst).getD 0) 64 64 + 8 * (q.pos / 16)) % 2 ^ 64
      served 1 (asked.map (fun q => (q.1, q.2.1))) →
      (∀ q ∈ asks, kvReason kd q.seq (some q.pos) (some (q.pos / 16)) q.desc = none) →
      ∀ refs s3, s2.checkAll ⟨0, 8, .load, true, false, .read⟩ (fine.map (fun q => (q.lane, entryVa q))) = .ok refs s3 →
        s3.strongWaits refs 1 3 = false →
        let rd := s3.kvReads refs 8
        rd.2.1 = [] →
        (∀ q ∈ fine, ∀ e, rd.1.find? (fun p => p.1 == q.lane) = some (q.lane, e, false) → kvEntryBad e (q.pos % 16) = false) →
        ∃ (u : State) (k : KvxOp), exec (.kvx x) s = .next u ∧ u = (rd.2.2.2.kvxIssue x kd (max ts rd.2.2.1) asks rd.1).modNow Hart.advance ∧
          u.now.pc = t.pc + 12 ∧ scalarsKept t u.now ∧ u.now.fflags = t.fflags ∧
          (∀ r l, u.now.getV r l = if (r = regOf x.d ∨ r = regOf x.d + 1) ∧ l ∈ asks.map KvxAsk.lane then ⟨.empty, 0⟩
            else t.getV r l) ∧
          (∀ q, u.now.getK q = if q = regOf x.b ∧ q ≠ 0 then ⟨true, (t.getK q).v⟩ else t.getK q) ∧
          u.hub.kvx = s.hub.kvx ++ [k] ∧ k.hart = s.cur ∧ k.lanes.map KvxLane.lane = asks.map KvxAsk.lane)

/-- R475 to R478: CNTR gives the counter that its selector names and CNTC writes it; a selector outside the map is ILLEGAL, one above
the mode a PERMISSION trap; a performance counter of another guest reads 0, and while it counts takes no write. TSTP gives the
cycle counter, or what it is past A. R474: PGCNT gives the report of the page's home.
Bits above a selector, the order of TSTP, and what a peer's home answers are the model's readings (log entries 18, 47). -/
def Obligations.CounterForms : Prop :=
  ∀ (x : Args) (s : State),
    let t := s.now
    let sel := s.scalar x.a
    let num := bits sel 0 12
    let core := coreOf s.cur
    let pmc := (s.core core).pmcAt (num % 8)
    let foreign := modeRank t.mode < 2 ∧ pmc.owner ≠ t.guest
    let gives := fun (i : Instr) (st : State) (v : Word) =>
      ∃ u : State, exec i s = .next u ∧ u.now.pc = t.pc + 12 ∧ vectorsKept t u.now ∧ predicatesKept t u.now ∧ u.now.fflags = t.fflags ∧
        u.mem = st.mem ∧ u.hub = st.hub ∧ u.cores = st.cores ∧ u.run = st.run ∧ u.outbox = st.outbox ∧
        ∀ r, u.now.getS r = if kindOf x.d = .s ∧ r = regOf x.d ∧ r ≠ 0 then ⟨.full, v⟩ else t.getS r
    let checks := fun (i : Instr) (write : Bool) =>
      (2 ^ 18 ≤ sel ∨ cntRank num write = none → exec i s = .next (s.unwait.takeTrap s.cur 1 0 (hostDie s.cur + 8 * 16) 0)) ∧
      (∀ m, sel < 2 ^ 18 → cntRank num write = some m → modeRank t.mode < m → exec i s = .next (s.unwait.takeTrap s.cur 0x16 0 0 0))
    let allowed := fun (write : Bool) => sel < 2 ^ 18 ∧ ∃ m, cntRank num write = some m ∧ m ≤ modeRank t.mode
    (ready .cntr x s = true → kindOf x.d = .s → checks (.cntr x) false ∧ (allowed false →
      (num < 0x10 → foreign → gives (.cntr x) s 0) ∧
      (num < 8 → ¬ foreign → gives (.cntr x) s pmc.count) ∧
      (8 ≤ num → num < 0x10 → ¬ foreign → gives (.cntr x) s (BitVec.ofNat 64 (bits pmc.cfg.toNat 0 12 + pmc.owner * 2 ^ 12))) ∧
      (0x10 ≤ num → num < 0x15 → gives (.cntr x) s (s.pfCount (num - 0x10))) ∧
      (0x20 ≤ num → num < 0x40 → gives (.cntr x) s (sget 0 s.hub.counters (migKey (t.cntGuest sel) num))) ∧
      (0x40 ≤ num → num < 0x50 → gives (.cntr x) s (sget 0 s.hub.counters num)) ∧
      (0x50 ≤ num → gives (.cntr x) s (s.home (num - 0x50)).rejections))) ∧
    (ready .cntc x s = true → checks (.cntc x) true ∧ (allowed true →
      let v := BitVec.ofNat 64 (s.scalar x.b)
      let put := fun p => s.modCore core (fun c => { c with pmc := sset Pmc.init c.pmc (num % 8) p })
      (num < 0x10 → foreign → bits pmc.cfg.toNat 0 8 ≠ 0 → gives (.cntc x) s 0) ∧
      (num < 8 → (foreign → bits pmc.cfg.toNat 0 8 = 0) → gives (.cntc x) (put { pmc with count := v }) 1) ∧
      (8 ≤ num → num < 0x10 → (foreign → bits pmc.cfg.toNat 0 8 = 0) →
        gives (.cntc x) (put ⟨BitVec.ofNat 64 (bits v.toNat 0 12), 0, t.guest⟩) 1) ∧
      (∀ c, 0x10 ≤ num → num < 0x15 → s.crewOf s.cur = some c →
        gives (.cntc x) (s.modCrew c.key (fun q => { q with prefetch := sset 0 q.prefetch (num - 0x10) v })) 1) ∧
      (0x10 ≤ num → num < 0x15 → s.crewOf s.cur = none → gives (.cntc x) s 1 ∧
        ∀ u, exec (.cntc x) s = .next u → u.now.prefetch = sset 0 t.prefetch (num - 0x10) v) ∧
      (0x20 ≤ num → num < 0x50 → gives (.cntc x) (s.modHub (fun u => { u with
        counters := sset 0 u.counters (if num < 0x40 then migKey (t.cntGuest sel) num else num) v })) 1) ∧
      (0x50 ≤ num → gives (.cntc x) (s.modHome (num - 0x50) (fun h => { h with rejections := v })) 1))) ∧
    (ready .pgcnt x s = true → kindOf x.d = .s →
      let s1 := s.unwait
      let va := s1.addrOf .pgcnt { x with b := .none } 1 0
      let peer := fun pa => selector pa = 3 ∧ bits pa 39 6 ≠ s.pkg.pkg
      (s1.parkedAt (s1.xctx s.cur) va = some none → gives (.pgcnt x) s (BitVec.ofNat 64 (2 ^ 60))) ∧
      (∀ g, s1.parkedAt (s1.xctx s.cur) va = some (some g) → exec (.pgcnt x) s = .next (s1.takeTrap s.cur 6 va (1 + 16 * g) 1)) ∧
      (∀ tr pa s2, s1.parkedAt (s1.xctx s.cur) va = none → s1.translate (s1.xctx s.cur) va .load false = (.ok tr pa, s2) →
        s2.rejected pa (agentOf core) s2.now.guest (s2.now.mode == .fw) = none →
        (¬ peer pa → gives (.pgcnt x) s2 (BitVec.ofNat 64 (s2.countReport pa t.guest (modeRank t.mode < 2)))) ∧
        (peer pa → gives (.pgcnt x) (s2.send (.countRequest (bits pa 39 6) pa t.guest))
          (BitVec.ofNat 64 (peerCount (Config.peerReport s2.tick) (modeRank t.mode < 2)))))) ∧
    (ready .tstp x s = true → kindOf x.d = .s → s.unwritten s.cur = false →
      (x.a = .none → gives (.tstp x) s s.cycles) ∧
      (x.a ≠ .none → gives (.tstp x) s (s.cycles - BitVec.ofNat 64 sel)))

/-! ### Saving and restoring -/

/-- R203 to R210: a save form at a 64-byte aligned address whose record can be written stores the header and the items of what it
saves; SVSB then empties the store buffer. R203: an address that is not aligned raises ALIGNMENT.
The order of the checks, and lane 0 in %tmask, are the model's readings (log entries 26, 49). -/
def Obligations.SaveForms : Prop :=
  ∀ (x : Args) (s : State),
    let s1 := s.unwait
    let t := s.now
    let va := s.scalar x.a
    let k := s.kernelOf s.cur
    let misaligned := fun (o : Op) (i : Instr) =>
      memReady o x s = true → va % 64 ≠ 0 → exec i s = .next (s1.takeTrap s.cur 7 va 64 1)
    let reached := fun (o : Op) (n : Nat) (l : List RecByte) s2 =>
      memReady o x s = true ∧ va % 64 = 0 ∧ s1.recRange va n true = .ok (l, s2) ∧ s2.storesDue va n l = false ∧
      (∀ b ∈ l, s2.cursorMig b.pa = none ∧ s2.routeOpen (coreOf s.cur) b.pa = true) ∧
      s2.backWaits (coreOf s.cur) (fun a => l.any (fun b => b.pa / 128 == a / 128)) = false
    let writes := fun (i : Instr) (s2 : State) (l : List RecByte) (bs : List Byte) =>
      exec i s = .next ((s2.recWrite s.cur va (l.map RecByte.pa) bs []).modNow Hart.advance)
    misaligned .svsb (.svsb x) ∧ misaligned .svss (.svss x) ∧ misaligned .svacc (.svacc x) ∧ misaligned .svchk (.svchk x) ∧
    misaligned .ldsb (.ldsb x) ∧ misaligned .ldss (.ldss x) ∧ misaligned .ldacr (.ldacr x) ∧ misaligned .ldchk (.ldchk x) ∧
    (∀ l s2, reached .svsb (64 + 160 * t.sb.length) l s2 →
      let marks := (t.sb.mapIdx (fun i e => e.poison.map (fun o => 64 + 160 * i + 32 + o))).flatten
      let bs := recHeader 1 t.W t.sb.length t.uasc (s.tagOf s.cur) ++ (t.sb.map SbEntry.item).flatten
      let s3 := s2.recWrite s.cur va (l.map RecByte.pa) bs marks
      ∃ (u : State) (b : Bound), exec (.svsb x) s = .next u ∧ u.now.pc = t.pc + 12 ∧ registersKept t u.now ∧ u.now.sb = [] ∧ u.now.uasc = 0 ∧
        (∀ a, u.byte a = s3.byte a) ∧ u.mem.bound = s3.mem.bound ++ [b] ∧ b.tag = s.tagOf s.cur ∧ b.recVa = va ∧
        b.recPa = (l.map RecByte.pa).headD 0) ∧
    (∀ l s2, reached .svss (64 + t.depth * entrySize t.W) l s2 →
      (t.spilled = 0 → writes (.svss x) s2 l (recHeader 2 t.W t.depth 0 0 ++ (t.stack.reverse.map (fun e => e.bytes t.W)).flatten)) ∧
      (∀ low bad s3, t.spilled ≠ 0 → s2.privLoad s.cur t.spillBase (t.spilled * entrySize t.W) .spill = .ok (low, bad, s3) →
        writes (.svss x) s3 l (recHeader 2 t.W t.depth 0 0 ++ low ++ (t.stack.reverse.map (fun e => e.bytes t.W)).flatten))) ∧
    (∀ l s2 c, s.crewOf s.cur = some c → reached .svacc (64 + k.acc * recItem 3 0) l s2 →
      (∀ i, i < k.acc → c.openOn i = false ∧ s.tileBusy c i = false) → s.ldaccOut c k.acc = false →
      writes (.svacc x) s2 l (recHeader 3 t.W k.acc 0 0 ++ ((List.range k.acc).map (fun i => (c.tile i).image)).flatten)) ∧
    (∀ l s2 c, s.crewOf s.cur = some c → reached .svchk (64 + k.chucks * recItem 4 0) l s2 →
      k.chucks = 0 ∨ c.chains = [] ∧ (∀ i, i < k.chucks → s.chuckLoading c i = false) →
      writes (.svchk x) s2 l (recHeader 4 t.W k.chucks 0 0 ++ ((List.range k.chucks).map (fun i => (c.chuck i).image)).flatten))

/-- R203, R204, R207 to R211: a restore form of a record that can be read takes back what the record holds; a header of another kind or
shape, or with more than the team has, raises RESTORE-CAPACITY and changes nothing that the form restores.
The order of the checks and what a restore recomputes are the model's reading (log entry 49). -/
def Obligations.RestoreForms : Prop :=
  ∀ (x : Args) (s : State) (l : List RecByte) (hd : Nat) (bs : List Byte) (bad : List Nat) (s5 : State),
    let t := s.now
    let va := s.scalar x.a
    let k := s.kernelOf s.cur
    let n := bits hd 32 16
    let took := fun (o : Op) (kind : Nat) => memReady o x s = true ∧ recordRead kind s va = some (l, hd, bs, bad, s5)
    let good := fun (kind cap : Nat) (width : Bool) =>
      bits hd 0 8 = kind ∧ bits hd 8 8 = 1 ∧ (width = true → bits hd 16 16 = t.W) ∧ n ≤ cap
    let refused := fun (o : Op) (i : Instr) (kind cap : Nat) (width : Bool) => memReady o x s = true → va % 64 = 0 →
      ∀ hl s2, s.unwait.recRange va 64 false = .ok (hl, s2) → s2.recBusy hl = false →
        let r := s2.recRead va hl
        r.2.2.1 = none →
        let h := ofBytes r.1
        let trap := fun reason have_ => exec i s = .next (r.2.2.2.takeTrap s.cur 0xA va (reason + bits h 32 16 * 2 ^ 8 + have_ * 2 ^ 24) 0)
        (bits h 0 8 ≠ kind ∨ bits h 8 8 ≠ 1 → trap 2 0) ∧
        (bits h 0 8 = kind → bits h 8 8 = 1 → width = true → bits h 16 16 ≠ t.W → trap 3 0) ∧
        (bits h 0 8 = kind → bits h 8 8 = 1 → (width = true → bits h 16 16 = t.W) → cap < bits h 32 16 → trap 4 cap)
    refused .ldss (.ldss x) 2 t.place.sslimit true ∧ refused .ldacr (.ldacr x) 3 k.acc false ∧
    refused .ldchk (.ldchk x) 4 k.chucks false ∧ (t.sb = [] → t.uasc = 0 → refused .ldsb (.ldsb x) 1 64 true) ∧
    (took .ldsb 1 → t.sb = [] → t.uasc = 0 → good 1 64 true →
      ∃ u : State, exec (.ldsb x) s = .next u ∧ u.now.pc = t.pc + 12 ∧ registersKept t u.now ∧ (∀ a, u.byte a = s5.byte a) ∧
        u.now.ctx = bits hd 96 20 ∧ u.now.sb.length = n ∧
        u.now.uasc = (bits hd 64 16 + 2 ^ 16 - s5.natAt (s5.readAddr ((l.map RecByte.pa).getD 10 0)) 2) % 2 ^ 16 ∧
        ∀ i, i < n → u.now.sb[i]? = some (SbEntry.ofItem t s5.nextId (s5.itemIo (recPart bs 160 i)) (recPart bs 160 i) (fun q => bad.contains (2 + 5 * i + 1 + q)))) ∧
    (took .ldss 2 → good 2 t.place.sslimit true →
      let item := fun i => recPart bs (entrySize t.W) i
      let es := ((List.range n).map (fun i => SEntry.ofBytes t.W (item i))).reverse
      ((∃ i, i < n ∧ stackItemOk t.W (i == 0) (item i) = false) →
        exec (.ldss x) s = .next (s5.takeTrap s.cur 0xA va (5 + n * 2 ^ 8) 0)) ∧
      ((∀ i, i < n → stackItemOk t.W (i == 0) (item i) = true) → n ≤ 16 →
        ∃ u : State, exec (.ldss x) s = .next u ∧ u.now.pc = t.pc + 12 ∧ registersKept t u.now ∧ u.mem = s5.mem ∧ u.now.stack = es ∧
          u.now.spilled = 0 ∧ u.now.exec = t.exec ∧ u.now.live = t.live)) ∧
    (∀ c, s.crewOf s.cur = some c → took .ldacr 3 → good 3 k.acc false →
      (∀ i, i < n → c.openOn i = false ∧ s.tileBusy c i = false) → s.ldaccOut c n = false →
      exec (.ldacr x) s = .next (((List.range n).foldl (fun u i => u.modCrew c.key (fun q =>
        q.setTile i ((q.tile i).ofImage (recPart bs (recItem 3 0) i)))) s5).modNow Hart.advance)) ∧
    (∀ c, s.crewOf s.cur = some c → took .ldchk 4 → good 4 k.chucks false →
      n = 0 ∨ c.chains = [] ∧ (∀ i, i < n → s.chuckLoading c i = false) →
      exec (.ldchk x) s = .next (((List.range n).foldl (fun u i => u.modCrew c.key (fun q =>
        q.setChuck i (Chuck.ofImage (recPart bs (recItem 4 0) i)))) s5).modNow Hart.advance))

/-! ### Steps of the hardware -/

/-- R69, R72, R162, R206, R228, R248, R254, R406, R437: what comes back to a team. A sector fills its lanes, a reply its registers and
flags, an acknowledgement is counted down, the last reply of a CAS or LDP may demote the path, a held poll is answered, spilled
entries come back, an evicted line leaves its cache, and a walk changes no register.
The order in which they come is the model's (log entry 4). -/
def Obligations.MemoryEvents : Prop :=
  ∀ (s : State),
    let calm := fun (t : State) => ∀ h, registersKept (s.hart h) (t.hart h)
    (∀ load sector l q, s.mem.loads.find? (fun k => k.id == load) = some l → l.sectors.find? (fun k => k.addr == sector) = some q →
      s.sectorReady l q = true →
      let r := s.sectorBytes l q
      ∃ (t : State) (get : Nat → Byte) (l' : Load), t = s.sectorDone l q ∧ exec (.sectorReturn load sector) s = .next t ∧
        (∀ a, get a = ((r.1.find? (fun p => p.1 == a)).map Prod.snd).getD 0) ∧ l'.sectors = l.sectors.erase q ∧ l'.fills = l.fills ∧
        (l.prefetch = false → t.hart l.hart = ((r.2.2.hart l.hart).fillPieces q.pieces get).completeWords l' q.pieces) ∧
        (l.prefetch = true → registersKept (r.2.2.hart l.hart) (t.hart l.hart)) ∧
        (∀ h, h ≠ l.hart → t.hart h = r.2.2.hart h) ∧ (∀ a, t.byte a = r.2.2.byte a) ∧
        (l.sectors.length = 1 → ∀ k ∈ t.mem.loads, k.id ≠ load)) ∧
    (∀ (reply : Nat) (r : Reply), s.mem.replies.find? (fun k => k.id == reply) = some r →
      (r.dem = false → ∃ t : State, t = s.replied r ∧ exec (.registerReply reply) s = .next t ∧ (∀ k ∈ t.mem.replies, k.id ≠ reply) ∧
        scalarsKept ((s.hart r.hart).deliver r.regs) (t.hart r.hart) ∧
        vectorsKept ((s.hart r.hart).deliver r.regs) (t.hart r.hart) ∧
        (t.hart r.hart).fflags = (s.hart r.hart).fflags ||| r.flags ∧
        (∀ h, h ≠ r.hart → registersKept (s.hart h) (t.hart h)) ∧ (r.counts = none → memoryKept s t)) ∧
      (r.dem = true → ∀ t, (s.replied r).settleDemotion r.hart r.group r.ok = .ok t → exec (.registerReply reply) s = .next t) ∧
      (r.dem = true → ∀ f, (s.replied r).settleDemotion r.hart r.group r.ok = .error f →
        exec (.registerReply reply) s = .next (s.waitSpill r.hart f))) ∧
    (∀ reply l, s.mem.replies.find? (fun k => k.id == reply) = none → s.mem.loads.find? (fun k => k.id == reply) = some l →
      s.scalarReady l = true → exec (.registerReply reply) s = .next (s.scalarReply l)) ∧
    (∀ reply k, s.mem.replies.find? (fun k => k.id == reply) = none → s.mem.loads.find? (fun k => k.id == reply) = none →
      s.hub.kvx.find? (fun k => k.id == reply) = some k → exec (.registerReply reply) s = .next (s.kvxReply k)) ∧
    (∀ h, ∃ t : State, exec (.storeBufferDeparture h) s = .next t ∧ t = (s.depart h).getD s ∧ calm t ∧
      ((t.hart h).sb = (s.hart h).sb ∨ (t.hart h).sb = (s.hart h).sb.tail) ∧ ((s.hart h).sb = [] → t = s)) ∧
    (∀ ack a, s.mem.acks.find? (fun k => k.id == ack) = some a →
      (a.dem = none → ∃ t : State, t = s.acked a ∧ exec (.storeAcknowledgement ack) s = .next t ∧ t.mem.acks = s.mem.acks.erase a ∧
        calm t ∧ (s.mem.bound.find? (fun b => b.tag == a.tag) = none → memoryKept s t ∧
          ∀ h, (s.harts.map Prod.fst).find? (fun k => s.tagOf k == a.tag) = some h →
            (t.hart h).uasc = (s.hart h).uasc - 1)) ∧
      (∀ h g ok t, a.dem = some (h, g, ok) → (s.acked a).settleDemotion h g ok = .ok t →
        exec (.storeAcknowledgement ack) s = .next t) ∧
      (∀ h g ok f, a.dem = some (h, g, ok) → (s.acked a).settleDemotion h g ok = .error f →
        exec (.storeAcknowledgement ack) s = .next (s.waitSpill h f))) ∧
    (∀ (req : Nat) (r : Req), s.mem.reqs.find? (fun k => k.id == req && k.kind.isLdp && k.parked && k.released) = some r →
      exec (.ldpHoldRelease req) s = .next (if s.laneAhead r true = true then s else s.answerLdp r)) ∧
    (∀ (req : Nat) (r : Req), s.mem.reqs.find? (fun k => k.id == req && k.kind.isLdp && k.parked && k.since + 4096 ≤ s.cycles.toNat) = some r →
      exec (.ldpHoldTimeout req) s = .next (if s.laneAhead r true = true then s else s.answerLdp r)) ∧
    (∀ r, r.kind.isLdp = true → r.parked = true → selector r.pa < 14 →
      ∃ p, (s.answerLdp r).mem.replies = s.mem.replies ++ [p] ∧ p.id = r.id ∧ p.hart = r.hart ∧
        ∀ k ∈ (s.answerLdp r).mem.reqs, k.id ≠ r.id) ∧
    (∀ h s1, (s.hart h).spilled ≠ 0 → (s.hart h).stack.length < 16 → s.refill h = .ok s1 →
      ∃ (t : State) (e : SEntry), exec (.splitStackRefill h) s = .next t ∧
        t = s1.modHart h (fun u => { u with sched := { u.sched with wait := .none } }) ∧ calm t ∧
        (t.hart h).stack = (s.hart h).stack ++ [e] ∧ (t.hart h).spilled + 1 = (s.hart h).spilled ∧ (t.hart h).sched.wait = .none) ∧
    (∀ cluster cache line, s.cursorMig (line * 128) = none →
      (cluster = true ∧ s.routeOpen (8 * cache) (line * 128) = true ∨ cluster = false ∧ cache < 192) →
      ∃ t : State, exec (.scopedCacheEviction cluster cache line) s = .next t ∧ calm t ∧
        ∀ a, a / 128 = line → (if cluster = true then t.cluster cache else (t.core cache).l1).get a = none) ∧
    (∀ h va acc, ∃ t : State, exec (.translationWalk h va acc) s = .next t ∧
      t = (s.translate (s.xctx h) va.toNat acc (acc == .store || acc == .atomic)).2 ∧ calm t ∧ ∀ g, (t.hart g).pc = (s.hart g).pc)

/-- R313 to R316, R335, R344, R348, R355, R356, R390, R393, R397: the steps of the engines and of the keeping hardware. A copy, drain, load,
softmax operation or chain whose work is done reports its status and is no longer there; a completed operation fills the register
that holds its future; an update is applied once, and acknowledged.
That each is one step is the model's reading (log entries 23, 32). -/
def Obligations.EngineEvents : Prop :=
  ∀ (s : State),
    (∀ (crew : Nat) (c : Crew) (ch : Chain) (q : QMma) (rest : List QMma), s.crew? crew = some c →
      c.chains.find? (fun k => !k.queue.isEmpty) = some ch → ch.queue = q :: rest →
      ∃ t : State, exec (.mmaCompletion crew) s = .next t ∧ t = s.runMma c ch q ∧ t.harts = s.harts ∧ t.mem = s.mem) ∧
    (∀ (crew : Nat) (c : Crew) (ch : Chain), s.crew? crew = some c → c.chains.find? (fun k => k.closed && k.queue.isEmpty) = some ch →
      ∃ (t : State) (k : Crew), exec (.chainCompletion crew) s = .next t ∧ t.harts = s.harts ∧ t.crew? crew = some k ∧
        k.chains = c.chains.filter (· != ch) ∧ k.tiles = c.tiles ∧
        (c.draining = false → ch.fmt.red = false → t = (s.modCrew crew (fun q => { q with chains := q.chains.filter (· != ch) })).engineArrive
          crew ch.bar (ch.status ||| 1) (bits (ch.status ||| 1) 8 8))) ∧
    (∀ (crew op : Nat) (c : Crew) (o : AOp) (q src : Nat) (ty : Ty) (tr : Bool) (seen : Sparse Byte), s.crew? crew = some c → s.op? op = some o →
      o.crew = crew → o.kind = .chuckLoad q src ty tr seen →
      exec (.chuckLoadCompletion crew op) s = .next ((if o.cancelled = true then s
        else s.modCrew crew (fun k => k.setChuck q (c.loadedChuck s.tick seen (fmtCode ty) src tr))).completeOp o 0)) ∧
    (∀ (crew op : Nat) (c : Crew) (o : AOp) (tl : Nat) (ty : Ty) (tr clear addst amax : Bool) (rnd : Nat) (fpm : BitVec 7) (dst ctl : Nat),
      s.crew? crew = some c → s.op? op = some o → o.crew = crew →
      o.kind = .drain tl ty tr clear addst amax rnd fpm dst ctl → s.opReleased o = true →
      let d := drainCtl ctl
      (o.cancelled = true → exec (.drainCompletion crew op) s = .next (s.completeOp o 128)) ∧
      (o.cancelled = false → d.scr = true ∨ s.backWaits o.core (fun _ => true) = false →
        let work := (if d.scr = true then s else s.release o.core 2).drainOut o (s.drainTile c tl) ty tr addst (envOf fpm rnd) dst d
        let gives := fun st code => exec (.drainCompletion crew op) s = .next (s.drainEnd st c o tl clear amax d work.1 code work.2.2)
        (∀ bs st, work.2.1 = .ok bs st → gives st 0) ∧ (∀ code st, work.2.1 = .fail code st → gives st code) ∧
        (∀ st, work.2.1 = .wait none st → exec (.drainCompletion crew op) s = .next (s.keepPromos st)))) ∧
    (∀ (c : Crew) (o : AOp) (st : State) (tl : Nat) (clear amax : Bool) (d : DrainCtl) (fl code a : Nat),
      let t := s.drainEnd st c o tl clear amax d fl code a
      (∀ p ∈ t.run.ops, p.id ≠ o.id) ∧ (clear = true → ∀ k, t.crew? o.crew = some k → (k.tile tl).cells = [])) ∧
    (∀ (crew op : Nat) (c : Crew) (o : AOp) (tl bar : Nat), s.crew? crew = some c → s.firstSoftmax crew = some o → o.id = op → o.kind = .mscl tl bar →
      ∃ t : State, exec (.msclCompletion crew op) s = .next t ∧ t = s.msclEnd c o tl bar ∧ (∀ p ∈ t.run.ops, p.id ≠ op) ∧
        t.harts = s.harts ∧ ∀ k r, t.crew? crew = some k → r < 64 → ((k.tile tl).row r).c.toNat = one32) ∧
    (∀ (crew op : Nat) (c : Crew) (o : AOp) (tl bar : Nat) (b : MsmxBlock), s.crew? crew = some c → s.firstSoftmax crew = some o → o.id = op →
      o.kind = .msmx tl bar b →
      let work := s.msmxTable o c tl b
      let gives := fun st => exec (.msmxCompletion crew op) s = .next (s.msmxEnd st c o tl bar b)
      (∀ bs st, work.1 = .ok bs st → gives (if b.score = true then st.acquire o.core 2 else st)) ∧
      (∀ code st, work.1 = .fail code st → gives (st.crewFault crew 0x22 0 false (code * 256) b.sctab)) ∧
      (∀ st, work.1 = .wait none st → exec (.msmxCompletion crew op) s = .next (s.keepPromos st)) ∧
      (b.score = false → work.1 = .ok [] s) ∧
      ∀ st, ∀ p ∈ (s.msmxEnd st c o tl bar b).run.ops, p.id ≠ op) ∧
    (∀ (engine e : Nat) (o : AOp) (c : CopyCmd), (sget [] s.run.engines engine).findSome? (fun id => (s.op? id).filter (fun o => o.status.isNone)) = some o →
      o.kind = .copy e c → s.opReleased o = true →
      let i : Instr := .copyCommandStart engine
      (o.cancelled = true → exec i s = .next (s.opDone o.id (9 * 256) 0)) ∧
      (o.cancelled = false → c.bad = true → exec i s = .next (s.opDone o.id (10 * 256) 0)) ∧
      (o.cancelled = false → c.bad = false → (2 ≤ o.scope → s.backWaits o.core (fun _ => true) = false) →
        let r := State.copyFrom o (engineAgent engine) (((s.crew? o.crew).map Crew.kernel).getD Kernel.none) c (c.xn * c.yn * c.zn) 0 none 0
          (s.release o.core o.scope)
        (∀ fl t, r = .done fl t → exec i s = .next (t.opDone o.id fl.toNat 0)) ∧
        (∀ code a fl t, r = .fail code a fl t → exec i s = .next (t.opDone o.id (fl.toNat + code * 256) a)) ∧
        (∀ t, r = .wait none t → exec i s = .next (s.keepPromos t)))) ∧
    (∀ (op : Nat) (o : AOp) (st : Nat), s.op? op = some o → o.status = some st → (∀ p ∈ s.run.engines, op ∉ p.2 ∨ p.2.head? = some op) →
      exec (.futureCompletion op) s = .next (s.completeOp o st)) ∧
    (∀ op st h, s.op? op = none → s.run.pending.find? (fun p => p.1 == op) = some (op, st, h) → (∀ c ∈ s.run.crews, c.launch ≠ op) →
      ∃ t : State, exec (.futureCompletion op) s = .next t ∧ t = s.completeLaunch op st h ∧ (∀ l ∈ t.run.launches, l.id ≠ op)) ∧
    (∀ (o : AOp) (st : Nat), (∀ p ∈ (s.completeOp o st).run.ops, p.id ≠ o.id) ∧
      ∀ r, o.dreg = some r → r ≠ 0 → (s.hart o.hart).getS r = ⟨.future, o.handle⟩ →
        ((s.completeOp o st).hart o.hart).getS r = ⟨.full, o.handle + BitVec.ofNat 64 (st * 2 ^ 48)⟩) ∧
    (∀ crew c value, s.crew? crew = some c → ∃ (t : State) (k : Crew), exec (.tagmapClear crew value) s = .next t ∧ t.harts = s.harts ∧ t.mem = s.mem ∧
      t.crew? crew = some k ∧ k.tagmap = c.tagmap &&& ~~~value ∧ k.tagCount = c.tagCount) ∧
    (∀ (region dot member : Nat) (o : OutRec), (s.outQueue region).find? (fun q => q.unsent.contains member) = some o → o.upd.dot.toNat = dot →
      s.linkFree (portOut (s.portOf member)) = true →
      let at_ := s.region region 160 52 + 64 * o.slot
      (s.badRange at_ 64 = true → exec (.updateSend region dot member) s = .next (s.ras at_)) ∧
      (s.badRange at_ 64 = false → ∃ t : State, exec (.updateSend region dot member) s = .next t ∧
        t.outbox = s.outbox ++ [.update member o.upd] ∧ t.harts = s.harts ∧ t.mem = s.mem ∧
        (t.outQueue region).map OutRec.upd = (s.outQueue region).map OutRec.upd)) ∧
    (∀ region dot member, ∃ t : State, exec (.updateAck region dot member) s = .next t ∧ t.harts = s.harts ∧ t.mem = s.mem ∧
      t.outQueue region = ((s.outQueue region).map (fun o =>
        if o.upd.dot.toNat = dot then { o with unacked := o.unacked.filter (· != member) } else o)).filter
          (fun o => !o.unacked.isEmpty)) ∧
    (∀ u : Update,
      let clear := ∀ v ∈ s.hub.stalled, s.portOf v.origin ≠ s.portOf u.origin
      let queued := exec (.keepingUpdateApply u) s = .next
        ((s.modHub (fun h => { h with stalled := h.stalled ++ [u] })).queueFlit (portOut (s.portOf u.origin) + 1))
      (∀ pa, clear → s.cellPa u.region u.cell = some pa → (s.cellView pa).vec.covers u.dot.toNat = true →
        exec (.keepingUpdateApply u) s = .next (s.send (.updateAck u.origin u.region u.dot.toNat))) ∧
      (∀ t, clear → s.heldFor u.region u.origin u.cell = false → s.applyUpdate u = some t →
        exec (.keepingUpdateApply u) s = .next (t.send (.updateAck u.origin u.region u.dot.toNat))) ∧
      (clear → s.heldFor u.region u.origin u.cell = false → s.applyUpdate u = none →
        (s.holdFull u.region = false → exec (.keepingUpdateApply u) s = .next (s.hold u.region u.cell (.update u))) ∧
        (s.holdFull u.region = true → queued)) ∧
      (¬ clear → queued)) ∧
    (∀ region, ∃ t : State, exec (.holdQueueRetry region) s = .next t ∧ t.harts = s.harts ∧ (∀ u ∈ t.hub.stalled, u ∈ s.hub.stalled) ∧
      (s.hub.stalled = [] → (t.holdQueue region).length ≤ (s.holdQueue region).length ∧ ∀ h ∈ t.holdQueue region, h ∈ s.holdQueue region)) ∧
    (∀ req r t, s.mem.reqs.find? (fun k => k.id == req && k.parked && !k.kind.isLdp) = some r → s.cursorMig r.pa = none →
      s.performHome { r with parked := false } = some t → exec (.krecDeferred req) s = .next t)

/-- R252, R267, R420, R428 to R430, R452, R453, R455, R459, R463, R464, R239, R487: the steps of the homes, of peer packages and of POOL ownership.
Which lines a failed holder had, that the halves of a joined unit belong to one guest, and firmware's shootdown as a second step are the model's
readings (log entries 15, 96, 97). -/
def Obligations.HomeEvents : Prop :=
  ∀ (s : State),
    let wordHere := fun (page : Nat) => ∀ i, i < 8 → s.homeFailed (s.pkg.sys.poolmeta + 8 * page + i) = false
    (∀ agent guest pa, exec (.rd agent guest pa) s = .next (s.cohTouch agent guest false (pa / 128) false false).1 ∧
      exec (.rdx agent guest pa) s = .next (s.cohTouch agent guest false (pa / 128) true false).1) ∧
    (∀ agent guest line write, (s.cohTouch agent guest false line write false).1.harts = s.harts) ∧
    (∀ (req : Nat) (r : Req), s.mem.reqs.find? (fun k => k.id == req && !k.parked && !k.ru) = some r → s.windowHolds req = false →
      s.reachable r.core r.level r.pa r.kind.writes = true → s.storeAhead r = false →
      s.laneAhead r (!s.wouldHold r) = false → (selector r.pa = 14 → s.mmioBusy r.mode r.pa = false) →
      (∀ t, (r.kind.writes = false ∧ r.kind.keeping = false) ∨ s.cursorMig r.pa = none →
        r.weak = true ∨ r.level < 2 ∨ s.backWaits r.core (fun a => a / 128 == r.pa / 128) = false → s.performHome r = some t →
        exec (.homeAccess req) s = .next t) ∧
      (∀ m, r.kind.writes = true ∨ r.kind.keeping = true → s.cursorMig r.pa = some m →
        exec (.homeAccess req) s = .next (s.holdWrite m req))) ∧
    (∀ (req : Nat) (r : Req) (op : Nat) (ty : Ty) (b : Nat), s.mem.reqs.find? (fun k => k.id == req && k.ru) = some r →
      r.kind = .redu op ty b → s.cursorMig r.pa = none → s.backWaits r.core (fun a => a / 128 == r.pa / 128) = false →
      ∃ (t : State) (a : Ack), exec (.reduAtAgent req) s = .next t ∧ t.harts = s.harts ∧ (∀ k ∈ t.mem.reqs, k.id ≠ req) ∧
        t.mem.acks = s.mem.acks ++ [a] ∧ a.id = r.id ∧ a.tag = r.tag) ∧
    (∀ (home : Home) (base size : Nat) (a b : DirEntry),
      let m := s.home (homeNo home)
      let half := 2 ^ (size - 1)
      let quiet := fun (e : DirEntry) => 2 ^ m.mquiet < (s.cycles.toNat % 2 ^ 42 + 2 ^ 42 - e.last * 1024) % 2 ^ 42
      1 ≤ size → size ≤ 9 → base % 2 ^ size = 0 → m.merge = true →
      m.dir.find? (fun e => e.base == base && e.size == size - 1) = some a →
      m.dir.find? (fun e => e.base == base + half && e.size == size - 1) = some b → quiet a → quiet b → a.guest = b.guest →
      (a.state = b.state ∧ (a.state = 1 ∨ a.state = 4)) ∨
        ((a.state = 2 ∨ a.state = 3) ∧ (b.state = 2 ∨ b.state = 3) ∧ a.owner = b.owner) ∨ a.state = 0 ∨ b.state = 0 →
      ∃ (t : State) (e : DirEntry), exec (.unitMerge home base size) s = .next t ∧
        (t.home (homeNo home)).dir = m.dir.filter (fun d => d != a && d != b) ++ [e] ∧ e.base = base ∧ e.size = size ∧
        e.state = max a.state b.state ∧ e.guest = a.guest ∧ (∀ k, k ∈ e.hold ↔ k ∈ a.hold ∨ k ∈ b.hold) ∧ t.harts = s.harts ∧
        memoryKept s t) ∧
    (∀ agent guest pa data h, homeOf pa = some h →
      (∃ e ∈ (s.home h).dir, e.covers (pa / 128) = true ∧ e.state = 3 ∧ e.owner = agent ∧ e.guest = guest) → s.cursorMig pa = none →
      let w := s.cohPoke noHart ((data.filter (fun p => p.1 < 128)).map (fun p => (pa / 128 * 128 + p.1, p.2))) []
      ∃ t : State, exec (.writeBackArrival agent guest pa data) s = .next t ∧ t.mem.cells = (w.count pa true).mem.cells ∧ t.harts = s.harts ∧
        ∀ e ∈ (t.home h).dir, e.covers (pa / 128) = true → e.last = s.lastStamp) ∧
    (∀ pkg guest at_ kind,
      let pa := s.normPa at_
      (match kind with | .rdx => s.cursorMig pa = none | .write _ => s.cursorMig pa = none | _ => True) →
      ∃ (t : State) (d : List Byte), exec (.peerRequest pkg guest at_ kind) s = .next t ∧ t.outbox.getLast? = some (.peerReply pkg pa d) ∧
        t.harts = s.harts) ∧
    (∀ pkg pa recalled, ∃ (t : State) (d : List Byte), exec (.peerInvalidation pkg pa recalled) s = .next t ∧
      t.outbox.getLast? = some (.peerReply pkg pa d) ∧ (recalled = false → d = []) ∧ t.harts = s.harts) ∧
    (∀ agent pkg, ∃ t : State, exec (.holderFailure agent pkg) s = .next t ∧ t.harts = s.harts ∧ memoryKept s t ∧
      (agent ≠ 4 → ∀ h, h < 4 → ∀ e ∈ (t.home h).dir, agent ∉ e.hold)) ∧
    (∀ die, s.unshot die = [] → ∃ t : State, exec (.homeLoss die) s = .next t ∧ t.harts = s.harts ∧ memoryKept s t ∧
      ∀ h ∈ homesOn die, (t.home h).failed = true ∧ ((s.home h).failed = false → (t.home h).dir = [])) ∧
    (∀ die, s.unshot die ≠ [] → exec (.homeLoss die) s =
      .next ((s.unshot die).foldl (fun st h => st.shoot h (fun a => homeOf a == some h)) s)) ∧
    (∀ n lost, n ∈ (s.shoot n lost).pkg.shot ∧ (s.shoot n lost).harts = s.harts ∧
      (s.mem.frames.filter (fun p => lost (p.1 * 4096) && p.2.ptea != 0) = [] → memoryKept s (s.shoot n lost))) ∧
    (∀ pa, pa < 2 ^ 52 → pa / 32 ∉ s.mem.marks → ∃ t : State, exec (.onDieCheckFail pa) s = .next t ∧ memoryKept s t ∧
      t.mem.marks = s.mem.marks ++ [pa / 32] ∧ t.harts = s.harts) ∧
    (∀ cell, exec (.onDieCheckFail (2 ^ 52 + cell)) s = .next (s.setCellRec cell { s.cellRec cell with bad := true })) ∧
    (∀ page pkg,
      let w := s.ownWord page
      let mine := ownState w = 1 ∧ ownOwner w = s.pkg.pkg
      let f := s.frame (s.pageOf (poolAddr page / 4096)).1
      let free := s.mayGrant page = true ∧ (∀ r ∈ s.hub.ownWait, r.page ≠ page) ∧ (∀ c ∈ s.hub.changing, c.page ≠ page) ∧
        s.pkg.sys.metapkg = s.pkg.pkg
      let queued := s.modHub (fun u => { u with ownWait := u.ownWait ++ [⟨page, pkg, s.cycles.toNat, false⟩] })
      (¬ mine → exec (.ownershipReq page pkg) s =
        .next (s.send (.redirect page pkg (if ownState w = 2 then ownTo w else ownOwner w)))) ∧
      (mine → free → exec (.ownershipReq page pkg) s = .next (s.grantTo page pkg)) ∧
      (mine → ¬ free → f.pin = 0 → exec (.ownershipReq page pkg) s = .next queued) ∧
      (mine → ¬ free → f.pin ≠ 0 → ∃ t : State, exec (.ownershipReq page pkg) s = .next t ∧ t = queued.waitPinned page ∧
        t.harts = s.harts ∧ .wait page pkg ∈ t.outbox ∧ ∀ r ∈ t.hub.ownWait, r.page = page → r.waited = true)) ∧
    (∀ page r, s.hub.ownWait.find? (fun k => k.page == page) = some r → s.owns page = true → s.mayGrant page = true →
      (∀ c ∈ s.hub.changing, c.page ≠ page) → exec (.delayedGrant page) s = .next (s.grantTo page r.dest)) ∧
    (∀ page (data : List (Nat × Byte)),
      let s1 := s.cohPoke noHart ((data.filter (fun p => p.1 < 4096)).map (fun p => (poolAddr page + p.1, p.2))) []
      let w := s1.ownWord page
      let r := (s1.pokeNat (s.pkg.sys.poolmeta + 8 * page) 8 (ownNext w (ownOwner w) 2 s.pkg.pkg)).takeOwn page
      exec (.grant page data) s = .next (if r.1 = true then r.2.granted page else r.2) ∧
      (s.pkg.sys.metapkg = s.pkg.pkg → s.pkg.pkg < 64 → wordHere page → r.1 = true ∧ (r.2.granted page).owns page = true ∧
        ∀ k ∈ (r.2.granted page).hub.ownSent, k.page ≠ page)) ∧
    (∀ page pkg, (∃ r ∈ s.hub.ownSent, r.page = page) → ∃ t : State, exec (.redirect page pkg) s = .next t ∧
      t.outbox = s.outbox ++ [.ownReq page pkg] ∧ (∀ r ∈ t.hub.ownSent, r.page = page → r.dest = pkg) ∧ t.mem = s.mem) ∧
    (∀ page, ∃ t : State, exec (.wait page) s = .next t ∧ (∀ r ∈ t.hub.ownSent, r.page = page → r.waited = true) ∧ t.mem = s.mem ∧
      t.harts = s.harts) ∧
    (∀ page r, s.hub.ownSent.find? (fun k => k.page == page) = some r → r.at_ + 1048576 ≤ s.cycles.toNat →
      ∃ t : State, exec (.ownershipTimeout page) s = .next t ∧ (∀ k ∈ t.hub.ownSent, k.page ≠ page) ∧ t.mem = s.mem ∧
        ∀ h, (s.hart h).sched.hold = some page → (t.hart h).sched.hold = some (holdEnded page r.waited)) ∧
    (∀ page pkg expected new, s.pkg.sys.metapkg = s.pkg.pkg → wordHere page →
      let hit := s.ownWord page = expected.toNat
      ∃ t : State, exec (.metadataUpdate page pkg expected new) s = .next t ∧
        t.ownWord page = (if hit then new.toNat else s.ownWord page) ∧
        t.outbox.getLast? = some (.ownerReply page pkg (BitVec.ofNat 64 (t.ownWord page)))) ∧
    (∀ page pkg expected (new : Word), s.pkg.sys.metapkg ≠ s.pkg.pkg →
      let s1 := (s.homeWrite (s.pkg.sys.poolmeta + 8 * page) 8 new.toNat).modHub (fun u => { u with
        changing := u.changing.filter (fun c => c.page != page) })
      let own := s.hub.changing.find? (fun c => c.page == page)
      let i : Instr := .metadataUpdate page pkg expected new
      (∀ c, own = some c → c.new = new.toNat → exec i s = .next (s1.changed c)) ∧
      (∀ c, own = some c → c.new ≠ new.toNat → exec i s = .next s1) ∧ (own = none → exec i s = .next s1))

/-- R201, R202, R367 to R372, R374, R378, R379, R417 to R424, R426, R443: the steps of the distributor, of crews that end, of the hub
and of migrations, where what they wait for is there.
Parked crews, discarded crews, STATE writes and what PROMOTED counts are the model's readings (log entries 41, 45, 46, 61). -/
def Obligations.CrewEvents : Prop :=
  ∀ (s : State),
    (∀ crew park c, s.crew? crew = some c → (c.draining = true ∨ c.raised.isSome = true) → exec (.preemptRequest crew park) s = .next s) ∧
    (∀ crew park c, s.crew? crew = some c → c.draining = false → c.raised = none →
      ∃ t : State, exec (.preemptRequest crew park) s = .next t ∧ memoryKept s t ∧ (∀ h, registersKept (s.hart h) (t.hart h)) ∧
        ∀ h ∈ c.harts, (s.hart h).alive = true → (t.hart h).sched.preempt = some (park && s.parkFits c)) ∧
    (∀ h park c, (s.hart h).sched.preempt = some park → s.crewOf h = some c → (s.hart h).alive = true →
      (s.hart h).trap.tstatus.getLsbD 2 = false →
      let t := s.hart h
      ∃ u : State, exec (.preemptDelivery h) s = .next u ∧ memoryKept s u ∧ registersKept t (u.hart h) ∧
        (u.hart h).pc = BitVec.ofNat 64 (t.place.codeStart + 12 * t.place.preemptAt) ∧ (u.hart h).trap.tcause = 0x10 ∧
        (u.hart h).trap.tpc = t.pc ∧ (u.hart h).trap.tinfo = (if park = true then 2 else 0) ∧ (u.hart h).trap.taddr = 0 ∧
        (u.hart h).sched.preempt = none ∧ (u.hart h).sched.wait = .none ∧ (u.hart h).mode = t.mode ∧ (u.hart h).exec = t.exec ∧
        ∀ g, g ≠ h → u.hart g = s.hart g) ∧
    (∀ crew c, s.crew? crew = some c → c.draining = false → c.discarded = false → s.overran c = true →
      ∃ t : State, exec (.preemptTimeout crew) s = .next t ∧ ∀ h ∈ c.harts, (t.hart h).sched.stopped = true) ∧
    (∀ (c : Crew) (r : Nat), c.raised = some r →
      ((∃ h ∈ c.harts, (s.hart h).alive = true) → (s.overran c = true ↔ r + graceCycles ≤ s.cycles.toNat)) ∧
      ((∀ h ∈ c.harts, (s.hart h).alive = false) → (s.overran c = true ↔ ∃ h ∈ c.harts, r + graceCycles ≤ (s.hart h).sched.lastIssue))) ∧
    (∀ (launch : Nat) (l : Launch) (e : Eff) (k : Kernel) (q : Nat × Option Nat) (cs : List Crew) (rest : List (List Crew)), s.launch? launch = some l → l.eff = some e → l.kernel = some k → l.nextCrew = some q → l.ended = false →
      l.first = true → s.rcbState (s.rcbAt l 0) ≠ 0 → s.rcbState (s.rcbAt l 0) ≤ 3 →
      (∃ p ∈ l.saved, p.2 ≠ 1 ∧ sget 0 l.sinces p.1 + waitCycles ≤ s.cycles.toNat) ∨
        (l.next < l.total ∧ l.since + waitCycles ≤ s.cycles.toNat) → s.admits e k = false →
      let found := (if k.width = 1 then s.run.distThreads else List.range 192).filterMap (fun c => s.victimsFor e k c l.prio)
      found = cs :: rest → (∀ v ∈ found, v ≠ []) →
      exec (.admissionWaitExpiry launch) s = .next (cs.foldl (fun st c => st.raisePreempt c.key false) s)) ∧
    (∀ (crew : Nat) (c : Crew), s.crew? crew = some c → c.draining = false → (∀ h ∈ c.harts, (s.hart h).alive = false) →
      s.overran c = false ∨ c.discarded = true → ∃ (t : State) (k : Crew), exec (.crewExit crew) s = .next t ∧ t.crew? crew = some k ∧ k.draining = true ∧ (∀ ch ∈ k.chains, ch.closed = true) ∧
        (∀ l ∈ t.mem.loads, l.hart ∉ c.harts) ∧ (∀ r ∈ t.mem.reqs, r.hart ∈ c.harts → r.kind.writes = true) ∧ t.harts = s.harts) ∧
    (∀ (crew : Nat) (c : Crew), s.crew? crew = some c → c.draining = true → s.settledCrew c = true →
      (∀ l, s.launch? c.launch = some l → s.parks c (s.overOf c l) = true → s.parkGate (s.overOf c l) = none) →
      ∃ t : State, exec (.drainingSettled crew) s = .next t ∧ (∀ k ∈ t.run.crews, k.key ≠ crew) ∧ ∀ h ∈ c.harts, t.hart h = Hart.init) ∧
    (∀ queue n v failed path, s.quiesced = false → s.lqHead queue = some (n, v) →
      (s.startOf queue = .no → exec (.launchRecordStart queue) s =
        .next ((s.pathGate (s.guestCtx (s.lqGuest queue)) 9 (bits v 128 64)).getD s)) ∧
      (s.startOf queue = .go failed path → ∃ (t : State) (l : Launch), exec (.launchRecordStart queue) s = .next t ∧
        t.run.launches = s.run.launches ++ [l] ∧ l.queue = queue ∧ l.number = n ∧ l.kobj = bits v 0 64 ∧ l.params = bits v 64 64 ∧
        l.rcb = bits v 128 64 ∧ l.guest = s.lqGuest queue ∧ l.depFailed = failed ∧ l.handle = launchHandle queue n ∧
        l.first = false ∧ l.next = 0 ∧ t.harts = s.harts) ∧
      (s.startOf queue = .unfit → ∃ (t : State) (id : Nat), exec (.launchRecordStart queue) s = .next t ∧
        t.run.pending = s.run.pending ++ [(id, 5, launchHandle queue n)] ∧ t.run.launches = s.run.launches)) ∧
    (∀ slot q, s.quiesced = false → slot < 32 → sget 0 s.trimSlots.run.slots slot = 0 → s.trimSlots.nextQueue = some q →
      ∃ t : State, exec (.queueBinding slot) s = .next t ∧ sget 0 t.run.slots slot = q + 1 ∧ t.run.lastBound = q ∧ t.harts = s.harts ∧
        t.mem = s.mem) ∧
    (∀ (launch : Nat) (l0 : Launch) (slot : Option Nat) (bad : Nat) (l : Launch) (s1 : State), s.quiesced = false → s.serveNext = some (l0, slot) → l0.id = launch → s.placeGate l0 = none →
      (if l0.first = true then (0, l0, s) else s.firstCheck l0) = (bad, l, s1) →
      (bad ≠ 0 → exec (.crewPlacement launch) s = .next ((s1.setRcb launch 0).endLaunch launch bad)) ∧
      (∀ (e : Eff) (k : Kernel) (index : Nat) (kind : Option Nat), bad = 0 → l.eff = some e → l.kernel = some k → l.nextCrew = some (index, kind) →
        let s2 := s1.modLaunch launch (fun _ => l)
        (∀ core fit, k.width ≠ 1 → s2.chooseCore e k = some (core, fit) → ∃ (t : State) (c : Crew), exec (.crewPlacement launch) s = .next t ∧
          t.run.crews = s2.run.crews ++ [c] ∧ c.launch = l.id ∧ c.index = index ∧ c.core = core ∧ c.kernel = k ∧
          c.harts = s2.teamSlots core fit.p0 k.crew ∧ c.unreserved = true ∧ c.scratch = [] ∧ c.tiles = [] ∧ c.chucks = []) ∧
        (∀ h, k.width = 1 → s2.chooseThread e [] = some h → ∃ (t : State) (c : Crew), exec (.crewPlacement launch) s = .next t ∧
          t.run.crews = s2.run.crews ++ [c] ∧ c.launch = l.id ∧ c.index = index ∧ c.harts = [h] ∧ c.kernel = k))) ∧
    (∀ core h rest c, (s.core core).acqs = h :: rest → s.crewOf h = some c → s.canReserve c = true →
      ∃ t : State, exec (.acqGrant core) s = .next t ∧ memoryKept s t ∧ (∀ k, t.crew? c.key = some k → k.unreserved = false) ∧
        ∀ g ∈ c.harts, (s.hart g).sched.wait = .acq → (t.hart g).sched.wait = .none) ∧
    (∀ pa data,
      let l := placed (s.canonPa pa) data
      let s1 := ((l.map (fun p => p.1 / 128)).eraseDups).foldl (fun st k => (st.cohTouch 3 0 false k true true).1) s
      let w := s1.cohPoke noHart (s1.guarded .user l) []
      exec (.wakeWordWrite pa data) s = .next w.wakeAll ∧ (w.run.launches = [] → w.wakeAll = w)) ∧
    (∀ rcb value,
      let st := s.rcbState rcb
      (value = 0 → st = 6 ∨ st = 7 → s.homeFailed rcb = false →
        ∃ t : State, exec (.rcbStateWrite rcb value) s = .next t ∧ t.rcbState rcb = 0 ∧ t.harts = s.harts) ∧
      (value ≠ 0 ∨ (st ≠ 6 ∧ st ≠ 7) → exec (.rcbStateWrite rcb value) s = .next s)) ∧
    (∀ cont k, s.cont? cont = some k → k.pstate = 1 → (rungOf k.ladder (k.rung + 1)).2.1 = true →
      k.rungAt + (rungOf k.ladder k.rung).2.2 ≤ s.cycles.toNat → s.contHeld k = none →
      exec (.rungExpiry cont) s = .next ((s.enterRung k (k.rung + 1)).pump k.id)) ∧
    (∀ (move : Nat) (m : BlockMove) (k : Cont), s.hub.moves.find? (fun q => q.id == move && !q.up && q.ended) = some m → s.cont? m.cont = some k → s.contHeld k = none →
      exec (.blockMoveDone move) s = .next
        (((((if m.failed = true then s else s.demoted k m).dropMove move).descendOn k m).pump k.id).finishCont k.id)) ∧
    (∀ (move : Nat) (m : BlockMove) (k : Cont), s.hub.moves.find? (fun q => q.id == move && q.up && q.ended) = some m → s.cont? m.cont = some k → s.contHeld k = none → k.pstate ≠ 2 →
      let s0 := if 2 ≤ k.pstate then s.bump (migKey k.guest 0x24) else s
      let s1 := (s0.promoted k m).dropMove move
      let s2 := if m.failed = true then s1.kvFault k.launch ((k.btab + 8 * m.block) % 2 ^ 64) else s1
      exec (.blockSettle move) s = .next (((s2.descendOn k m).pump (s2.current k).id).finishCont k.id)) ∧
    (∀ c rest, s.quiesced = false → s.hub.migQueue = c :: rest → (∃ h, c.hart = some h ∧ (s.releasedBefore h c.before = false ∨ s.backWaits (coreOf h) (fun _ => true) = true)) →
      exec .migrationCommandTake s = .next s) ∧
    (∀ c rest, s.quiesced = false → s.hub.migQueue = c :: rest → c.handle ≠ 0 → (∀ h, c.hart = some h → s.releasedBefore h c.before = true ∧ s.backWaits (coreOf h) (fun _ => true) = false) →
      let s0 := match c.hart with
        | some h => s.release (coreOf h) 4
        | none => s
      let s1 := s0.modHub (fun u => { u with migQueue := rest })
      let v := bit (s1.natAt (s1.rdtAt (bits c.cmd 16 8)) 1) 0
      (c.bad = false → bits c.cmd 0 4 = 1 → exec .migrationCommandTake s = .next (if v = true then s1.startSweep c else s1.migDone c 13).feedAll) ∧
      (c.bad = true → exec .migrationCommandTake s = .next (s1.migDone c 12).feedAll) ∧
      (c.bad = false → bits c.cmd 0 4 = 0 → c.walk = none → ∀ f n leaf dest, s1.checkMove c = .ok (f, n, leaf, dest) →
        exec .migrationCommandTake s = .next (s1.queueMig c f n leaf dest).feedAll) ∧
      (c.bad = false → bits c.cmd 0 4 = 0 → c.walk = none → ∀ st, s1.checkMove c = .error st →
        exec .migrationCommandTake s = .next (s1.refuse c st).feedAll ∧ (st ≠ 4 → s1.refuse c st = s1.migDone c st))) ∧
    (∀ service, s.hub.migQueue.length < migQueueLen → ∃ (t : State) (c : MigCmd), exec (.migrationDoorbell service) s = .next t ∧
      t.hub.migQueue = s.hub.migQueue ++ [c] ∧ c.cmd = ofBytes (s.window64 service) ∧ sget 0 t.hub.handles service = c.handle ∧
      t.harts = s.harts ∧ t.mem = s.mem) ∧
    (∀ service, migQueueLen ≤ s.hub.migQueue.length → exec (.migrationDoorbell service) s = .next s) ∧
    (∀ (mig : Nat) (m : Mig) (h : Nat), s.hub.migs.find? (fun q => q.id == mig && q.st == .queued) = some m → homeOf (m.src * 4096) = some h →
      (m.tier = 2 → bits (s.natAt (s.readAddr m.leaf) 8) 10 2 ≠ 3 → ∀ i, i < m.frames → s.owns (poolPage (m.dest * 4096) + i) = true) →
      s.runningAt m.src < 16 → (s.home h).mayStart (s.cycles.toNat / 2 ^ 20) m.frames = true →
      ∃ t : State, exec (.migrationStart mig) s = .next t ∧ (∀ q ∈ t.hub.migs, q.id = mig → q.st = .moving) ∧ t.harts = s.harts ∧
        (t.frame m.src).mstate = 2) ∧
    (∀ home, (s.home (homeNo home)).period ≠ s.cycles.toNat / 2 ^ 20 → ∃ t : State, exec (.migrationRatePeriod home) s = .next t ∧
      t.home (homeNo home) = { s.home (homeNo home) with period := s.cycles.toNat / 2 ^ 20, started := 0 } ∧ memoryKept s t) ∧
    (∀ (mig : Nat) (m : Mig), s.hub.migs.find? (fun q => q.id == mig && q.st == .moving) = some m →
      s.storeFailing m = false → m.cursor + 1 ≠ 32 * m.frames →
      ∃ t : State, exec (.lineCopy mig) s = .next t ∧
        t.hub.migs.find? (fun q => q.id == mig && q.st == .moving) = some { m with cursor := m.cursor + 1, held := [] }) ∧
    (∀ (mig : Nat) (m : Mig), s.hub.migs.find? (fun q => q.id == mig && q.st == .shootdown) = some m → s.oldFrameBusy m = false →
      ∃ t : State, exec (.shootdownComplete mig) s = .next t ∧ ∀ q ∈ t.hub.migs, q.id ≠ mig) ∧
    (∀ (mig : Nat) (m : Mig), s.hub.migs.find? (fun q => q.id == mig && q.st == .aborting) = some m →
      ∃ t : State, exec (.abortComplete mig) s = .next t ∧ ∀ q ∈ t.hub.migs, q.id ≠ m.id) ∧
    (∀ region others,
      let s1 := (s.takeShares region others).sendShare region
      let every := fun (f : SweepShare → Bool) => ∀ i ∈ s1.membersOf region, i ≠ s1.localOf region →
        ∃ p ∈ s1.hub.shares, p.1 = region ∧ p.2.replica = i ∧ f p.2 = true
      let s2 := (s1.rebaseRegion region ((s1.hub.shares.filter (fun p => p.1 == region)).map Prod.snd)).sendShare region
      let i : Instr := .sweepRebase region others
      (s1.sweeping region = false → exec i s = .next s1) ∧
      (s1.sweeping region = true → region ∉ s1.hub.rebased → s1.outQueue region = [] → every SweepShare.outqEmpty →
        (every SweepShare.done → exec i s = .next (s2.endSweep region)) ∧ (¬ every SweepShare.done → exec i s = .next s2)) ∧
      (s1.sweeping region = true → region ∈ s1.hub.rebased →
        (every SweepShare.done → exec i s = .next (s1.endSweep region)) ∧ (¬ every SweepShare.done → exec i s = .next s1)) ∧
      ∀ st : State, ∀ q ∈ (st.endSweep region).hub.sweeps, q.1 ≠ region) ∧
    (∀ pkg pa,
      let f := (s.pageOf (s.recFrame (s.normPa pa / 4096))).1
      s.migOfFrame f = none → ∃ t : State, exec (.mappingNotice pkg pa) s = .next t ∧
        t.outbox = s.outbox ++ [.mappingReply pkg pa true] ∧ (t.frame f).peer = true ∧ t.harts = s.harts ∧ memoryKept s t)

/-- R17, R18, R21 to R23, R76, R123, R126, R199, R214, R238, R285, R380, R427, R480 to R483, R485, R487, R489 to R492: the events of the
package, and the writes of a hart's registers from outside.
Host events, the checkpoint and lost packages are partly the model's readings (log entries 51, 52, 53). -/
def Obligations.PackageEvents : Prop :=
  ∀ (s : State),
    let pending := fun (t : State) (n : Nat) => sget 0 t.pkg.events n = sget 0 s.pkg.events n ||| 0x4000
    let same := fun (t : State) => t.harts = s.harts ∧ t.mem = s.mem ∧ t.run = s.run ∧ t.hub = s.hub
    (∀ n, n < 261 → ∃ t : State, exec (.deviceLevelFault (.core n)) s = .next t ∧ (t.core n).fenced = true) ∧
    (∀ mw, s.pkg.sampled = s.powerPeriod → ∃ t : State, exec (.powerSample mw) s = .next t ∧ same t ∧ t.pkg.power = s.pkg.power) ∧
    (∀ mw, s.pkg.sampled ≠ s.powerPeriod → ∃ t : State, exec (.powerSample mw) s = .next t ∧ same t ∧ t.pkg.sampled = s.cycles.toNat / 4096 ∧
      t.pkg.power = if s.pkg.coolant = true then 7 else if 3200000 < mw then min 7 (s.pkg.power + 1)
        else if mw < 3000000 then s.pkg.power - 1 else s.pkg.power) ∧
    (∃ t : State, exec .coolantFault s = .next t ∧ same t ∧ t.pkg.power = 7 ∧ t.pkg.coolant = true ∧ pending t 2) ∧
    (∃ t : State, exec .coolantRestored s = .next t ∧ same t ∧ t.pkg.power = s.pkg.power ∧ t.pkg.coolant = false) ∧
    (∀ link guest, s.canArrive link = false → exec (.flitArrival link guest) s = .next s) ∧
    (∀ link guest, s.canArrive link = true → nextStages link ≠ [] →
      ∃ t : State, exec (.flitArrival link guest) s = .next t ∧ same t ∧ (t.link link).occupancy = (s.link link).occupancy + 1 ∧
        (t.link link).hold = if 384 ≤ (s.link link).occupancy + 1 then true
          else if (s.link link).occupancy + 1 ≤ 256 then false else (s.link link).hold) ∧
    (∀ cal, ∃ t : State, exec (.calendarSlot cal) s = .next t ∧ same t ∧ (t.calendar cal).slot = ((s.calendar cal).slot + 1) % 64 ∧
      ((s.link cal).hold = true → t.outbox = s.outbox ∧ (t.calendar cal).ready = (s.calendar cal).ready) ∧
      (∀ f, 8 ≤ cal → s.linkFree cal = true → (s.calendar cal).slot ≠ 0 → (s.calendar cal).chosen (decide (hubPort < cal)) = some f →
        (t.calendar cal).ready = (s.calendar cal).ready.erase f ∧ (t.link f.2.1).occupancy = (s.link f.2.1).occupancy - 1 ∧
        t.outbox = if cal < hubPort then s.outbox ++ [.forwarded cal f.1] else s.outbox)) ∧
    (∀ port, ∃ t : State, exec (.linkDown port) s = .next t ∧ same t ∧
      (port < 16 → (t.link (portOut port)).down = true ∧ (t.link (portOut port + 1)).down = true) ∧ (16 ≤ port → t = s)) ∧
    (∀ pkg, pkg ≠ s.pkg.pkg → pkg ∉ s.pkg.unreachable →
      ∃ t : State, exec (.packageUnreachable pkg) s = .next t ∧ pkg ∈ t.pkg.unreachable ∧ pending t 5 ∧ t.harts = s.harts) ∧
    (∀ pkg, pkg ≠ s.pkg.pkg → pkg ∈ s.pkg.unreachable → exec (.packageUnreachable pkg) s = .next (s.shoot (4 + pkg) (inPackage pkg))) ∧
    (∀ clocks, s.pkg.seqPkg ∈ s.pkg.unreachable →
      ∃ t : State, exec (.sequencerReappoint clocks) s = .next t ∧ t.harts = s.harts ∧
        (∀ p, s.lowestReachable = some p → t.pkg.seqPkg = p) ∧
        let top := sget 0 t.mem.seqStamps (if t.pkg.seqPkg = t.pkg.pkg then 3000 else 4000)
        (∀ c ∈ clocks, c.toNat < top) ∧ ∀ c ∈ s.cores, c.2.lamport.toNat < top) ∧
    (∀ layer mc,
      let r := sget 0 s.pkg.refresh layer
      let up := if 95000 ≤ mc then 2 else if 85000 ≤ mc then 1 else 0
      ∃ t : State, exec (.refreshRateChange layer mc) s = .next t ∧ same t ∧ sget 0 t.pkg.refresh layer =
        if r < up then up else if r = 2 ∧ mc ≤ 92000 then 1 else if r = 1 ∧ mc ≤ 82000 then 0 else r) ∧
    (∀ n, ∃ t : State, exec (.eventRaise n) s = .next t ∧ same t ∧ pending t n) ∧
    (∀ width value,
      (width = 8 → 0x100 ≤ value.toNat → value.toNat < 0x400 →
        ∃ t : State, exec (.eventDoorbell width value) s = .next t ∧ same t ∧ pending t value.toNat) ∧
      (width ≠ 8 ∨ value.toNat < 0x100 ∨ 0x400 ≤ value.toNat → exec (.eventDoorbell width value) s = .next s)) ∧
    (∀ n mode value,
      (1024 ≤ n → exec (.eventConfigWrite n mode value) s = .next s) ∧
      (n < 1024 → ∃ t : State, exec (.eventConfigWrite n mode value) s = .next t ∧ same t ∧
        t.eventWord n % 2 ^ 14 = (if 2 ≤ modeRank mode then value.toNat else s.eventWord n) % 2 ^ 14 ∧
        bit (t.eventWord n) 14 = (bit (s.eventWord n) 14 && !bit value.toNat 14))) ∧
    (∀ mode value, ∃ t : State, exec (.ckpt mode value) s = .next t ∧ same t ∧
      t.pkg.boot.ckpt = if 2 ≤ modeRank mode ∧ value.toNat = 1 ∧ s.pkg.boot.ckpt = 0 then 1 else s.pkg.boot.ckpt) ∧
    (s.pkg.boot.ckpt ≠ 1 ∨ s.drained = false → exec .checkpointWrite s = .next s) ∧
    (s.pkg.boot.ckpt = 1 → s.drained = true → ∃ t : State, exec .checkpointWrite s = .next t ∧ t.harts = s.harts ∧ t.run = s.run ∧
      t.hub = s.mergeAll.hub ∧ t.pkg.boot.ckpt = 2 ∧ t.pkg.boot.ckptAt = s.ckptBlock ∧ (Memory.wf s.mem.cells = true →
        (∀ a, selector a < 8 → t.byte a = s.mergeAll.byte a) ∧
        ∀ a o, ckptPlace a = some o → t.byte (8 * 2 ^ 48 + 4096 * s.ckptBlock + o) = s.mergeAll.byte a)) ∧
    (s.pkg.boot.ckpt = 2 →
      let at_ := 8 * 2 ^ 48 + 4096 * (s.pkg.boot.ckptAt + ckptFrames)
      let digest := sha384 (Config.frameOrder s.tick)
      let m := s.pkg.boot.measurement
      ∃ t : State, exec .checkpointClose s = .next t ∧ t.harts = s.harts ∧ t.run = s.run ∧ t.hub = s.hub ∧ t.pkg.boot.ckpt = 0 ∧
        pending t 4 ∧ t.outbox = s.outbox ++ [.closingRecord s.pkg.pkg s.cycles.toNat m digest] ∧
        ((∀ i, i < 64 → s.homeFailed (at_ + i) = false) → t.bytesAt at_ 64 =
          toBytes 64 (Config.closingRecord s.pkg.pkg s.cycles.toNat m digest).toNat)) ∧
    (∀ image : FwImage,
      let good := ecdsaVerify Config.vendorKey (sha384 image.bytes) image.signature = true ∧ s.pkg.boot.rollback ≤ image.version
      (¬ good → ∃ t : State, exec (.coldReset image) s = .next t ∧ t.pkg.boot.step = 2 ∧ t.pkg.boot.failure = 2 ∧
        ∀ h, h ≠ 132 → (t.hart h).sched.inReset = true) ∧
      (good → ∃ t : State, exec (.coldReset image) s = .next t ∧ t.pkg.boot.step = 4 ∧ t.pkg.boot.rollback = s.pkg.boot.rollback ∧
        t.pkg.boot.measurement = sha384 (digestBytes 0 ++ digestBytes (sha384 image.bytes)) ∧
        t.pkg.pkg = image.pkg % 64 ∧ t.run.distThreads = image.distributor ∧ (image.registers = [] →
        (∀ k, k < 4 → (t.hart (128 + k)).mode = .fw ∧ (t.hart (128 + k)).pc = BitVec.ofNat 64 image.fwPc) ∧
        (∀ h, h < 128 → h ∉ image.distributor → (t.hart h).mode = .host ∧ (t.hart h).pc = BitVec.ofNat 64 image.hostPc ∧
          (t.hart h).sched.inReset = false) ∧
        ∀ h, 256 ≤ h → t.hart h = Hart.init))) ∧
    (∀ nonce, ∃ (t : State) (reply : List Byte), exec (.attestationRequest nonce) s = .next t ∧ same t ∧ t.outbox = s.outbox ++ [.attestation reply] ∧
      reply.take 32 = toBytes 32 nonce.toNat) ∧
    (∀ mode word value, mode ≠ .fw → exec (.systemBlockWrite mode word value) s = .next s) ∧
    (∀ word value, ∃ t : State, exec (.systemBlockWrite .fw word value) s = .next t ∧ same t ∧
      t.pkg.sys = (match word with
        | 1 => { s.pkg.sys with cwin := value.toNat }
        | 2 => { s.pkg.sys with rdt := value.toNat }
        | 5 => { s.pkg.sys with cal := value.toNat }
        | _ => s.pkg.sys)) ∧
    (∀ h, (preemptFirst (s.hart h) = true ∨ s.noteDue h = false → exec (.migrationNotify h) s = .next s) ∧
      (preemptFirst (s.hart h) = false → s.noteDue h = true → exec (.migrationNotify h) s = .next (s.takeNote h))) ∧
    (∀ h n, s.eventDue h = some n → preemptFirst (s.hart h) = false → s.noteDue h = false →
      ∃ t : State, exec (.externalEvent h) s = .next t ∧ t = s.takeEvent h n ∧ (t.hart h).trap.tcause = 0x15 ∧ (t.hart h).trap.tinfo = BitVec.ofNat 64 n) ∧
    (∀ k, k < 4 → ∃ t : State, exec (.serviceCoreRestart k) s = .next t ∧ (t.hart (128 + k)).sched.halted = false ∧
      (t.hart (128 + k)).pc = (s.hart (128 + k)).pc ∧ t.mem = s.mem ∧ ∀ h, h ≠ 128 + k → t.hart h = s.hart h) ∧
    (∀ h value, ∃ t : State, exec (.execWrite h value) s = .next t ∧ t.mem = s.mem ∧
      t.hart h = { s.hart h with exec := value &&& (s.hart h).live } ∧ ∀ g, g ≠ h → t.hart g = s.hart g) ∧
    (∀ h value, ∃ t : State, exec (.liveWrite h value) s = .next t ∧ t.mem = s.mem ∧ (t.hart h).live = value &&& (s.hart h).live ∧
      (t.hart h).exec = (s.hart h).exec &&& (value &&& (s.hart h).live) ∧
      ((t.hart h).live = 0 → (t.hart h).sched.exited = true) ∧ ∀ g, g ≠ h → t.hart g = s.hart g) ∧
    (∀ h (value : Word), ∃ t : State, exec (.fpmWrite h value) s = .next t ∧ t.mem = s.mem ∧ (∀ g, g ≠ h → t.hart g = s.hart g) ∧
      let low := value.toNat % 8
      t.hart h = { s.hart h with fpm := BitVec.ofNat 7 (if low = 0 ∨ low = 7 then value.toNat - low + 1 else value.toNat) }) ∧
    (∀ h, exec (.fflagsAccess h none) s = .next s ∧
      ∀ v, s.flagsSettled h = true → ∃ t : State, exec (.fflagsAccess h (some v)) s = .next t ∧ t.mem = s.mem ∧
        t.hart h = { s.hart h with fflags := v.setWidth 5 } ∧ ∀ g, g ≠ h → t.hart g = s.hart g) ∧
    (∀ h reg value, srAssigned reg = false ∨ reg = 0x15 ∨ reg = 0x16 →
      exec (.registerWrite h reg value) s = .next (s.takeTrap h 1 0 (hostDie h + 8 * 16) 0)) ∧
    (∀ h reg value, srAssigned reg = true → reg ≠ 0x15 → reg ≠ 0x16 →
      modeRank (s.hart h).mode < srRank reg ∨ (reg = 0x50 ∧ (s.hart h).mode = .user) →
      exec (.registerWrite h reg value) s = .next (s.takeTrap h 0x16 0 reg 0)) ∧
    (∀ h reg value, srAssigned reg = true → reg ≠ 0x15 → reg ≠ 0x16 → srRank reg ≤ modeRank (s.hart h).mode →
      ¬(reg = 0x50 ∧ (s.hart h).mode = .user) →
      ∃ t : State, exec (.registerWrite h reg value) s = .next t ∧ t.mem = s.mem ∧ (∀ g, g ≠ h → t.hart g = s.hart g) ∧
      registersKept { s.hart h with fflags := (t.hart h).fflags } (t.hart h) ∧
      (reg = 0x100 → (t.hart h).sup.gtvec = value) ∧ (reg = 0x102 → (t.hart h).sup.gepc = value) ∧
      (reg = 0x200 → (t.hart h).sup.htvec = value) ∧ (reg = 0x300 → (t.hart h).sup.fwtvec = value) ∧
      (reg ∈ ([1, 2, 3, 4, 5, 6, 7, 8, 9, 10, 11, 12, 13, 14, 0x17, 0x30, 0x31, 0x40, 0x41, 0x42, 0x43, 0x60, 0x61] : List Nat) →
        t = s.modHart h (fun u => u))) ∧
    (∀ guest value,
      let at_ := s.pkg.sys.pdt + 32 * guest + 16
      exec (.nheadWrite guest value) s = .next (s.homeWrite at_ 4 value.toNat))

/-! ### Decoding, stepping and reset -/

/-- R26, R27, R29, R34, R39, R43: decode and encode agree, on words and on bytes, both ways and for every instruction row: no bit of
a word is dropped, and every word that decodes is well formed. -/
def Obligations.DecodeEncode : Prop :=
  (∀ (i : Instr) (w : Nat), i.wellFormed = true → encode i = some w →
    w < 2 ^ 96 ∧ decodeWord w = .ok i ∧ ∀ rest : List Byte, decode (toBytes 12 w ++ rest) = .ok (i, rest)) ∧
  (∀ (i : Instr) (w : Nat), w < 2 ^ 96 → decodeWord w = .ok i → i.wellFormed = true ∧ encode i = some w) ∧
  (∀ i : Instr, i.encodable = true ↔ ∃ w, encode i = some w)

/-- R11, R22, R192, R373: after every step, where the next step is an issue, it is of a hart that may issue, the only one its pipe has
chosen. That one step is chosen at a time is the model's (log entry 4). -/
def Obligations.StepKeepsIssue : Prop :=
  ∀ s t : State, issueInv s → step s = .next t → issueInv t

/-- R63, R65, R78, R490: reset. No instruction stands next; every hart is held in reset with its registers FULL and 0, k0 reading as
all lanes; memory and caches hold nothing. The values of the fields a hart's record gives beside R65's, and 0 as what unwritten memory
reads as, are the model's choice (log entries 1, 2). -/
def Obligations.ResetState : Prop :=
  State.reset.turn = .idle ∧ issueInv State.reset ∧ State.reset.cycles = 0 ∧
  Memory.wf State.reset.mem.cells = true ∧ (∀ a, State.reset.byte a = 0) ∧
  State.reset.mem.reqs = [] ∧ State.reset.mem.loads = [] ∧ State.reset.run.crews = [] ∧ State.reset.run.launches = [] ∧
  State.reset.pkg.boot.step = 0 ∧
  (∀ h, State.reset.hart h = Hart.init) ∧ (∀ c, State.reset.core c = Core.init) ∧
  Hart.init.sched.inReset = true ∧ Hart.init.stack = [] ∧ Hart.init.sb = [] ∧ Hart.init.fflags = 0 ∧
  (∀ r, Hart.init.getS r = ⟨.full, 0⟩) ∧ (∀ r l, Hart.init.getV r l = ⟨.full, 0⟩) ∧
  (∀ r, Hart.init.getK r = if r = 0 then ⟨false, allLanes Hart.init.W⟩ else ⟨false, 0⟩)

/-- R26, R28, R43: a step of a hart fetches at its pc, decodes the word and executes what it decodes to. A fetch that faults raises its
cause, a word that does not decode raises ILLEGAL-INSTRUCTION, a held fetch waits; a step of the hardware executes its own row. What
follows every step (time, counters, the choice of the next step) is `State.settle` (log entry 4). -/
def Obligations.StepRunsDecoded : Prop :=
  ∀ s s1 : State,
    (s.turn = .hart →
      (∀ (w : Nat) (i : Instr), s.setOut.fetchNext s.cur = (.word w, s1) → decodeWord w = .ok i →
        step s = settled (counted i s1 (exec i s1)) ∧
        ∀ t : State, exec i s1 = .next t →
          step s = .next (if t.withheld then t
            else t.countIssue s1.cur s1.now.guest (if passed i s1 t then passesOf s1.cur s1.now i else 0)).settle) ∧
      (∀ w c : Nat, s.setOut.fetchNext s.cur = (.word w, s1) → decodeWord w = .error c → step s = settled (s1.illegalWord w c)) ∧
      (∀ c a i : Nat, s.setOut.fetchNext s.cur = (.trap c a i, s1) → step s = settled (s1.raise c a i 1)) ∧
      (s.setOut.fetchNext s.cur = (.hold, s1) → step s = settled (s1.block .refill))) ∧
    (∀ e : Instr, s.turn = .event e → step s = settled (exec e s)) ∧
    (s.turn = .idle → step s = .next s.settle)

/-- R27, R29, R34, R39: words written out from the encoding, three 32-bit words with the lowest first, and what they decode to. -/
def Obligations.DecodeWords : Prop :=
  let w3 := fun (a b c : Nat) => a + b * 2 ^ 32 + c * 2 ^ 64
  decodeWord (w3 0x200C8001 0x00320007 0x05006420) = .ok (.add ⟨0, 2, true, 1, .i32, .v 7 false 0, .v 3 false 0, .imm 100, 0⟩) ∧
  decodeWord (w3 0x8000000F 0x87610009 0x054321F9) = .ok (.movw ⟨0, 0, false, 0, .b64, .s 9 false 0, .wide 0x987654321, .none, 0⟩) ∧
  decodeWord (w3 0x2000800D 0x00020003 0x02000150) = .ok (.sel ⟨0, 2, false, 0, .i32, .v 3 false 0, .imm 0, .v 1 false 0, 0⟩) ∧
  decodeWord (w3 0x20004045 0x00220004 0x01000320) = .ok (.shl ⟨0, 1, false, 0, .i32, .v 4 false 0, .v 2 false 0, .s 3 false 0, 0⟩) ∧
  decodeWord (w3 0x50000083 0x00520004 0x12000620) = .ok (.ffma ⟨0, 0, false, 0, .f32, .v 4 false 0, .v 5 false 0, .v 6 false 0, 1⟩) ∧
  decodeWord (w3 0x400028D0 0x00320002 0x10000020) = .ok (.cvt ⟨10, 0, false, 0, .f16, .v 2 false 0, .v 3 false 0, .none, 1⟩) ∧
  decodeWord (w3 0x2000E103 0x00220003 0x00000020) = .ok (.scan ⟨8, 3, false, 0, .i32, .v 3 false 0, .v 2 false 0, .none, 0⟩) ∧
  decodeWord (w3 0xF8000114 0x00B40010 0x05000010) = .ok (.kmov ⟨0, 0, false, 0, .none, .sr 0x10, .s 11 false 0, .imm 0, 0⟩) ∧
  decodeWord (w3 0xF8000143 0x00100000 0x05000330) = .ok (.brd ⟨0, 0, false, 0, .none, .none, .k 1 false, .imm 3, 0⟩) ∧
  decodeWord (w3 0xF8010144 0x00050003 0x00090000) = .ok (.mbr ⟨4, 0, 3, 5, 0, 9⟩) ∧
  decodeWord (w3 0x50000180 0x00420008 0x02020210) = .ok (.ld ⟨0, 0, false, 0, .f32, .v 8 false 0, .s 4 false 0, .v 2 false 2, 0⟩) ∧
  decodeWord (w3 0xF8001186 0x00000000 0x40000000) = .ok (.fence ⟨4, 0, false, 0, .none, .none, .none, .none, 4⟩) ∧
  decodeWord (w3 0x200001C0 0x20410000 0x11000710) = .ok (.amo ⟨0, 0, false, 0, .i32, .s 0 false 0, .s 4 false 2, .s 7 false 0, 1⟩) ∧
  decodeWord (w3 0x300005D3 0x0041000A 0x30000010) = .ok (.krec ⟨1, 0, false, 0, .i64, .s 10 false 0, .s 4 false 0, .none, 3⟩) ∧
  decodeWord (w3 0x88000200 0x00310014 0x0A100070) = .ok (.chld ⟨0, 0, false, 0, .bp, .s 20 false 0, .chk 3, .spa 0x1000, 0⟩) ∧
  decodeWord (w3 0x50001205 0x00210015 0x11010A60) = .ok (.mdrn ⟨4, 0, false, 0, .f32, .s 21 false 0, .acc 2, .s 10 false 1, 1⟩) ∧
  decodeWord (w3 0xF8000240 0x20010014 0x090005A0) = .ok (.cpy ⟨0, 0, false, 0, .none, .s 20 false 0, .spa 0x200, .tag 5, 0⟩) ∧
  decodeWord (w3 0xF8000244 0x01410006 0x00000010) = .ok (.await ⟨0, 0, false, 0, .none, .s 6 false 0, .s 20 false 0, .none, 0⟩) ∧
  decodeWord (w3 0xF8000280 0x00380001 0x00000050) = .ok (.binit ⟨0, 0, false, 0, .none, .bar 1, .imm 3, .none, 0⟩) ∧
  decodeWord (w3 0xF8000EC0 0x00820014 0x03000320) = .ok (.kvx ⟨3, 0, false, 0, .none, .v 20 false 0, .v 8 false 0, .k 3 false, 0⟩) ∧
  decodeWord (w3 0xF80002C3 0x00410006 0x00000010) = .ok (.pin ⟨0, 0, false, 0, .none, .s 6 false 0, .s 4 false 0, .none, 0⟩) ∧
  decodeWord (w3 0xF8000303 0x00910008 0x00000010) = .ok (.tstp ⟨0, 0, false, 0, .none, .s 8 false 0, .s 9 false 0, .none, 0⟩) ∧
  decodeWord (w3 0xF8000340 0x01310005 0x00000040) = .ok (.srr ⟨0, 0, false, 0, .none, .s 5 false 0, .sr 0x13, .none, 0⟩)
end

