-- ==== Sys2Proof/Laws/Exec.lean ====
section
/-! SUPPORT. The arms of `exec` one by one. -/
namespace Sys2Proof.Laws

open Machine

@[simp] theorem exec_add (x : Args) (s : State) : exec (.add x) s = execAdd x s := rfl
@[simp] theorem exec_sub (x : Args) (s : State) : exec (.sub x) s = execSub x s := rfl
@[simp] theorem exec_mul (x : Args) (s : State) : exec (.mul x) s = execMul x s := rfl
@[simp] theorem exec_mulh (x : Args) (s : State) : exec (.mulh x) s = execMulh x s := rfl
@[simp] theorem exec_mad (x : Args) (s : State) : exec (.mad x) s = execMad x s := rfl
@[simp] theorem exec_div (x : Args) (s : State) : exec (.div x) s = execDiv x s := rfl
@[simp] theorem exec_rem (x : Args) (s : State) : exec (.rem x) s = execRem x s := rfl
@[simp] theorem exec_min (x : Args) (s : State) : exec (.min x) s = execMin x s := rfl
@[simp] theorem exec_max (x : Args) (s : State) : exec (.max x) s = execMax x s := rfl
@[simp] theorem exec_abs (x : Args) (s : State) : exec (.abs x) s = execAbs x s := rfl
@[simp] theorem exec_lea (x : Args) (s : State) : exec (.lea x) s = execLea x s := rfl
@[simp] theorem exec_cmp (x : Args) (s : State) : exec (.cmp x) s = execCmp x s := rfl
@[simp] theorem exec_sel (x : Args) (s : State) : exec (.sel x) s = execSel x s := rfl
@[simp] theorem exec_mov (x : Args) (s : State) : exec (.mov x) s = execMov x s := rfl
@[simp] theorem exec_movw (x : Args) (s : State) : exec (.movw x) s = execMovw x s := rfl
@[simp] theorem exec_movh (x : Args) (s : State) : exec (.movh x) s = execMovh x s := rfl
@[simp] theorem exec_and (x : Args) (s : State) : exec (.and x) s = execAnd x s := rfl
@[simp] theorem exec_or (x : Args) (s : State) : exec (.or x) s = execOr x s := rfl
@[simp] theorem exec_xor (x : Args) (s : State) : exec (.xor x) s = execXor x s := rfl
@[simp] theorem exec_andn (x : Args) (s : State) : exec (.andn x) s = execAndn x s := rfl
@[simp] theorem exec_not (x : Args) (s : State) : exec (.not x) s = execNot x s := rfl
@[simp] theorem exec_shl (x : Args) (s : State) : exec (.shl x) s = execShl x s := rfl
@[simp] theorem exec_shr (x : Args) (s : State) : exec (.shr x) s = execShr x s := rfl
@[simp] theorem exec_sra (x : Args) (s : State) : exec (.sra x) s = execSra x s := rfl
@[simp] theorem exec_rol (x : Args) (s : State) : exec (.rol x) s = execRol x s := rfl
@[simp] theorem exec_clz (x : Args) (s : State) : exec (.clz x) s = execClz x s := rfl
@[simp] theorem exec_ctz (x : Args) (s : State) : exec (.ctz x) s = execCtz x s := rfl
@[simp] theorem exec_popc (x : Args) (s : State) : exec (.popc x) s = execPopc x s := rfl
@[simp] theorem exec_brev (x : Args) (s : State) : exec (.brev x) s = execBrev x s := rfl
@[simp] theorem exec_bfx (x : Args) (s : State) : exec (.bfx x) s = execBfx x s := rfl
@[simp] theorem exec_bfi (x : Args) (s : State) : exec (.bfi x) s = execBfi x s := rfl
@[simp] theorem exec_prmb (x : Args) (s : State) : exec (.prmb x) s = execPrmb x s := rfl
@[simp] theorem exec_fadd (x : Args) (s : State) : exec (.fadd x) s = execFadd x s := rfl
@[simp] theorem exec_fsub (x : Args) (s : State) : exec (.fsub x) s = execFsub x s := rfl
@[simp] theorem exec_fmul (x : Args) (s : State) : exec (.fmul x) s = execFmul x s := rfl
@[simp] theorem exec_ffma (x : Args) (s : State) : exec (.ffma x) s = execFfma x s := rfl
@[simp] theorem exec_fmin (x : Args) (s : State) : exec (.fmin x) s = execFmin x s := rfl
@[simp] theorem exec_fmax (x : Args) (s : State) : exec (.fmax x) s = execFmax x s := rfl
@[simp] theorem exec_fabs (x : Args) (s : State) : exec (.fabs x) s = execFabs x s := rfl
@[simp] theorem exec_fneg (x : Args) (s : State) : exec (.fneg x) s = execFneg x s := rfl
@[simp] theorem exec_fcmp (x : Args) (s : State) : exec (.fcmp x) s = execFcmp x s := rfl
@[simp] theorem exec_fclass (x : Args) (s : State) : exec (.fclass x) s = execFclass x s := rfl
@[simp] theorem exec_fdiv (x : Args) (s : State) : exec (.fdiv x) s = execFdiv x s := rfl
@[simp] theorem exec_fsqrt (x : Args) (s : State) : exec (.fsqrt x) s = execFsqrt x s := rfl
@[simp] theorem exec_frnd (x : Args) (s : State) : exec (.frnd x) s = execFrnd x s := rfl
@[simp] theorem exec_fscl (x : Args) (s : State) : exec (.fscl x) s = execFscl x s := rfl
@[simp] theorem exec_frcp (x : Args) (s : State) : exec (.frcp x) s = execFrcp x s := rfl
@[simp] theorem exec_frsq (x : Args) (s : State) : exec (.frsq x) s = execFrsq x s := rfl
@[simp] theorem exec_fexp2 (x : Args) (s : State) : exec (.fexp2 x) s = execFexp2 x s := rfl
@[simp] theorem exec_flog2 (x : Args) (s : State) : exec (.flog2 x) s = execFlog2 x s := rfl
@[simp] theorem exec_fsin (x : Args) (s : State) : exec (.fsin x) s = execFsin x s := rfl
@[simp] theorem exec_fcos (x : Args) (s : State) : exec (.fcos x) s = execFcos x s := rfl
@[simp] theorem exec_ftanh (x : Args) (s : State) : exec (.ftanh x) s = execFtanh x s := rfl
@[simp] theorem exec_cvt (x : Args) (s : State) : exec (.cvt x) s = execCvt x s := rfl
@[simp] theorem exec_cvtp (x : Args) (s : State) : exec (.cvtp x) s = execCvtp x s := rfl
@[simp] theorem exec_cvtbp (x : Args) (s : State) : exec (.cvtbp x) s = execCvtbp x s := rfl
@[simp] theorem exec_cvfbp (x : Args) (s : State) : exec (.cvfbp x) s = execCvfbp x s := rfl
@[simp] theorem exec_amax (x : Args) (s : State) : exec (.amax x) s = execAmax x s := rfl
@[simp] theorem exec_qscl (x : Args) (s : State) : exec (.qscl x) s = execQscl x s := rfl
@[simp] theorem exec_shfl (x : Args) (s : State) : exec (.shfl x) s = execShfl x s := rfl
@[simp] theorem exec_vote (x : Args) (s : State) : exec (.vote x) s = execVote x s := rfl
@[simp] theorem exec_lred (x : Args) (s : State) : exec (.lred x) s = execLred x s := rfl
@[simp] theorem exec_scan (x : Args) (s : State) : exec (.scan x) s = execScan x s := rfl
@[simp] theorem exec_vtos (x : Args) (s : State) : exec (.vtos x) s = execVtos x s := rfl
@[simp] theorem exec_gtrn (x : Args) (s : State) : exec (.gtrn x) s = execGtrn x s := rfl
@[simp] theorem exec_topk (x : Args) (s : State) : exec (.topk x) s = execTopk x s := rfl
@[simp] theorem exec_kand (x : Args) (s : State) : exec (.kand x) s = execKand x s := rfl
@[simp] theorem exec_kor (x : Args) (s : State) : exec (.kor x) s = execKor x s := rfl
@[simp] theorem exec_kxor (x : Args) (s : State) : exec (.kxor x) s = execKxor x s := rfl
@[simp] theorem exec_knot (x : Args) (s : State) : exec (.knot x) s = execKnot x s := rfl
@[simp] theorem exec_kmov (x : Args) (s : State) : exec (.kmov x) s = execKmov x s := rfl
@[simp] theorem exec_kpop (x : Args) (s : State) : exec (.kpop x) s = execKpop x s := rfl
@[simp] theorem exec_kffs (x : Args) (s : State) : exec (.kffs x) s = execKffs x s := rfl
@[simp] theorem exec_exec (x : Args) (s : State) : exec (.exec x) s = execExec x s := rfl
@[simp] theorem exec_execr (x : Args) (s : State) : exec (.execr x) s = execExecr x s := rfl
@[simp] theorem exec_br (x : Args) (s : State) : exec (.br x) s = execBr x s := rfl
@[simp] theorem exec_brc (x : Args) (s : State) : exec (.brc x) s = execBrc x s := rfl
@[simp] theorem exec_brz (x : Args) (s : State) : exec (.brz x) s = execBrz x s := rfl
@[simp] theorem exec_brd (x : Args) (s : State) : exec (.brd x) s = execBrd x s := rfl
@[simp] theorem exec_mbr (x : MbrArgs) (s : State) : exec (.mbr x) s = execMbr x s := rfl
@[simp] theorem exec_join (x : Args) (s : State) : exec (.join x) s = execJoin x s := rfl
@[simp] theorem exec_call (x : Args) (s : State) : exec (.call x) s = execCall x s := rfl
@[simp] theorem exec_ret (x : Args) (s : State) : exec (.ret x) s = execRet x s := rfl
@[simp] theorem exec_jmpi (x : Args) (s : State) : exec (.jmpi x) s = execJmpi x s := rfl
@[simp] theorem exec_loop (x : Args) (s : State) : exec (.loop x) s = execLoop x s := rfl
@[simp] theorem exec_yield (x : Args) (s : State) : exec (.yield x) s = execYield x s := rfl
@[simp] theorem exec_exit (x : Args) (s : State) : exec (.exit x) s = execExit x s := rfl
@[simp] theorem exec_nop (x : Args) (s : State) : exec (.nop x) s = execNop x s := rfl
@[simp] theorem exec_brk (x : Args) (s : State) : exec (.brk x) s = execBrk x s := rfl
@[simp] theorem exec_ld (x : Args) (s : State) : exec (.ld x) s = execLd x s := rfl
@[simp] theorem exec_st (x : Args) (s : State) : exec (.st x) s = execSt x s := rfl
@[simp] theorem exec_lds (x : Args) (s : State) : exec (.lds x) s = execLds x s := rfl
@[simp] theorem exec_sts (x : Args) (s : State) : exec (.sts x) s = execSts x s := rfl
@[simp] theorem exec_pref (x : Args) (s : State) : exec (.pref x) s = execPref x s := rfl
@[simp] theorem exec_cctl (x : Args) (s : State) : exec (.cctl x) s = execCctl x s := rfl
@[simp] theorem exec_fence (x : Args) (s : State) : exec (.fence x) s = execFence x s := rfl
@[simp] theorem exec_ldp (x : Args) (s : State) : exec (.ldp x) s = execLdp x s := rfl
@[simp] theorem exec_ldacc (x : Args) (s : State) : exec (.ldacc x) s = execLdacc x s := rfl
@[simp] theorem exec_stacc (x : Args) (s : State) : exec (.stacc x) s = execStacc x s := rfl
@[simp] theorem exec_amo (x : Args) (s : State) : exec (.amo x) s = execAmo x s := rfl
@[simp] theorem exec_cas (x : Args) (s : State) : exec (.cas x) s = execCas x s := rfl
@[simp] theorem exec_redu (x : Args) (s : State) : exec (.redu x) s = execRedu x s := rfl
@[simp] theorem exec_kld (x : Args) (s : State) : exec (.kld x) s = execKld x s := rfl
@[simp] theorem exec_kst (x : Args) (s : State) : exec (.kst x) s = execKst x s := rfl
@[simp] theorem exec_ksib (x : Args) (s : State) : exec (.ksib x) s = execKsib x s := rfl
@[simp] theorem exec_krec (x : Args) (s : State) : exec (.krec x) s = execKrec x s := rfl
@[simp] theorem exec_chld (x : Args) (s : State) : exec (.chld x) s = execChld x s := rfl
@[simp] theorem exec_chinv (x : Args) (s : State) : exec (.chinv x) s = execChinv x s := rfl
@[simp] theorem exec_mcb (x : Args) (s : State) : exec (.mcb x) s = execMcb x s := rfl
@[simp] theorem exec_mma (x : Args) (s : State) : exec (.mma x) s = execMma x s := rfl
@[simp] theorem exec_mce (x : Args) (s : State) : exec (.mce x) s = execMce x s := rfl
@[simp] theorem exec_mdrn (x : Args) (s : State) : exec (.mdrn x) s = execMdrn x s := rfl
@[simp] theorem exec_mclr (x : Args) (s : State) : exec (.mclr x) s = execMclr x s := rfl
@[simp] theorem exec_morf (x : Args) (s : State) : exec (.morf x) s = execMorf x s := rfl
@[simp] theorem exec_msmx (x : Args) (s : State) : exec (.msmx x) s = execMsmx x s := rfl
@[simp] theorem exec_mscl (x : Args) (s : State) : exec (.mscl x) s = execMscl x s := rfl
@[simp] theorem exec_cpy (x : Args) (s : State) : exec (.cpy x) s = execCpy x s := rfl
@[simp] theorem exec_cpyg (x : Args) (s : State) : exec (.cpyg x) s = execCpyg x s := rfl
@[simp] theorem exec_cpys (x : Args) (s : State) : exec (.cpys x) s = execCpys x s := rfl
@[simp] theorem exec_await (x : Args) (s : State) : exec (.await x) s = execAwait x s := rfl
@[simp] theorem exec_ftest (x : Args) (s : State) : exec (.ftest x) s = execFtest x s := rfl
@[simp] theorem exec_fcan (x : Args) (s : State) : exec (.fcan x) s = execFcan x s := rfl
@[simp] theorem exec_fhnd (x : Args) (s : State) : exec (.fhnd x) s = execFhnd x s := rfl
@[simp] theorem exec_wany (x : Args) (s : State) : exec (.wany x) s = execWany x s := rfl
@[simp] theorem exec_wall (x : Args) (s : State) : exec (.wall x) s = execWall x s := rfl
@[simp] theorem exec_wffr (x : Args) (s : State) : exec (.wffr x) s = execWffr x s := rfl
@[simp] theorem exec_binit (x : Args) (s : State) : exec (.binit x) s = execBinit x s := rfl
@[simp] theorem exec_barv (x : Args) (s : State) : exec (.barv x) s = execBarv x s := rfl
@[simp] theorem exec_bwait (x : Args) (s : State) : exec (.bwait x) s = execBwait x s := rfl
@[simp] theorem exec_barw (x : Args) (s : State) : exec (.barw x) s = execBarw x s := rfl
@[simp] theorem exec_bqry (x : Args) (s : State) : exec (.bqry x) s = execBqry x s := rfl
@[simp] theorem exec_lnch (x : Args) (s : State) : exec (.lnch x) s = execLnch x s := rfl
@[simp] theorem exec_acq (x : Args) (s : State) : exec (.acq x) s = execAcq x s := rfl
@[simp] theorem exec_park (x : Args) (s : State) : exec (.park x) s = execPark x s := rfl
@[simp] theorem exec_wake (x : Args) (s : State) : exec (.wake x) s = execWake x s := rfl
@[simp] theorem exec_kvx (x : Args) (s : State) : exec (.kvx x) s = execKvx x s := rfl
@[simp] theorem exec_kvw (x : Args) (s : State) : exec (.kvw x) s = execKvw x s := rfl
@[simp] theorem exec_kvr (x : Args) (s : State) : exec (.kvr x) s = execKvr x s := rfl
@[simp] theorem exec_pin (x : Args) (s : State) : exec (.pin x) s = execPin x s := rfl
@[simp] theorem exec_unpin (x : Args) (s : State) : exec (.unpin x) s = execUnpin x s := rfl
@[simp] theorem exec_hint (x : Args) (s : State) : exec (.hint x) s = execHint x s := rfl
@[simp] theorem exec_migr (x : Args) (s : State) : exec (.migr x) s = execMigr x s := rfl
@[simp] theorem exec_tlbi (x : Args) (s : State) : exec (.tlbi x) s = execTlbi x s := rfl
@[simp] theorem exec_ownrRequest (x : Args) (s : State) : exec (.ownrRequest x) s = execOwnrRequest x s := rfl
@[simp] theorem exec_ownrRelease (x : Args) (s : State) : exec (.ownrRelease x) s = execOwnrRelease x s := rfl
@[simp] theorem exec_cntr (x : Args) (s : State) : exec (.cntr x) s = execCntr x s := rfl
@[simp] theorem exec_cntc (x : Args) (s : State) : exec (.cntc x) s = execCntc x s := rfl
@[simp] theorem exec_pgcnt (x : Args) (s : State) : exec (.pgcnt x) s = execPgcnt x s := rfl
@[simp] theorem exec_tstp (x : Args) (s : State) : exec (.tstp x) s = execTstp x s := rfl
@[simp] theorem exec_srr (x : Args) (s : State) : exec (.srr x) s = execSrr x s := rfl
@[simp] theorem exec_srw (x : Args) (s : State) : exec (.srw x) s = execSrw x s := rfl
@[simp] theorem exec_trap (x : Args) (s : State) : exec (.trap x) s = execTrap x s := rfl
@[simp] theorem exec_tret (x : Args) (s : State) : exec (.tret x) s = execTret x s := rfl
@[simp] theorem exec_iflush (x : Args) (s : State) : exec (.iflush x) s = execIflush x s := rfl
@[simp] theorem exec_svsb (x : Args) (s : State) : exec (.svsb x) s = execSvsb x s := rfl
@[simp] theorem exec_ldsb (x : Args) (s : State) : exec (.ldsb x) s = execLdsb x s := rfl
@[simp] theorem exec_svss (x : Args) (s : State) : exec (.svss x) s = execSvss x s := rfl
@[simp] theorem exec_ldss (x : Args) (s : State) : exec (.ldss x) s = execLdss x s := rfl
@[simp] theorem exec_svacc (x : Args) (s : State) : exec (.svacc x) s = execSvacc x s := rfl
@[simp] theorem exec_ldacr (x : Args) (s : State) : exec (.ldacr x) s = execLdacr x s := rfl
@[simp] theorem exec_svchk (x : Args) (s : State) : exec (.svchk x) s = execSvchk x s := rfl
@[simp] theorem exec_ldchk (x : Args) (s : State) : exec (.ldchk x) s = execLdchk x s := rfl
@[simp] theorem exec_wfi (x : Args) (s : State) : exec (.wfi x) s = execWfi x s := rfl
@[simp] theorem exec_halt (x : Args) (s : State) : exec (.halt x) s = execHalt x s := rfl
@[simp] theorem exec_sectorReturn (load sector : Nat) (s : State) : exec (.sectorReturn load sector) s = execSectorReturn load sector s := rfl
@[simp] theorem exec_registerReply (reply : Nat) (s : State) : exec (.registerReply reply) s = execRegisterReply reply s := rfl
@[simp] theorem exec_splitStackRefill (hart : Nat) (s : State) : exec (.splitStackRefill hart) s = execSplitStackRefill hart s := rfl
@[simp] theorem exec_storeBufferDeparture (hart : Nat) (s : State) : exec (.storeBufferDeparture hart) s = execStoreBufferDeparture hart s := rfl
@[simp] theorem exec_storeAcknowledgement (ack : Nat) (s : State) : exec (.storeAcknowledgement ack) s = execStoreAcknowledgement ack s := rfl
@[simp] theorem exec_ldpHoldRelease (req : Nat) (s : State) : exec (.ldpHoldRelease req) s = execLdpHoldRelease req s := rfl
@[simp] theorem exec_ldpHoldTimeout (req : Nat) (s : State) : exec (.ldpHoldTimeout req) s = execLdpHoldTimeout req s := rfl
@[simp] theorem exec_scopedCacheEviction (cluster : Bool) (cache line : Nat) (s : State) : exec (.scopedCacheEviction cluster cache line) s = execScopedCacheEviction cluster cache line s := rfl
@[simp] theorem exec_translationWalk (hart : Nat) (va : Word) (acc : AccessKind) (s : State) : exec (.translationWalk hart va acc) s = execTranslationWalk hart va acc s := rfl
@[simp] theorem exec_mappingNotice (pkg pa : Nat) (s : State) : exec (.mappingNotice pkg pa) s = execMappingNotice pkg pa s := rfl
@[simp] theorem exec_preemptRequest (crew : Nat) (park : Bool) (s : State) : exec (.preemptRequest crew park) s = execPreemptRequest crew park s := rfl
@[simp] theorem exec_preemptDelivery (hart : Nat) (s : State) : exec (.preemptDelivery hart) s = execPreemptDelivery hart s := rfl
@[simp] theorem exec_preemptTimeout (crew : Nat) (s : State) : exec (.preemptTimeout crew) s = execPreemptTimeout crew s := rfl
@[simp] theorem exec_admissionWaitExpiry (launch : Nat) (s : State) : exec (.admissionWaitExpiry launch) s = execAdmissionWaitExpiry launch s := rfl
@[simp] theorem exec_migrationNotify (thread : Nat) (s : State) : exec (.migrationNotify thread) s = execMigrationNotify thread s := rfl
@[simp] theorem exec_externalEvent (thread : Nat) (s : State) : exec (.externalEvent thread) s = execExternalEvent thread s := rfl
@[simp] theorem exec_crewExit (crew : Nat) (s : State) : exec (.crewExit crew) s = execCrewExit crew s := rfl
@[simp] theorem exec_drainingSettled (crew : Nat) (s : State) : exec (.drainingSettled crew) s = execDrainingSettled crew s := rfl
@[simp] theorem exec_launchRecordStart (queue : Nat) (s : State) : exec (.launchRecordStart queue) s = execLaunchRecordStart queue s := rfl
@[simp] theorem exec_queueBinding (slot : Nat) (s : State) : exec (.queueBinding slot) s = execQueueBinding slot s := rfl
@[simp] theorem exec_crewPlacement (launch : Nat) (s : State) : exec (.crewPlacement launch) s = execCrewPlacement launch s := rfl
@[simp] theorem exec_acqGrant (core : Nat) (s : State) : exec (.acqGrant core) s = execAcqGrant core s := rfl
@[simp] theorem exec_wakeWordWrite (pa : Nat) (data : List Byte) (s : State) : exec (.wakeWordWrite pa data) s = execWakeWordWrite pa data s := rfl
@[simp] theorem exec_rcbStateWrite (rcb : Nat) (value : BitVec 3) (s : State) : exec (.rcbStateWrite rcb value) s = execRcbStateWrite rcb value s := rfl
@[simp] theorem exec_rungExpiry (cont : Nat) (s : State) : exec (.rungExpiry cont) s = execRungExpiry cont s := rfl
@[simp] theorem exec_blockMoveDone (move : Nat) (s : State) : exec (.blockMoveDone move) s = execBlockMoveDone move s := rfl
@[simp] theorem exec_blockSettle (move : Nat) (s : State) : exec (.blockSettle move) s = execBlockSettle move s := rfl
@[simp] theorem exec_migrationCommandTake (s : State) : exec (.migrationCommandTake) s = execMigrationCommandTake s := rfl
@[simp] theorem exec_migrationDoorbell (service : Nat) (s : State) : exec (.migrationDoorbell service) s = execMigrationDoorbell service s := rfl
@[simp] theorem exec_migrationStart (mig : Nat) (s : State) : exec (.migrationStart mig) s = execMigrationStart mig s := rfl
@[simp] theorem exec_migrationRatePeriod (home : Home) (s : State) : exec (.migrationRatePeriod home) s = execMigrationRatePeriod home s := rfl
@[simp] theorem exec_lineCopy (mig : Nat) (s : State) : exec (.lineCopy mig) s = execLineCopy mig s := rfl
@[simp] theorem exec_shootdownComplete (mig : Nat) (s : State) : exec (.shootdownComplete mig) s = execShootdownComplete mig s := rfl
@[simp] theorem exec_abortComplete (mig : Nat) (s : State) : exec (.abortComplete mig) s = execAbortComplete mig s := rfl
@[simp] theorem exec_sweepRebase (region : Nat) (others : List SweepShare) (s : State) : exec (.sweepRebase region others) s = execSweepRebase region others s := rfl
@[simp] theorem exec_updateSend (region dot member : Nat) (s : State) : exec (.updateSend region dot member) s = execUpdateSend region dot member s := rfl
@[simp] theorem exec_keepingUpdateApply (u : Update) (s : State) : exec (.keepingUpdateApply u) s = execKeepingUpdateApply u s := rfl
@[simp] theorem exec_updateAck (region dot member : Nat) (s : State) : exec (.updateAck region dot member) s = execUpdateAck region dot member s := rfl
@[simp] theorem exec_holdQueueRetry (region : Nat) (s : State) : exec (.holdQueueRetry region) s = execHoldQueueRetry region s := rfl
@[simp] theorem exec_krecDeferred (req : Nat) (s : State) : exec (.krecDeferred req) s = execKrecDeferred req s := rfl
@[simp] theorem exec_rd (agent guest pa : Nat) (s : State) : exec (.rd agent guest pa) s = execRd agent guest pa s := rfl
@[simp] theorem exec_rdx (agent guest pa : Nat) (s : State) : exec (.rdx agent guest pa) s = execRdx agent guest pa s := rfl
@[simp] theorem exec_homeAccess (req : Nat) (s : State) : exec (.homeAccess req) s = execHomeAccess req s := rfl
@[simp] theorem exec_reduAtAgent (req : Nat) (s : State) : exec (.reduAtAgent req) s = execReduAtAgent req s := rfl
@[simp] theorem exec_unitMerge (home : Home) (base size : Nat) (s : State) : exec (.unitMerge home base size) s = execUnitMerge home base size s := rfl
@[simp] theorem exec_writeBackArrival (agent guest pa : Nat) (data : List (Nat × Byte)) (s : State) : exec (.writeBackArrival agent guest pa data) s = execWriteBackArrival agent guest pa data s := rfl
@[simp] theorem exec_peerRequest (pkg guest pa : Nat) (kind : PeerKind) (s : State) : exec (.peerRequest pkg guest pa kind) s = execPeerRequest pkg guest pa kind s := rfl
@[simp] theorem exec_holderFailure (agent : Nat) (pkg : Nat) (s : State) : exec (.holderFailure agent pkg) s = execHolderFailure agent pkg s := rfl
@[simp] theorem exec_homeLoss (die : Nat) (s : State) : exec (.homeLoss die) s = execHomeLoss die s := rfl
@[simp] theorem exec_deviceLevelFault (part : Part) (s : State) : exec (.deviceLevelFault part) s = execDeviceLevelFault part s := rfl
@[simp] theorem exec_ownershipReq (page pkg : Nat) (s : State) : exec (.ownershipReq page pkg) s = execOwnershipReq page pkg s := rfl
@[simp] theorem exec_delayedGrant (page : Nat) (s : State) : exec (.delayedGrant page) s = execDelayedGrant page s := rfl
@[simp] theorem exec_grant (page : Nat) (data : List (Nat × Byte)) (s : State) : exec (.grant page data) s = execGrant page data s := rfl
@[simp] theorem exec_redirect (page pkg : Nat) (s : State) : exec (.redirect page pkg) s = execRedirect page pkg s := rfl
@[simp] theorem exec_ownershipTimeout (page : Nat) (s : State) : exec (.ownershipTimeout page) s = execOwnershipTimeout page s := rfl
@[simp] theorem exec_metadataUpdate (page pkg : Nat) (expected new : Word) (s : State) : exec (.metadataUpdate page pkg expected new) s = execMetadataUpdate page pkg expected new s := rfl
@[simp] theorem exec_mmaCompletion (crew : Nat) (s : State) : exec (.mmaCompletion crew) s = execMmaCompletion crew s := rfl
@[simp] theorem exec_chainCompletion (crew : Nat) (s : State) : exec (.chainCompletion crew) s = execChainCompletion crew s := rfl
@[simp] theorem exec_drainCompletion (crew op : Nat) (s : State) : exec (.drainCompletion crew op) s = execDrainCompletion crew op s := rfl
@[simp] theorem exec_chuckLoadCompletion (crew op : Nat) (s : State) : exec (.chuckLoadCompletion crew op) s = execChuckLoadCompletion crew op s := rfl
@[simp] theorem exec_msmxCompletion (crew op : Nat) (s : State) : exec (.msmxCompletion crew op) s = execMsmxCompletion crew op s := rfl
@[simp] theorem exec_msclCompletion (crew op : Nat) (s : State) : exec (.msclCompletion crew op) s = execMsclCompletion crew op s := rfl
@[simp] theorem exec_copyCommandStart (engine : Nat) (s : State) : exec (.copyCommandStart engine) s = execCopyCommandStart engine s := rfl
@[simp] theorem exec_futureCompletion (op : Nat) (s : State) : exec (.futureCompletion op) s = execFutureCompletion op s := rfl
@[simp] theorem exec_powerSample (milliwatts : Nat) (s : State) : exec (.powerSample milliwatts) s = execPowerSample milliwatts s := rfl
@[simp] theorem exec_coolantFault (s : State) : exec (.coolantFault) s = execCoolantFault s := rfl
@[simp] theorem exec_flitArrival (link guest : Nat) (s : State) : exec (.flitArrival link guest) s = execFlitArrival link guest s := rfl
@[simp] theorem exec_calendarSlot (cal : Nat) (s : State) : exec (.calendarSlot cal) s = execCalendarSlot cal s := rfl
@[simp] theorem exec_linkDown (port : Nat) (s : State) : exec (.linkDown port) s = execLinkDown port s := rfl
@[simp] theorem exec_packageUnreachable (pkg : Nat) (s : State) : exec (.packageUnreachable pkg) s = execPackageUnreachable pkg s := rfl
@[simp] theorem exec_sequencerReappoint (clocks : List Word) (s : State) : exec (.sequencerReappoint clocks) s = execSequencerReappoint clocks s := rfl
@[simp] theorem exec_refreshRateChange (layer : Nat) (milliCelsius : Int) (s : State) : exec (.refreshRateChange layer milliCelsius) s = execRefreshRateChange layer milliCelsius s := rfl
@[simp] theorem exec_onDieCheckFail (pa : Nat) (s : State) : exec (.onDieCheckFail pa) s = execOnDieCheckFail pa s := rfl
@[simp] theorem exec_eventRaise (n : Nat) (s : State) : exec (.eventRaise n) s = execEventRaise n s := rfl
@[simp] theorem exec_eventDoorbell (width : Nat) (value : Word) (s : State) : exec (.eventDoorbell width value) s = execEventDoorbell width value s := rfl
@[simp] theorem exec_eventConfigWrite (n : Nat) (mode : Mode) (value : Word) (s : State) : exec (.eventConfigWrite n mode value) s = execEventConfigWrite n mode value s := rfl
@[simp] theorem exec_ckpt (mode : Mode) (value : Word) (s : State) : exec (.ckpt mode value) s = execCkpt mode value s := rfl
@[simp] theorem exec_checkpointWrite (s : State) : exec (.checkpointWrite) s = execCheckpointWrite s := rfl
@[simp] theorem exec_checkpointClose (s : State) : exec (.checkpointClose) s = execCheckpointClose s := rfl
@[simp] theorem exec_coldReset (image : FwImage) (s : State) : exec (.coldReset image) s = execColdReset image s := rfl
@[simp] theorem exec_attestationRequest (nonce : BitVec 256) (s : State) : exec (.attestationRequest nonce) s = execAttestationRequest nonce s := rfl
@[simp] theorem exec_systemBlockWrite (mode : Mode) (word : Nat) (value : Word) (s : State) : exec (.systemBlockWrite mode word value) s = execSystemBlockWrite mode word value s := rfl
@[simp] theorem exec_execWrite (hart : Nat) (value : Mask) (s : State) : exec (.execWrite hart value) s = execExecWrite hart value s := rfl
@[simp] theorem exec_liveWrite (hart : Nat) (value : Mask) (s : State) : exec (.liveWrite hart value) s = execLiveWrite hart value s := rfl
@[simp] theorem exec_fpmWrite (hart : Nat) (value : Word) (s : State) : exec (.fpmWrite hart value) s = execFpmWrite hart value s := rfl
@[simp] theorem exec_fflagsAccess (hart : Nat) (write : Option Word) (s : State) : exec (.fflagsAccess hart write) s = execFflagsAccess hart write s := rfl
@[simp] theorem exec_tagmapClear (crew : Nat) (value : Word) (s : State) : exec (.tagmapClear crew value) s = execTagmapClear crew value s := rfl
@[simp] theorem exec_nheadWrite (guest : Nat) (value : BitVec 32) (s : State) : exec (.nheadWrite guest value) s = execNheadWrite guest value s := rfl
@[simp] theorem exec_registerWrite (hart reg : Nat) (value : Word) (s : State) : exec (.registerWrite hart reg value) s = execRegisterWrite hart reg value s := rfl
@[simp] theorem exec_coolantRestored (s : State) : exec (.coolantRestored) s = execCoolantRestored s := rfl
@[simp] theorem exec_serviceCoreRestart (service : Nat) (s : State) : exec (.serviceCoreRestart service) s = execServiceCoreRestart service s := rfl
@[simp] theorem exec_wait (page : Nat) (s : State) : exec (.wait page) s = execWait page s := rfl
@[simp] theorem exec_peerInvalidation (pkg pa : Nat) (recalled : Bool) (s : State) : exec (.peerInvalidation pkg pa recalled) s = execPeerInvalidation pkg pa recalled s := rfl

end Sys2Proof.Laws
end

