-- ==== Sys2Proof/Laws/State.lean ====
section
/-! SUPPORT. What every update of the state leaves and changes: tables, registers, harts, and the fields of the state. -/
namespace Sys2Proof.Laws

open Machine

/-! ### Tables -/

theorem sget_sdrop {α : Type} (d : α) (m : Sparse α) (k j : Nat) :
    sget d (sdrop m k) j = if k = j then d else sget d m j := by
  induction m with
  | nil => simp [sdrop, sget]
  | cons p r ih =>
    obtain ⟨a, v⟩ := p
    by_cases h : a = k
    · subst h
      by_cases hj : a = j
      · simp_all [sdrop]
      · simp_all [sdrop, sget]
    · by_cases hj : a = j
      · subst hj; simp [sdrop, sget, h, Ne.symm h]
      · simp [sdrop, sget, h, hj, ih]

theorem sget_sput {α : Type} (d : α) (m : Sparse α) (k j : Nat) (v : α) (h : ∀ p ∈ m, p.1 ≠ k) :
    sget d (sput m k v) j = if k = j then v else sget d m j := by
  induction m with
  | nil => simp [sput, sget]
  | cons p r ih =>
    obtain ⟨a, w⟩ := p
    have ha : a ≠ k := h (a, w) (by simp)
    have hr := ih (fun p hp => h p (by simp [hp]))
    by_cases hlt : k < a
    · simp [sput, sget, hlt]
    · by_cases hj : a = j
      · subst hj; simp [sput, sget, hlt, Ne.symm ha]
      · simp [sput, sget, hlt, hj, hr]

theorem sdrop_keys {α : Type} (m : Sparse α) (k : Nat) : ∀ p ∈ sdrop m k, p.1 ≠ k := by
  induction m with
  | nil => simp [sdrop]
  | cons p r ih =>
    obtain ⟨a, v⟩ := p
    by_cases h : a = k <;> simp_all [sdrop] <;> exact ih

/-- A table read after a write: the value written at its key, and every other key as before, whatever the table. -/
@[simp] theorem sget_sset {α : Type} [DecidableEq α] (d : α) (m : Sparse α) (k j : Nat) (v : α) :
    sget d (sset d m k v) j = if k = j then v else sget d m j := by
  unfold sset
  split
  · subst v; exact sget_sdrop d m k j
  · rw [sget_sput d _ k j v (sdrop_keys m k), sget_sdrop]
    split <;> simp_all

/-- Keys of a canonical table exceed the bound they are compared with. -/
theorem sdrop_of_lt {α : Type} (m : Sparse α) (k : Nat) (h : ∀ p ∈ m, k < p.1) : sdrop m k = m := by
  induction m with
  | nil => rfl
  | cons p r ih =>
    obtain ⟨a, v⟩ := p
    have : k < a := h (a, v) (by simp)
    simp [sdrop, Nat.ne_of_gt this, ih (fun p hp => h p (by simp [hp]))]

theorem mem_of_mem_sdrop {α : Type} {m : Sparse α} {k : Nat} {p : Nat × α} (h : p ∈ sdrop m k) : p ∈ m := by
  induction m with
  | nil => simp [sdrop] at h
  | cons q r ih =>
    obtain ⟨a, v⟩ := q
    by_cases ha : a = k <;> simp_all [sdrop]
    grind

theorem mem_of_mem_sput {α : Type} {m : Sparse α} {k : Nat} {v : α} {p : Nat × α} (h : p ∈ sput m k v) :
    p = (k, v) ∨ p ∈ m := by
  induction m with
  | nil => simp_all [sput]
  | cons q r ih =>
    obtain ⟨a, w⟩ := q
    by_cases hlt : k < a <;> simp_all [sput]
    grind

theorem swf_cons {α : Type} [DecidableEq α] {d : α} {k : Nat} {v : α} {r : Sparse α} :
    swf d ((k, v) :: r) = true ↔ v ≠ d ∧ (∀ p ∈ r, k < p.1) ∧ swf d r = true := by
  simp [swf, and_assoc]

theorem swf_sdrop {α : Type} [DecidableEq α] {d : α} {m : Sparse α} (k : Nat) (h : swf d m = true) :
    swf d (sdrop m k) = true := by
  induction m with
  | nil => rfl
  | cons q r ih =>
    obtain ⟨a, w⟩ := q
    obtain ⟨h1, h2, h3⟩ := swf_cons.1 h
    by_cases ha : a = k
    · simp [sdrop, ha, ih h3]
    · simp only [sdrop, ha, if_false]
      exact swf_cons.2 ⟨h1, fun p hp => h2 p (mem_of_mem_sdrop hp), ih h3⟩

theorem swf_sput {α : Type} [DecidableEq α] {d : α} {m : Sparse α} {k : Nat} {v : α} (hv : v ≠ d)
    (hk : ∀ p ∈ m, p.1 ≠ k) (h : swf d m = true) : swf d (sput m k v) = true := by
  induction m with
  | nil => simp [sput, swf, hv]
  | cons q r ih =>
    obtain ⟨a, w⟩ := q
    obtain ⟨h1, h2, h3⟩ := swf_cons.1 h
    have ha : a ≠ k := hk (a, w) (by simp)
    by_cases hlt : k < a
    · simp only [sput, hlt, if_true]
      refine swf_cons.2 ⟨hv, fun p hp => ?_, h⟩
      rcases List.mem_cons.1 hp with rfl | hp
      · exact hlt
      · exact Nat.lt_trans hlt (h2 p hp)
    · simp only [sput, hlt, if_false]
      refine swf_cons.2 ⟨h1, fun p hp => ?_, ih (fun p hp => hk p (by simp [hp])) h3⟩
      rcases mem_of_mem_sput hp with rfl | hp
      · exact Nat.lt_of_le_of_ne (Nat.le_of_not_lt hlt) ha
      · exact h2 p hp

/-- A write keeps the canonical form of a table. -/
theorem swf_sset {α : Type} [DecidableEq α] {d : α} {m : Sparse α} (k : Nat) (v : α) (h : swf d m = true) :
    swf d (sset d m k v) = true := by
  unfold sset
  split
  · exact swf_sdrop k h
  · exact swf_sput ‹_› (sdrop_keys m k) (swf_sdrop k h)

/-! ### Memory -/

/-- A byte read after a write of one byte. -/
@[simp] theorem memory_get_set (m : List Host.Cell) (a b : Nat) (v : Byte) :
    Memory.get (Memory.set m a v) b = if a = b then v else Memory.get m b := by
  simp [Memory.get, Memory.set]

/-- A write of one byte keeps the canonical form. -/
theorem memory_wf_set {m : List Host.Cell} (a : Nat) (v : Byte) (h : Memory.wf m = true) :
    Memory.wf (Memory.set m a v) = true := swf_sset a v h

/-- A write of many bytes keeps the canonical form. -/
theorem memory_wf_setAll {m : List Host.Cell} (l : List (Nat × Byte)) (h : Memory.wf m = true) :
    Memory.wf (Memory.setAll m l) = true := by
  unfold Memory.setAll
  induction l generalizing m with
  | nil => exact h
  | cons p r ih => exact ih (memory_wf_set p.1 p.2 h)

/-- A byte outside the bytes written reads as before. -/
theorem memory_get_setAll (m : List Host.Cell) (l : List (Nat × Byte)) (a : Nat) (h : ∀ p ∈ l, p.1 ≠ a) :
    Memory.get (Memory.setAll m l) a = Memory.get m a := by
  unfold Memory.setAll
  induction l generalizing m with
  | nil => rfl
  | cons p r ih =>
    simp only [List.foldl_cons]
    rw [ih _ (fun q hq => h q (by simp [hq]))]
    simp [h p (by simp)]

/-- A canonical table stays one where entries are taken out. -/
theorem swf_filter {α : Type} [DecidableEq α] {d : α} {m : Sparse α} (p : Nat × α → Bool) (h : swf d m = true) :
    swf d (m.filter p) = true := by
  induction m with
  | nil => rfl
  | cons q r ih =>
    obtain ⟨k, v⟩ := q
    obtain ⟨h1, h2, h3⟩ := swf_cons.1 h
    rw [List.filter_cons]
    split
    · exact swf_cons.2 ⟨h1, fun p hp => h2 p (List.mem_of_mem_filter hp), ih h3⟩
    · exact ih h3

/-- The memory after reset is canonical. -/
theorem memory_wf_reset : Memory.wf State.reset.mem.cells = true := rfl

/-- Bytes outside those poked read as before. -/
theorem byte_pokeAll (s : State) (l : List (Nat × Byte)) (a : Nat) (h : ∀ p ∈ l, p.1 ≠ a) :
    (s.pokeAll l).byte a = s.byte a := memory_get_setAll _ _ _ h

/-- A poke keeps the canonical form. -/
theorem wf_pokeAll {s : State} (l : List (Nat × Byte)) (h : Memory.wf s.mem.cells = true) :
    Memory.wf (s.pokeAll l).mem.cells = true := memory_wf_setAll l h

/-- A write at coherent points keeps the canonical form. -/
theorem wf_cohPoke {s : State} (by_ : Nat) (l : List (Nat × Byte)) (ps : List Nat) (h : Memory.wf s.mem.cells = true) :
    Memory.wf (s.cohPoke by_ l ps).mem.cells = true := memory_wf_setAll _ h

/-- Merging a partial keeps the canonical form. -/
theorem wf_mergePartial {s : State} (p : Partial) (h : Memory.wf s.mem.cells = true) :
    Memory.wf (s.mergePartial p).mem.cells = true := by
  unfold State.mergePartial
  dsimp only
  split
  · exact h
  · exact wf_cohPoke _ _ _ h

/-- What keeps the canonical form keeps it over a list. -/
theorem wf_foldl {α : Type} (f : State → α → State) (l : List α)
    (hf : ∀ s a, Memory.wf s.mem.cells = true → Memory.wf (f s a).mem.cells = true) {s : State} (h : Memory.wf s.mem.cells = true) :
    Memory.wf (l.foldl f s).mem.cells = true := by
  induction l generalizing s with
  | nil => exact h
  | cons a r ih => exact ih (hf s a h)

/-- Merging the partials of some lines keeps the canonical form. -/
theorem wf_mergeLines {s : State} (k n : Nat) (h : Memory.wf s.mem.cells = true) :
    Memory.wf (s.mergeLines k n).mem.cells = true := wf_foldl _ _ (fun _ p hp => wf_mergePartial p hp) h

/-- Merging every partial keeps the canonical form. -/
theorem wf_mergeAll {s : State} (h : Memory.wf s.mem.cells = true) : Memory.wf s.mergeAll.mem.cells = true :=
  wf_foldl _ _ (fun _ _ hs => wf_mergeLines _ _ hs) h

/-- A checkpoint, which takes out a range of cells and writes others, keeps the canonical form. -/
theorem wf_checkpointWrite {s t : State} (h : execCheckpointWrite s = .next t) (hw : Memory.wf s.mem.cells = true) :
    Memory.wf t.mem.cells = true := by
  unfold execCheckpointWrite at h
  split at h
  · cases h; exact hw
  · cases h; exact memory_wf_setAll _ (swf_filter _ (wf_mergeAll hw))

/-- A cold reset keeps of memory only what the drives hold, in the canonical form. -/
theorem wf_coldStart {s : State} (step failure : Nat) (h : Memory.wf s.mem.cells = true) :
    Memory.wf (s.coldStart step failure).mem.cells = true := swf_filter _ h

/-! ### Harts -/

@[simp] theorem hart_setHart (s : State) (h j : Nat) (t : Hart) :
    (s.setHart h t).hart j = if h = j then t else s.hart j := by simp [State.hart, State.setHart]

@[simp] theorem setHart_cycles (s : State) (h : Nat) (t : Hart) : (s.setHart h t).cycles = s.cycles := rfl
@[simp] theorem setHart_cores (s : State) (h : Nat) (t : Hart) : (s.setHart h t).cores = s.cores := rfl
@[simp] theorem setHart_mem (s : State) (h : Nat) (t : Hart) : (s.setHart h t).mem = s.mem := rfl
@[simp] theorem setHart_run (s : State) (h : Nat) (t : Hart) : (s.setHart h t).run = s.run := rfl
@[simp] theorem setHart_hub (s : State) (h : Nat) (t : Hart) : (s.setHart h t).hub = s.hub := rfl
@[simp] theorem setHart_pkg (s : State) (h : Nat) (t : Hart) : (s.setHart h t).pkg = s.pkg := rfl
@[simp] theorem setHart_tick (s : State) (h : Nat) (t : Hart) : (s.setHart h t).tick = s.tick := rfl
@[simp] theorem setHart_cur (s : State) (h : Nat) (t : Hart) : (s.setHart h t).cur = s.cur := rfl
@[simp] theorem setHart_turn (s : State) (h : Nat) (t : Hart) : (s.setHart h t).turn = s.turn := rfl
@[simp] theorem setHart_inputs (s : State) (h : Nat) (t : Hart) : (s.setHart h t).inputs = s.inputs := rfl
@[simp] theorem setHart_outbox (s : State) (h : Nat) (t : Hart) : (s.setHart h t).outbox = s.outbox := rfl
@[simp] theorem setHart_nextId (s : State) (h : Nat) (t : Hart) : (s.setHart h t).nextId = s.nextId := rfl
@[simp] theorem setHart_schedule (s : State) (h : Nat) (t : Hart) : (s.setHart h t).schedule = s.schedule := rfl
@[simp] theorem setHart_progress (s : State) (h : Nat) (t : Hart) : (s.setHart h t).progress = s.progress := rfl
@[simp] theorem setHart_byte (s : State) (h : Nat) (t : Hart) (a : Nat) : (s.setHart h t).byte a = s.byte a := rfl

/-- Everything but the table of harts is as before. -/
theorem setHart_rest (s : State) (h : Nat) (t : Hart) : s.setHart h t = { s with harts := (s.setHart h t).harts } := rfl

@[simp] theorem modNow_now (s : State) (f : Hart → Hart) : (s.modNow f).now = f s.now := by
  simp [State.modNow, State.now]
@[simp] theorem setHart_now (s : State) (t : Hart) : (s.setHart s.cur t).now = t := by simp [State.now]
@[simp] theorem modNow_cur (s : State) (f : Hart → Hart) : (s.modNow f).cur = s.cur := rfl
@[simp] theorem modNow_mem (s : State) (f : Hart → Hart) : (s.modNow f).mem = s.mem := rfl
@[simp] theorem modNow_run (s : State) (f : Hart → Hart) : (s.modNow f).run = s.run := rfl
@[simp] theorem modNow_hub (s : State) (f : Hart → Hart) : (s.modNow f).hub = s.hub := rfl
@[simp] theorem modNow_pkg (s : State) (f : Hart → Hart) : (s.modNow f).pkg = s.pkg := rfl
@[simp] theorem modNow_cores (s : State) (f : Hart → Hart) : (s.modNow f).cores = s.cores := rfl
@[simp] theorem modNow_cycles (s : State) (f : Hart → Hart) : (s.modNow f).cycles = s.cycles := rfl
@[simp] theorem modNow_tick (s : State) (f : Hart → Hart) : (s.modNow f).tick = s.tick := rfl
@[simp] theorem modNow_nextId (s : State) (f : Hart → Hart) : (s.modNow f).nextId = s.nextId := rfl
@[simp] theorem modNow_outbox (s : State) (f : Hart → Hart) : (s.modNow f).outbox = s.outbox := rfl
@[simp] theorem modNow_byte (s : State) (f : Hart → Hart) (a : Nat) : (s.modNow f).byte a = s.byte a := rfl
@[simp] theorem hart_modNow (s : State) (f : Hart → Hart) (h : Nat) :
    (s.modNow f).hart h = if s.cur = h then f s.now else s.hart h := by simp [State.modNow]
@[simp] theorem hart_modHart (s : State) (h j : Nat) (f : Hart → Hart) :
    (s.modHart h f).hart j = if h = j then f (s.hart h) else s.hart j := by simp [State.modHart]

/-! ### Updates of one part of the state -/

@[simp] theorem modMem_cycles (s : State) (f : MemSys → MemSys) : (s.modMem f).cycles = s.cycles := rfl
@[simp] theorem modMem_harts (s : State) (f : MemSys → MemSys) : (s.modMem f).harts = s.harts := rfl
@[simp] theorem modMem_cores (s : State) (f : MemSys → MemSys) : (s.modMem f).cores = s.cores := rfl
@[simp] theorem modMem_mem (s : State) (f : MemSys → MemSys) : (s.modMem f).mem = f s.mem := rfl
@[simp] theorem modMem_run (s : State) (f : MemSys → MemSys) : (s.modMem f).run = s.run := rfl
@[simp] theorem modMem_hub (s : State) (f : MemSys → MemSys) : (s.modMem f).hub = s.hub := rfl
@[simp] theorem modMem_pkg (s : State) (f : MemSys → MemSys) : (s.modMem f).pkg = s.pkg := rfl
@[simp] theorem modMem_tick (s : State) (f : MemSys → MemSys) : (s.modMem f).tick = s.tick := rfl
@[simp] theorem modMem_cur (s : State) (f : MemSys → MemSys) : (s.modMem f).cur = s.cur := rfl
@[simp] theorem modMem_outbox (s : State) (f : MemSys → MemSys) : (s.modMem f).outbox = s.outbox := rfl
@[simp] theorem modMem_nextId (s : State) (f : MemSys → MemSys) : (s.modMem f).nextId = s.nextId := rfl
@[simp] theorem modMem_waiting (s : State) (f : MemSys → MemSys) : (s.modMem f).waiting = s.waiting := rfl
@[simp] theorem modMem_hart (s : State) (f : MemSys → MemSys) (h : Nat) : (s.modMem f).hart h = s.hart h := rfl
@[simp] theorem modRun_cycles (s : State) (f : LaunchSys → LaunchSys) : (s.modRun f).cycles = s.cycles := rfl
@[simp] theorem modRun_harts (s : State) (f : LaunchSys → LaunchSys) : (s.modRun f).harts = s.harts := rfl
@[simp] theorem modRun_cores (s : State) (f : LaunchSys → LaunchSys) : (s.modRun f).cores = s.cores := rfl
@[simp] theorem modRun_mem (s : State) (f : LaunchSys → LaunchSys) : (s.modRun f).mem = s.mem := rfl
@[simp] theorem modRun_run (s : State) (f : LaunchSys → LaunchSys) : (s.modRun f).run = f s.run := rfl
@[simp] theorem modRun_hub (s : State) (f : LaunchSys → LaunchSys) : (s.modRun f).hub = s.hub := rfl
@[simp] theorem modRun_pkg (s : State) (f : LaunchSys → LaunchSys) : (s.modRun f).pkg = s.pkg := rfl
@[simp] theorem modRun_tick (s : State) (f : LaunchSys → LaunchSys) : (s.modRun f).tick = s.tick := rfl
@[simp] theorem modRun_cur (s : State) (f : LaunchSys → LaunchSys) : (s.modRun f).cur = s.cur := rfl
@[simp] theorem modRun_outbox (s : State) (f : LaunchSys → LaunchSys) : (s.modRun f).outbox = s.outbox := rfl
@[simp] theorem modRun_nextId (s : State) (f : LaunchSys → LaunchSys) : (s.modRun f).nextId = s.nextId := rfl
@[simp] theorem modRun_waiting (s : State) (f : LaunchSys → LaunchSys) : (s.modRun f).waiting = s.waiting := rfl
@[simp] theorem modRun_hart (s : State) (f : LaunchSys → LaunchSys) (h : Nat) : (s.modRun f).hart h = s.hart h := rfl
@[simp] theorem modHub_cycles (s : State) (f : HubSys → HubSys) : (s.modHub f).cycles = s.cycles := rfl
@[simp] theorem modHub_harts (s : State) (f : HubSys → HubSys) : (s.modHub f).harts = s.harts := rfl
@[simp] theorem modHub_cores (s : State) (f : HubSys → HubSys) : (s.modHub f).cores = s.cores := rfl
@[simp] theorem modHub_mem (s : State) (f : HubSys → HubSys) : (s.modHub f).mem = s.mem := rfl
@[simp] theorem modHub_run (s : State) (f : HubSys → HubSys) : (s.modHub f).run = s.run := rfl
@[simp] theorem modHub_hub (s : State) (f : HubSys → HubSys) : (s.modHub f).hub = f s.hub := rfl
@[simp] theorem modHub_pkg (s : State) (f : HubSys → HubSys) : (s.modHub f).pkg = s.pkg := rfl
@[simp] theorem modHub_tick (s : State) (f : HubSys → HubSys) : (s.modHub f).tick = s.tick := rfl
@[simp] theorem modHub_cur (s : State) (f : HubSys → HubSys) : (s.modHub f).cur = s.cur := rfl
@[simp] theorem modHub_outbox (s : State) (f : HubSys → HubSys) : (s.modHub f).outbox = s.outbox := rfl
@[simp] theorem modHub_nextId (s : State) (f : HubSys → HubSys) : (s.modHub f).nextId = s.nextId := rfl
@[simp] theorem modHub_waiting (s : State) (f : HubSys → HubSys) : (s.modHub f).waiting = s.waiting := rfl
@[simp] theorem modHub_hart (s : State) (f : HubSys → HubSys) (h : Nat) : (s.modHub f).hart h = s.hart h := rfl
@[simp] theorem modPkg_cycles (s : State) (f : PkgSys → PkgSys) : (s.modPkg f).cycles = s.cycles := rfl
@[simp] theorem modPkg_harts (s : State) (f : PkgSys → PkgSys) : (s.modPkg f).harts = s.harts := rfl
@[simp] theorem modPkg_cores (s : State) (f : PkgSys → PkgSys) : (s.modPkg f).cores = s.cores := rfl
@[simp] theorem modPkg_mem (s : State) (f : PkgSys → PkgSys) : (s.modPkg f).mem = s.mem := rfl
@[simp] theorem modPkg_run (s : State) (f : PkgSys → PkgSys) : (s.modPkg f).run = s.run := rfl
@[simp] theorem modPkg_hub (s : State) (f : PkgSys → PkgSys) : (s.modPkg f).hub = s.hub := rfl
@[simp] theorem modPkg_pkg (s : State) (f : PkgSys → PkgSys) : (s.modPkg f).pkg = f s.pkg := rfl
@[simp] theorem modPkg_tick (s : State) (f : PkgSys → PkgSys) : (s.modPkg f).tick = s.tick := rfl
@[simp] theorem modPkg_cur (s : State) (f : PkgSys → PkgSys) : (s.modPkg f).cur = s.cur := rfl
@[simp] theorem modPkg_outbox (s : State) (f : PkgSys → PkgSys) : (s.modPkg f).outbox = s.outbox := rfl
@[simp] theorem modPkg_nextId (s : State) (f : PkgSys → PkgSys) : (s.modPkg f).nextId = s.nextId := rfl
@[simp] theorem modPkg_waiting (s : State) (f : PkgSys → PkgSys) : (s.modPkg f).waiting = s.waiting := rfl
@[simp] theorem modPkg_hart (s : State) (f : PkgSys → PkgSys) (h : Nat) : (s.modPkg f).hart h = s.hart h := rfl
@[simp] theorem send_cycles (s : State) (m : Msg) : (s.send m).cycles = s.cycles := rfl
@[simp] theorem send_harts (s : State) (m : Msg) : (s.send m).harts = s.harts := rfl
@[simp] theorem send_cores (s : State) (m : Msg) : (s.send m).cores = s.cores := rfl
@[simp] theorem send_mem (s : State) (m : Msg) : (s.send m).mem = s.mem := rfl
@[simp] theorem send_run (s : State) (m : Msg) : (s.send m).run = s.run := rfl
@[simp] theorem send_hub (s : State) (m : Msg) : (s.send m).hub = s.hub := rfl
@[simp] theorem send_pkg (s : State) (m : Msg) : (s.send m).pkg = s.pkg := rfl
@[simp] theorem send_tick (s : State) (m : Msg) : (s.send m).tick = s.tick := rfl
@[simp] theorem send_cur (s : State) (m : Msg) : (s.send m).cur = s.cur := rfl
@[simp] theorem send_outbox (s : State) (m : Msg) : (s.send m).outbox = s.outbox ++ [m] := rfl
@[simp] theorem send_nextId (s : State) (m : Msg) : (s.send m).nextId = s.nextId := rfl
@[simp] theorem send_waiting (s : State) (m : Msg) : (s.send m).waiting = s.waiting := rfl
@[simp] theorem send_hart (s : State) (m : Msg) (h : Nat) : (s.send m).hart h = s.hart h := rfl
@[simp] theorem setHart_waiting (s : State) (h : Nat) (t : Hart) : (s.setHart h t).waiting = s.waiting := rfl
@[simp] theorem modNow_waiting (s : State) (f : Hart → Hart) : (s.modNow f).waiting = s.waiting := rfl

/-! ### Registers of a hart -/

/-- s0 reads 0 and is FULL, whatever was written (R63). -/
@[simp] theorem getS_zero (t : Hart) : t.getS 0 = SReg.zero := by simp [Hart.getS]
@[simp] theorem putS_zero (t : Hart) (v : SReg) : t.putS 0 v = t := by simp [Hart.putS]

/-- A scalar register read after a write. -/
@[simp] theorem getS_putS (t : Hart) (r q : Nat) (v : SReg) :
    (t.putS r v).getS q = if r = q ∧ q ≠ 0 then v else t.getS q := by
  unfold Hart.putS Hart.getS
  by_cases hr : r = 0
  · subst hr; by_cases hq : q = 0 <;> simp [hq]; grind
  · by_cases hq : q = 0
    · simp [hq]
    · simp [hr, hq]

@[simp] theorem getV_putS (t : Hart) (r q l : Nat) (v : SReg) : (t.putS r v).getV q l = t.getV q l := by
  by_cases h : r = 0 <;> simp [Hart.putS, Hart.getV, h]
@[simp] theorem getK_putS (t : Hart) (r q : Nat) (v : SReg) : (t.putS r v).getK q = t.getK q := by
  by_cases h : r = 0 <;> simp [Hart.putS, Hart.getK, Hart.W, h]

/-- A lane read after a write. -/
@[simp] theorem getV_putV (t : Hart) (r l q j : Nat) (v : VLane) :
    (t.putV r l v).getV q j = if r = q ∧ l = j then v else t.getV q j := by
  unfold Hart.putV Hart.getV
  by_cases hr : r = q
  · subst hr; simp
  · simp [hr]

@[simp] theorem getS_putV (t : Hart) (r l q : Nat) (v : VLane) : (t.putV r l v).getS q = t.getS q := rfl
@[simp] theorem getK_putV (t : Hart) (r l q : Nat) (v : VLane) : (t.putV r l v).getK q = t.getK q := rfl

/-- k0 reads all ones and is FULL, whatever was written (R63). -/
theorem getK_zero (t : Hart) : t.getK 0 = ⟨false, allLanes t.W⟩ := by simp [Hart.getK]

/-- A predicate register read after a write. -/
@[simp] theorem getK_putK (t : Hart) (r q : Nat) (v : KReg) :
    (t.putK r v).getK q = if r = q ∧ q ≠ 0 then v else t.getK q := by
  unfold Hart.putK Hart.getK Hart.W
  by_cases hr : r = 0
  · subst hr; by_cases hq : q = 0 <;> simp [hq]; grind
  · by_cases hq : q = 0
    · simp [hq, hr]
    · simp [hr, hq]

@[simp] theorem getS_putK (t : Hart) (r q : Nat) (v : KReg) : (t.putK r v).getS q = t.getS q := by
  by_cases h : r = 0 <;> simp [Hart.putK, Hart.getS, h]
@[simp] theorem getV_putK (t : Hart) (r q l : Nat) (v : KReg) : (t.putK r v).getV q l = t.getV q l := by
  by_cases h : r = 0 <;> simp [Hart.putK, Hart.getV, h]

@[simp] theorem getS_setS (t : Hart) (r q : Nat) (v : Word) :
    (t.setS r v).getS q = if r = q ∧ q ≠ 0 then ⟨.full, v⟩ else t.getS q := getS_putS t r q _
@[simp] theorem getV_setS (t : Hart) (r q l : Nat) (v : Word) : (t.setS r v).getV q l = t.getV q l := getV_putS t r q l _
@[simp] theorem getK_setS (t : Hart) (r q : Nat) (v : Word) : (t.setS r v).getK q = t.getK q := getK_putS t r q _
@[simp] theorem getK_setK (t : Hart) (r q : Nat) (m : Mask) :
    (t.setK r m).getK q = if r = q ∧ q ≠ 0 then ⟨false, m &&& allLanes t.W⟩ else t.getK q := getK_putK t r q _
@[simp] theorem getS_setK (t : Hart) (r q : Nat) (m : Mask) : (t.setK r m).getS q = t.getS q := getS_putK t r q _
@[simp] theorem getV_setK (t : Hart) (r q l : Nat) (m : Mask) : (t.setK r m).getV q l = t.getV q l := getV_putK t r q l _

@[simp] theorem getS_advance (t : Hart) (q : Nat) : t.advance.getS q = t.getS q := rfl
@[simp] theorem getV_advance (t : Hart) (q l : Nat) : t.advance.getV q l = t.getV q l := rfl
@[simp] theorem getK_advance (t : Hart) (q : Nat) : t.advance.getK q = t.getK q := rfl
@[simp] theorem advance_pc (t : Hart) : t.advance.pc = t.pc + 12 := rfl
@[simp] theorem advance_W (t : Hart) : t.advance.W = t.W := rfl
@[simp] theorem getS_raiseFlags (t : Hart) (f : Flags) (q : Nat) : (t.raiseFlags f).getS q = t.getS q := rfl
@[simp] theorem getV_raiseFlags (t : Hart) (f : Flags) (q l : Nat) : (t.raiseFlags f).getV q l = t.getV q l := rfl
@[simp] theorem getK_raiseFlags (t : Hart) (f : Flags) (q : Nat) : (t.raiseFlags f).getK q = t.getK q := rfl
@[simp] theorem raiseFlags_pc (t : Hart) (f : Flags) : (t.raiseFlags f).pc = t.pc := rfl
@[simp] theorem raiseFlags_fflags (t : Hart) (f : Flags) : (t.raiseFlags f).fflags = t.fflags ||| f := rfl

/-! ### Registers that no update of the general registers touches -/

theorem onlyRegisters_rfl (u : Hart) : Safety.onlyRegisters u u := rfl

theorem onlyRegisters_putS {u u' : Hart} (r : Nat) (v : SReg) (h : Safety.onlyRegisters u u') :
    Safety.onlyRegisters u (u'.putS r v) := by
  unfold Safety.onlyRegisters Hart.putS at *; split
  · exact h
  · rw [h]

theorem onlyRegisters_putV {u u' : Hart} (r l : Nat) (v : VLane) (h : Safety.onlyRegisters u u') :
    Safety.onlyRegisters u (u'.putV r l v) := by
  unfold Safety.onlyRegisters Hart.putV at *; rw [h]

theorem onlyRegisters_putK {u u' : Hart} (r : Nat) (v : KReg) (h : Safety.onlyRegisters u u') :
    Safety.onlyRegisters u (u'.putK r v) := by
  unfold Safety.onlyRegisters Hart.putK at *; split
  · exact h
  · rw [h]

theorem onlyRegisters_advance {u u' : Hart} (h : Safety.onlyRegisters u u') : Safety.onlyRegisters u u'.advance := by
  unfold Safety.onlyRegisters Hart.advance at *; rw [h]

theorem onlyRegisters_raiseFlags {u u' : Hart} (f : Flags) (h : Safety.onlyRegisters u u') :
    Safety.onlyRegisters u (u'.raiseFlags f) := by
  unfold Safety.onlyRegisters Hart.raiseFlags at *; rw [h]

theorem onlyRegisters_wrLane {u u' : Hart} (ty : Ty) (r l : Nat) (y : Word) (h : Safety.onlyRegisters u u') :
    Safety.onlyRegisters u (u'.wrLane ty r l y) := by
  unfold Hart.wrLane; dsimp only; split
  · exact onlyRegisters_putV _ _ _ (onlyRegisters_putV _ _ _ h)
  · exact onlyRegisters_putV _ _ _ h

theorem onlyRegisters_foldl {α : Type} {u u' : Hart} (f : Hart → α → Hart) (l : List α)
    (hf : ∀ w a, Safety.onlyRegisters u w → Safety.onlyRegisters u (f w a)) (h : Safety.onlyRegisters u u') :
    Safety.onlyRegisters u (l.foldl f u') := by
  induction l generalizing u' with
  | nil => exact h
  | cons a r ih => exact ih (hf u' a h)

/-- A state whose running hart is rewritten differs in nothing else. -/
theorem onlyRunning_setHart (s : State) (t : Hart) : Safety.onlyRunning s (s.setHart s.cur t) :=
  ⟨rfl, fun h hh => by simp [Ne.symm hh]⟩

end Sys2Proof.Laws
end

