-- ==== Sys2Proof/Laws/Issue.lean ====
section
/-! SUPPORT. What the checks at issue answer when an instruction is ready, and what writing a result changes. -/
namespace Sys2Proof.Laws

open Machine

theorem maskOf_nil : maskOf [] = 0 := rfl

/-- No lane of an operand is in a state that every register of it is out of. -/
theorem lanesIn_zero {t : Hart} {u : Use} {rel : Mask} {p q : RegSt → Bool} (h : Safety.regsIn q t u rel = true)
    (hpq : ∀ r, q r = true → p r = false) : lanesIn t u rel p = 0 := by
  unfold Safety.regsIn at h
  unfold lanesIn
  split
  · rename_i r e m hop
    simp only [hop, List.all_eq_true] at h
    rw [if_neg]
    simp only [List.any_eq_true, not_exists, not_and, Bool.not_eq_true]
    exact fun i hi => hpq _ (h i hi)
  · rename_i r e m hop
    simp only [hop, List.all_eq_true] at h
    rw [List.filter_eq_nil_iff.2]
    · rfl
    · intro l hl
      simp only [List.any_eq_true, not_exists, not_and, Bool.not_eq_true]
      exact fun i hi => hpq _ (h l hl i hi)
  · rename_i r e hop
    simp only [hop] at h
    rw [if_neg]
    simp [hpq _ h]
  · rfl

theorem not_empty_of_notEmpty (r : RegSt) (h : Safety.notEmpty r = true) : r.isEmpty = false := by
  cases r <;> simp_all [Safety.notEmpty, RegSt.isEmpty]

theorem not_poison (r : RegSt) (h : (r != .poison) = true) : (r == .poison) = false := by
  cases r <;> simp_all

theorem allotCheck_none {s : State} {us : List Use} (h : ∀ u ∈ us, allotted s.now (s.kernelOf s.cur) u = true) :
    allotCheck s us = none := by
  induction us with
  | nil => rfl
  | cons u r ih =>
    simp only [allotCheck, h u (by simp), if_true]
    exact ih (fun v hv => h v (by simp [hv]))

theorem emptyCheck_none {s : State} {o : Op} {x : Args} {us : List Use}
    (h : ∀ u ∈ us, Safety.sourceReady s o x u = true) : emptyCheck s o x us = none := by
  induction us with
  | nil => rfl
  | cons u r ih =>
    have hu := h u (by simp)
    simp only [emptyCheck]
    rw [if_neg]
    · exact ih (fun v hv => h v (by simp [hv]))
    · simp only [Safety.sourceReady, Bool.or_eq_true, Bool.and_eq_true, Bool.not_eq_true'] at hu
      simp only [Bool.and_eq_true, Bool.not_eq_true', not_and, bne_iff_ne, ne_eq, Decidable.not_not]
      intro h1
      rcases hu with hu | ⟨hu | hu, _⟩
      · simp [hu] at h1
      · simp [hu] at h1
      · exact lanesIn_zero hu not_empty_of_notEmpty

theorem poisonCheck_none {s : State} {o : Op} {x : Args} {us : List Use}
    (h : ∀ u ∈ us, Safety.sourceReady s o x u = true) : poisonCheck s o x us = none := by
  induction us with
  | nil => rfl
  | cons u r ih =>
    have hu := h u (by simp)
    simp only [poisonCheck]
    rw [if_neg]
    · exact ih (fun v hv => h v (by simp [hv]))
    · simp only [Safety.sourceReady, Bool.or_eq_true, Bool.and_eq_true, Bool.not_eq_true'] at hu
      rcases hu with hu | ⟨_, hu | hu⟩
      · simp [hu]
      · simp [hu]
      · have := lanesIn_zero (p := (· == .poison)) hu not_poison
        simp [this]

theorem destCheck_none {s : State} {o : Op} {x : Args} {us : List Use}
    (h : ∀ u ∈ us, Safety.destReady s o x u = true) : destCheck s o x us = none := by
  induction us with
  | nil => rfl
  | cons u r ih =>
    have hu := h u (by simp)
    simp only [destCheck]
    rw [if_neg]
    · exact ih (fun v hv => h v (by simp [hv]))
    · simp only [Safety.destReady, Bool.or_eq_true, Bool.not_eq_true'] at hu
      rcases hu with hu | hu
      · simp [hu]
      · have := lanesIn_zero hu not_empty_of_notEmpty
        simp [this]

/-- The checks at issue find nothing when an instruction is ready. -/
theorem precheck_of_ready {o : Op} {x : Args} {s : State} (h : Safety.ready o x s = true) : precheck o x s = .go := by
  simp only [Safety.ready, Bool.and_eq_true, decide_eq_true_eq, beq_iff_eq, List.all_eq_true, Bool.not_eq_true'] at h
  obtain ⟨⟨⟨⟨⟨⟨⟨⟨h1, h2⟩, h3⟩, h4⟩, h5⟩, h6⟩, h7⟩, h8⟩, h9⟩ := h
  have ha := allotCheck_none (s := s) (us := (usesOf o x).map (Use.named o x)) (fun u hu => by
    obtain ⟨v, hv, rfl⟩ := List.mem_map.1 hu
    exact (h8 v hv).1.1)
  have he := emptyCheck_none (us := usesOf o x) (fun u hu => (h8 u hu).1.2)
  have hp := poisonCheck_none (us := usesOf o x) (fun u hu => (h8 u hu).1.2)
  have hd := destCheck_none (us := usesOf o x) (fun u hu => (h8 u hu).2)
  unfold precheck
  dsimp only
  rw [if_neg (by omega), h2]
  dsimp only
  rw [if_neg (by revert h3; cases isHostThread s.cur <;> cases hostBarred o x <;> simp), if_neg (by omega), h5]
  dsimp only
  rw [if_neg (by
    intro hc
    simp only [Bool.and_eq_true, bne_iff_ne, ne_eq] at hc
    simp only [hc.1.2, Bool.not_true, Bool.or_false, beq_iff_eq] at h6
    exact hc.1.1 h6), h7, if_neg (by simp), ha, he, hp, hd]
  simp [h9]

/-- A ready instruction has its own effect, on the state in which the running hart no longer waits. -/
theorem issue_of_ready {o : Op} {x : Args} {s : State} (f : State → Out) (h : Safety.ready o x s = true) :
    issue o x s f = f s.unwait := by
  unfold issue; rw [precheck_of_ready h]

/-! ### The end of a wait -/

@[simp] theorem unwait_cur (s : State) : s.unwait.cur = s.cur := rfl
@[simp] theorem unwait_mem (s : State) : s.unwait.mem = s.mem := rfl
@[simp] theorem unwait_run (s : State) : s.unwait.run = s.run := rfl
@[simp] theorem unwait_hub (s : State) : s.unwait.hub = s.hub := rfl
@[simp] theorem unwait_pkg (s : State) : s.unwait.pkg = s.pkg := rfl
@[simp] theorem unwait_cores (s : State) : s.unwait.cores = s.cores := rfl
@[simp] theorem unwait_cycles (s : State) : s.unwait.cycles = s.cycles := rfl
@[simp] theorem unwait_tick (s : State) : s.unwait.tick = s.tick := rfl
@[simp] theorem unwait_nextId (s : State) : s.unwait.nextId = s.nextId := rfl
@[simp] theorem unwait_outbox (s : State) : s.unwait.outbox = s.outbox := rfl
@[simp] theorem unwait_byte (s : State) (a : Nat) : s.unwait.byte a = s.byte a := rfl

/-- Of the running hart only the issue state differs. -/
theorem unwait_now (s : State) : s.unwait.now = { s.now with sched := s.unwait.now.sched } := by
  simp [State.unwait]

theorem unwait_hart (s : State) (h : Nat) (hh : h ≠ s.cur) : s.unwait.hart h = s.hart h := by
  simp [State.unwait, Ne.symm hh]

@[simp] theorem unwait_pc (s : State) : s.unwait.now.pc = s.now.pc := by rw [unwait_now]
@[simp] theorem unwait_getS (s : State) (r : Nat) : s.unwait.now.getS r = s.now.getS r := by rw [unwait_now]; rfl
@[simp] theorem unwait_getV (s : State) (r l : Nat) : s.unwait.now.getV r l = s.now.getV r l := by rw [unwait_now]; rfl
@[simp] theorem unwait_getK (s : State) (r : Nat) : s.unwait.now.getK r = s.now.getK r := by rw [unwait_now]; rfl
@[simp] theorem unwait_W (s : State) : s.unwait.now.W = s.now.W := by rw [unwait_now]; rfl
@[simp] theorem unwait_exec (s : State) : s.unwait.now.exec = s.now.exec := by rw [unwait_now]
@[simp] theorem unwait_live (s : State) : s.unwait.now.live = s.now.live := by rw [unwait_now]
@[simp] theorem unwait_fpm (s : State) : s.unwait.now.fpm = s.now.fpm := by rw [unwait_now]
@[simp] theorem unwait_fflags (s : State) : s.unwait.now.fflags = s.now.fflags := by rw [unwait_now]
@[simp] theorem unwait_mode (s : State) : s.unwait.now.mode = s.now.mode := by rw [unwait_now]
@[simp] theorem unwait_guest (s : State) : s.unwait.now.guest = s.now.guest := by rw [unwait_now]
@[simp] theorem unwait_stack (s : State) : s.unwait.now.stack = s.now.stack := by rw [unwait_now]
@[simp] theorem unwait_spilled (s : State) : s.unwait.now.spilled = s.now.spilled := by rw [unwait_now]
@[simp] theorem unwait_place (s : State) : s.unwait.now.place = s.now.place := by rw [unwait_now]
@[simp] theorem unwait_trap (s : State) : s.unwait.now.trap = s.now.trap := by rw [unwait_now]
@[simp] theorem unwait_sup (s : State) : s.unwait.now.sup = s.now.sup := by rw [unwait_now]
@[simp] theorem unwait_sb (s : State) : s.unwait.now.sb = s.now.sb := by rw [unwait_now]
@[simp] theorem unwait_guard (s : State) (x : Args) : s.unwait.now.guardLanes x = s.now.guardLanes x := by
  simp only [Hart.guardLanes, unwait_W, unwait_getK]
@[simp] theorem unwait_members (s : State) (x : Args) : s.unwait.now.members x = s.now.members x := by
  simp only [Hart.members, unwait_exec, unwait_guard]
@[simp] theorem unwait_readMask (s : State) (o : Operand) : s.unwait.now.readMask o = s.now.readMask o := by
  cases o <;> simp only [Hart.readMask, unwait_getK, unwait_exec, unwait_live, unwait_trap]
@[simp] theorem unwait_depth (s : State) : s.unwait.now.depth = s.now.depth := by simp [Hart.depth]

theorem unwait_crewOf (s : State) (h : Nat) : s.unwait.crewOf h = s.crewOf h := by
  unfold State.crewOf State.crewed State.crew?
  by_cases hh : h = s.cur
  · subst hh
    have := congrArg Hart.place (unwait_now s)
    simp only [State.now, unwait_cur] at this
    simp only [unwait_run]; rw [this]; rfl
  · rw [unwait_hart s h hh]; rfl

/-- No special register changes when a wait ends. -/
@[simp] theorem unwait_readSr (s : State) (n : Nat) : s.unwait.readSr s.cur n = s.readSr s.cur n := by
  have h : s.unwait.hart s.cur = { s.hart s.cur with sched := s.unwait.now.sched } := unwait_now s
  unfold State.readSr State.amaxOf State.core
  simp only [unwait_crewOf, h, unwait_pkg, unwait_cycles, unwait_cores, unwait_hub]
  rfl

/-- No operand changes when a wait ends. -/
@[simp] theorem unwait_src (s : State) (t : Ty) (o : Operand) (l : Nat) : s.unwait.src t o l = s.src t o l := by
  cases o <;> simp [State.src]

@[simp] theorem unwait_srcA (s : State) (x : Args) (l : Nat) : s.unwait.srcA x l = s.srcA x l := by simp [State.srcA]
@[simp] theorem unwait_srcB (s : State) (x : Args) (l : Nat) : s.unwait.srcB x l = s.srcB x l := by simp [State.srcB]
@[simp] theorem unwait_srcD (s : State) (x : Args) (l : Nat) : s.unwait.srcD x l = s.srcD x l := by simp [State.srcD]
@[simp] theorem unwait_pairOf (s : State) (o : Op) (x : Args) (l : Nat) : s.unwait.pairOf o x l = s.pairOf o x l := by
  simp [State.pairOf]

/-- Only the running hart differs once its wait ends and it is rewritten. -/
theorem onlyRunning_unwait (s : State) (t : Hart) : Safety.onlyRunning s (s.unwait.setHart s.unwait.cur t) := by
  refine ⟨rfl, fun h hh => ?_⟩
  have : ¬ s.cur = h := fun e => hh e.symm
  simp [this, unwait_hart s h hh]

theorem onlyRegisters_unwait (s : State) : Safety.onlyRegisters s.now s.unwait.now := by
  unfold Safety.onlyRegisters; rw [unwait_now]

/-! ### Results -/

theorem getS_wrLane (t : Hart) (ty : Ty) (r l q : Nat) (y : Word) : (t.wrLane ty r l y).getS q = t.getS q := by
  unfold Hart.wrLane; dsimp only; split <;> simp
theorem getK_wrLane (t : Hart) (ty : Ty) (r l q : Nat) (y : Word) : (t.wrLane ty r l y).getK q = t.getK q := by
  unfold Hart.wrLane; dsimp only; split <;> simp

/-- A lane read after a result was written to a lane. -/
theorem getV_wrLane (t : Hart) (ty : Ty) (r l q j : Nat) (y : Word) :
    (t.wrLane ty r l y).getV q j =
      if q = r ∧ j = l then ⟨.full, y.truncate 32⟩
      else if tyBits ty = 64 ∧ q = r + 1 ∧ j = l then ⟨.full, (y >>> 32).truncate 32⟩
      else t.getV q j := by
  unfold Hart.wrLane
  by_cases h : tyBits ty = 64
  · simp only [h, beq_self_eq_true, if_true, true_and]
    rw [getV_putV, getV_putV]
    by_cases h1 : q = r ∧ j = l
    · obtain ⟨rfl, rfl⟩ := h1; simp
    · by_cases h2 : q = r + 1 ∧ j = l
      · obtain ⟨rfl, rfl⟩ := h2; simp
      · rw [if_neg h1, if_neg h2, if_neg (by omega), if_neg (by omega)]
  · simp only [h, beq_iff_eq, if_false, false_and]
    rw [getV_putV]
    by_cases h1 : q = r ∧ j = l
    · obtain ⟨rfl, rfl⟩ := h1; simp
    · rw [if_neg h1, if_neg (by omega)]

/-- A lane read after a result was written to a list of lanes. -/
theorem getV_foldl_wrLane (t : Hart) (ty : Ty) (r : Nat) (ls : List Nat) (y : Nat → Word) (q j : Nat) :
    (ls.foldl (fun u l => u.wrLane ty r l (y l)) t).getV q j =
      if q = r ∧ j ∈ ls then ⟨.full, (y j).truncate 32⟩
      else if tyBits ty = 64 ∧ q = r + 1 ∧ j ∈ ls then ⟨.full, (y j >>> 32).truncate 32⟩
      else t.getV q j := by
  induction ls generalizing t with
  | nil => simp
  | cons a l ih =>
    rw [List.foldl_cons, ih, getV_wrLane]
    simp only [List.mem_cons]
    grind

theorem getS_foldl_wrLane (t : Hart) (ty : Ty) (r : Nat) (ls : List Nat) (y : Nat → Word) (q : Nat) :
    (ls.foldl (fun u l => u.wrLane ty r l (y l)) t).getS q = t.getS q := by
  induction ls generalizing t with
  | nil => rfl
  | cons a l ih => rw [List.foldl_cons, ih, getS_wrLane]

theorem getK_foldl_wrLane (t : Hart) (ty : Ty) (r : Nat) (ls : List Nat) (y : Nat → Word) (q : Nat) :
    (ls.foldl (fun u l => u.wrLane ty r l (y l)) t).getK q = t.getK q := by
  induction ls generalizing t with
  | nil => rfl
  | cons a l ih => rw [List.foldl_cons, ih, getK_wrLane]

/-- What writing a result changes: D, and nothing else. -/
theorem resultIn_wr (t : Hart) (ty : Ty) (d : Operand) (ls : List Nat) (f : Nat → Int) :
    Safety.resultIn ty d ls (fun l => extended ty (f l)) t (t.wr ty d ls f) := by
  cases d <;> simp only [Hart.wr] <;>
    first
      | exact ⟨fun _ => rfl, fun _ _ => rfl, fun _ => rfl⟩
      | exact ⟨fun r => by simp only [getS_setS]; grind, fun r l => by simp, fun r => by simp⟩
      | exact ⟨fun r => getS_foldl_wrLane .., fun r l => getV_foldl_wrLane .., fun r => getK_foldl_wrLane ..⟩

theorem onlyRegisters_wr {u t : Hart} (ty : Ty) (d : Operand) (ls : List Nat) (f : Nat → Int)
    (h : Safety.onlyRegisters u t) : Safety.onlyRegisters u (t.wr ty d ls f) := by
  cases d <;> simp only [Hart.wr] <;>
    first
      | exact h
      | exact onlyRegisters_putS _ _ h
      | exact onlyRegisters_foldl _ _ (fun _ _ hw => onlyRegisters_wrLane _ _ _ _ hw) h

/-- The same result seen from the state before the wait ended. -/
theorem resultIn_unwait {s : State} {ty : Ty} {d : Operand} {ls : List Nat} {y : Nat → Word} {u' : Hart}
    (h : Safety.resultIn ty d ls y s.unwait.now u') : Safety.resultIn ty d ls y s.now u' := by
  obtain ⟨h1, h2, h3⟩ := h
  refine ⟨fun r => ?_, fun r l => ?_, fun r => ?_⟩
  · rw [h1]; cases d <;> simp
  · rw [h2]; cases d <;> simp
  · rw [h3]; simp

/-! ### Updates of the general registers alone -/

/-- Only scalar, vector and predicate registers differ. -/
def generalOnly (u u' : Hart) : Prop := u' = { u with s := u'.s, v := u'.v, k := u'.k }

theorem generalOnly_rfl (u : Hart) : generalOnly u u := rfl

theorem generalOnly_putS {u u' : Hart} (r : Nat) (v : SReg) (h : generalOnly u u') : generalOnly u (u'.putS r v) := by
  unfold generalOnly Hart.putS at *; split
  · exact h
  · rw [h]

theorem generalOnly_putV {u u' : Hart} (r l : Nat) (v : VLane) (h : generalOnly u u') : generalOnly u (u'.putV r l v) := by
  unfold generalOnly Hart.putV at *; rw [h]

theorem generalOnly_putK {u u' : Hart} (r : Nat) (v : KReg) (h : generalOnly u u') : generalOnly u (u'.putK r v) := by
  unfold generalOnly Hart.putK at *; split
  · exact h
  · rw [h]

theorem generalOnly_setS {u u' : Hart} (r : Nat) (v : Word) (h : generalOnly u u') : generalOnly u (u'.setS r v) :=
  generalOnly_putS r _ h

theorem generalOnly_setK {u u' : Hart} (r : Nat) (m : Mask) (h : generalOnly u u') : generalOnly u (u'.setK r m) :=
  generalOnly_putK r _ h

theorem generalOnly_wrLane {u u' : Hart} (ty : Ty) (r l : Nat) (y : Word) (h : generalOnly u u') :
    generalOnly u (u'.wrLane ty r l y) := by
  unfold Hart.wrLane; dsimp only; split
  · exact generalOnly_putV _ _ _ (generalOnly_putV _ _ _ h)
  · exact generalOnly_putV _ _ _ h

theorem generalOnly_foldl {α : Type} {u u' : Hart} (f : Hart → α → Hart) (l : List α)
    (hf : ∀ w a, generalOnly u w → generalOnly u (f w a)) (h : generalOnly u u') : generalOnly u (l.foldl f u') := by
  induction l generalizing u' with
  | nil => exact h
  | cons a r ih => exact ih (hf u' a h)

theorem generalOnly_wr {u t : Hart} (ty : Ty) (d : Operand) (ls : List Nat) (f : Nat → Int)
    (h : generalOnly u t) : generalOnly u (t.wr ty d ls f) := by
  cases d <;> simp only [Hart.wr] <;>
    first
      | exact h
      | exact generalOnly_setS _ _ h
      | exact generalOnly_foldl _ _ (fun _ _ hw => generalOnly_wrLane _ _ _ _ hw) h

theorem generalOnly_wrAll {u t : Hart} (ty : Ty) (d : Operand) (rs : List (Nat × Res)) (h : generalOnly u t) :
    generalOnly u (t.wrAll ty d rs) := by
  cases d <;> simp only [Hart.wrAll] <;>
    first
      | exact h
      | (split; exact h; exact generalOnly_setS _ _ h)
      | exact generalOnly_foldl _ _ (fun _ _ hw => generalOnly_wrLane _ _ _ _ hw) h

theorem generalOnly_pc {u u' : Hart} (h : generalOnly u u') : u'.pc = u.pc := by rw [h]
theorem generalOnly_fflags {u u' : Hart} (h : generalOnly u u') : u'.fflags = u.fflags := by rw [h]
theorem generalOnly_W {u u' : Hart} (h : generalOnly u u') : u'.W = u.W := by rw [h]; rfl

/-- A hart whose general registers changed after its wait ended, its pc moved on and its flags set. -/
theorem onlyRegisters_of_general {s : State} {u' : Hart} (h : generalOnly s.unwait.now u') :
    Safety.onlyRegisters s.now u' := by
  unfold Safety.onlyRegisters; rw [h, unwait_now]

end Sys2Proof.Laws
end

