-- ==== Sys2Proof/Laws/Forms.lean ====
section
/-! SUPPORT. What the shared shapes of register forms answer when they are ready. -/
namespace Sys2Proof.Laws

open Machine Safety

/-- A form whose effect rewrites general registers, sets flags and moves the pc on. -/
theorem registerStep_of {i : Instr} {s : State} {u : Hart} (f : Flags)
    (hi : exec i s = .next (s.unwait.setHart s.cur (u.raiseFlags f).advance)) (hg : generalOnly s.unwait.now u) :
    registerStep i s (s.unwait.setHart s.cur (u.raiseFlags f).advance) := by
  refine ⟨hi, onlyRunning_unwait s _, fun a => rfl, ?_, ?_⟩
  · have := onlyRegisters_advance (onlyRegisters_raiseFlags f (onlyRegisters_of_general hg))
    simpa [State.now] using this
  · have := generalOnly_pc hg
    simp only [unwait_pc] at this
    simp [State.now, this]

theorem raiseFlags_zero (t : Hart) : t.raiseFlags 0 = t := by simp [Hart.raiseFlags]

/-- The same without flags. -/
theorem registerStep_plain {i : Instr} {s : State} {u : Hart}
    (hi : exec i s = .next (s.unwait.setHart s.cur u.advance)) (hg : generalOnly s.unwait.now u) :
    registerStep i s (s.unwait.setHart s.cur u.advance) := by
  have := registerStep_of (u := u) 0 (by rw [raiseFlags_zero]; exact hi) hg
  rwa [raiseFlags_zero] at this

theorem now_unwait_setHart (s : State) (u : Hart) : (s.unwait.setHart s.cur u).now = u := by simp [State.now]

/-- A form that writes D and sets no flag. -/
theorem completes_general {i : Instr} {x : Args} {s : State} {ls : List Nat} {y : Nat → Word} {u : Hart}
    (hi : exec i s = .next (s.unwait.setHart s.cur u.advance)) (hg : generalOnly s.unwait.now u)
    (hr : resultIn x.ty x.d ls y s.unwait.now u) : completesWith i x s ls y := by
  refine ⟨_, registerStep_plain hi hg, ?_, ?_⟩
  · have := generalOnly_fflags hg
    simp only [unwait_fflags] at this
    rw [now_unwait_setHart]; exact this
  · rw [now_unwait_setHart]; exact resultIn_unwait hr

/-- A ready form of the shared shape of classes 0 and 1 completes. -/
theorem lanewise_completes {i : Instr} {o : Op} {x : Args} {f : State → Nat → Int} {s : State} {y : Nat → Word}
    (h : ready o x s = true) (hi : exec i s = lanewise o x f s) (ho : o ≠ .sel)
    (hy : y = fun l => extended x.ty (f s.unwait l)) : completesWith i x s (memberLanes s x) y := by
  subst hy
  apply completes_general (u := s.unwait.now.wr x.ty x.d (memberLanes s x) (f s.unwait)) _
    (generalOnly_wr _ _ _ _ (generalOnly_rfl _))
  · exact resultIn_wr ..
  · rw [hi, lanewise, issue_of_ready _ h]
    simp [ho, memberLanes]

/-- A ready SEL completes on the lanes of %exec. -/
theorem sel_completes {i : Instr} {x : Args} {f : State → Nat → Int} {s : State} {y : Nat → Word}
    (h : ready .sel x s = true) (hi : exec i s = lanewise .sel x f s)
    (hy : y = fun l => extended x.ty (f s.unwait l)) : completesWith i x s (lanesOf s.now.W s.now.exec) y := by
  subst hy
  apply completes_general (u := s.unwait.now.wr x.ty x.d (lanesOf s.now.W s.now.exec) (f s.unwait)) _
    (generalOnly_wr _ _ _ _ (generalOnly_rfl _))
  · exact resultIn_wr ..
  · rw [hi, lanewise, issue_of_ready _ h]
    simp

/-! ### Facts of a ready instruction -/

theorem ready_checkArgs {o : Op} {x : Args} {s : State} (h : ready o x s = true) : checkArgs o x = none := by
  simp only [Safety.ready, Bool.and_eq_true, beq_iff_eq] at h
  exact h.1.1.1.1.1.1.1.2

theorem checkKinds_of_ready {o : Op} {x : Args} {s : State} (h : ready o x s = true) : checkKinds o x = true := by
  have := ready_checkArgs h
  unfold checkArgs at this
  split_ifs at this
  simp_all

/-- Its operand kinds are accepted. -/
theorem kindRule_of_ready {o : Op} {x : Args} {s : State} (h : ready o x s = true) : kindRule o x = true := by
  have hk := checkKinds_of_ready h
  simp only [checkKinds, Bool.and_eq_true] at hk
  exact hk.2

/-- D is of an accepted kind. -/
theorem kindFits_d_of_ready {o : Op} {x : Args} {s : State} (h : ready o x s = true) : kindFits o.row.d x.d = true := by
  have hk := checkKinds_of_ready h
  simp only [checkKinds, Bool.and_eq_true] at hk
  exact hk.1.1.1.1

/-! ### Forms that set flags -/

theorem flagsOf_eq (ls : List Nat) (f : Nat → Res) : orFlags (ls.map (fun l => (l, f l))) = flagsOf ls f := by
  unfold orFlags flagsOf
  rw [List.foldl_map]

/-- What `wrAll` writes. -/
theorem resultIn_wrAll (t : Hart) (ty : Ty) (d : Operand) (ls : List Nat) (f : Nat → Res)
    (hs : kindOf d = .s → ls = [0]) :
    resultIn ty d ls (fun l => extended ty (interp ty (f l).1)) t (t.wrAll ty d (ls.map (fun l => (l, f l)))) := by
  cases d with
  | s r e m =>
    rw [hs rfl]
    exact resultIn_wr t ty (.s r e m) [0] (fun l => interp ty (f l).1)
  | v r e m =>
    have := resultIn_wr t ty (.v r e m) ls (fun l => interp ty (f l).1)
    simp only [Hart.wr] at this
    simp only [Hart.wrAll, List.foldl_map]
    exact this
  | _ => exact ⟨fun _ => rfl, fun _ _ => rfl, fun _ => rfl⟩

/-- A form that writes D and sets flags. -/
theorem completes_flags {i : Instr} {ty : Ty} {d : Operand} {s : State} {ls : List Nat} {f : Nat → Res} {fl : Flags}
    (hi : exec i s = .next (s.unwait.setHart s.cur
      ((s.unwait.now.wrAll ty d (ls.map (fun l => (l, f l)))).raiseFlags fl).advance))
    (hf : fl = flagsOf ls f) (hs : kindOf d = .s → ls = [0]) : completesFlags i ty d s ls f := by
  have hg := generalOnly_wrAll ty d (ls.map (fun l => (l, f l))) (generalOnly_rfl s.unwait.now)
  refine ⟨_, registerStep_of fl hi hg, ?_, ?_⟩
  · have := generalOnly_fflags hg
    simp only [unwait_fflags] at this
    rw [now_unwait_setHart, ← this, hf]; rfl
  · rw [now_unwait_setHart]
    exact resultIn_unwait (resultIn_wrAll s.unwait.now ty d ls f hs)

theorem unwait_fpSrc (s : State) (t : Ty) (o : Operand) (l : Nat) : s.unwait.fpSrc t o l = s.fpSrc t o l := by
  cases o <;> simp only [State.fpSrc, unwait_src]

theorem unwait_formLanes (s : State) (x : Args) : formLanes s.unwait.now x = formLanes s.now x := by
  simp only [formLanes, unwait_W, unwait_members]

/-- An operand is no mask if its kind is S. -/
theorem not_mask_of_s {d : Operand} (h : kindOf d = .s) : isMaskOp d = false := by
  cases d <;> simp_all [kindOf, isMaskOp]

/-- A scalar form computes one value. -/
theorem formLanes_scalar (t : Hart) (x : Args) (hd : kindOf x.d = .s) (ha : kindOf x.a ≠ .v) (hb : kindOf x.b ≠ .v) :
    formLanes t x = [0] := by
  simp [formLanes, perLane, hd, ha, hb, not_mask_of_s hd]

/-- A ready form of the shared shape of classes 2 and 3 completes. -/
theorem fpForm_completes {i : Instr} {o : Op} {x : Args} {f : State → Env → Nat → Res} {s : State} {y : Nat → Res}
    (h : ready o x s = true) (hi : exec i s = fpForm o x f s)
    (ho : kindRule o x = true → (kindOf x.d = .s → kindOf x.a ≠ .v ∧ kindOf x.b ≠ .v))
    (hy : y = fun l => f s.unwait (envOf s.now.fpm x.rm.toNat) l) :
    completesFlags i x.ty x.d s (formLanes s.now x) y := by
  subst hy
  refine completes_flags ?_ rfl ?_
  · rw [hi, fpForm, issue_of_ready _ h]
    simp only [unwait_formLanes, unwait_fpm, unwait_cur, flagsOf_eq]
  · intro hd
    obtain ⟨ha, hb⟩ := ho (kindRule_of_ready h) hd
    exact formLanes_scalar _ _ hd ha hb

end Sys2Proof.Laws
end

