-- ==== Sys2Proof/Laws/Masks.lean ====
section
/-! SUPPORT. Lanes of masks, and forms that write a mask. -/
namespace Sys2Proof.Laws

open Machine Safety

/-- A lane of the mask of a list of lanes. -/
theorem laneIn_maskOf (ls : List Nat) (l : Nat) (hl : l < 1024) : laneIn (maskOf ls) l = decide (l ∈ ls) := by
  have key : ∀ (m : Mask) (ls : List Nat), laneIn (ls.foldl (fun m l => m ||| BitVec.ofNat 1024 (2 ^ l)) m) l =
      (laneIn m l || decide (l ∈ ls)) := by
    intro m ls
    induction ls generalizing m with
    | nil => simp
    | cons a r ih =>
      rw [List.foldl_cons, ih]
      simp only [laneIn, BitVec.getLsbD_or, BitVec.getLsbD_ofNat, Nat.testBit_two_pow, List.mem_cons]
      by_cases h : l = a
      · subst h; simp [hl]
      · simp [h, Ne.symm h]
  have := key 0 ls
  simpa [maskOf, laneIn] using this

/-- A lane of the mask of all lanes. -/
theorem laneIn_allLanes (W l : Nat) (hw : W ≤ 1024) : laneIn (allLanes W) l = decide (l < W) := by
  have := Nat.testBit_two_pow_sub_one W l
  simp only [laneIn, allLanes, BitVec.getLsbD_ofNat, this]
  by_cases h : l < W
  · simp [h, Nat.lt_of_lt_of_le h hw]
  · simp [h]

theorem mem_lanesOf (W : Nat) (m : Mask) (l : Nat) : l ∈ lanesOf W m ↔ l < W ∧ laneIn m l = true := by
  simp [lanesOf]

/-- A form that writes a predicate register and sets flags. -/
theorem completesMask_setK {i : Instr} {s : State} {r : Nat} {fl : Flags} {m : Nat → Bool} (v : Mask)
    (hi : exec i s = .next (s.unwait.setHart s.cur ((s.unwait.now.setK r v).raiseFlags fl).advance))
    (hm : ∀ l, l < s.now.W → s.now.W ≤ 1024 → laneIn v l = m l) : completesMask i s r fl m := by
  have hg := generalOnly_setK r v (generalOnly_rfl s.unwait.now)
  refine ⟨_, v &&& allLanes s.now.W, registerStep_of fl hi hg, ?_, ?_, ?_, ?_, ?_⟩
  · rw [now_unwait_setHart]
    have := generalOnly_fflags hg
    simp only [unwait_fflags] at this
    rw [← this]; rfl
  · intro q; rw [now_unwait_setHart]; simp
  · intro q l; rw [now_unwait_setHart]; simp
  · intro l hl hw
    rw [← hm l hl hw]
    have := laneIn_allLanes s.now.W l hw
    simp only [laneIn, BitVec.getLsbD_and] at *
    simp [this, hl]
  · intro q; rw [now_unwait_setHart]
    simp only [getK_advance, getK_raiseFlags, getK_setK, unwait_W, unwait_getK]
    grind

/-- A form that writes a scalar register and sets flags. -/
theorem completesScalar_setS {i : Instr} {s : State} {d : Operand} {ty : Ty} {q : BitVec 8} {e : Bool} {m : BitVec 7}
    {fl : Flags} {y : Word} (hd : d = .s q e m)
    (hi : exec i s = .next (s.unwait.setHart s.cur ((s.unwait.now.setS q.toNat y).raiseFlags fl).advance)) :
    ∃ t, registerStep i s t ∧ t.now.fflags = s.now.fflags ||| fl ∧ resultIn ty d [0] (fun _ => y) s.now t.now := by
  subst hd
  have hg := generalOnly_setS q.toNat y (generalOnly_rfl s.unwait.now)
  refine ⟨_, registerStep_of fl hi hg, ?_, ?_⟩
  · rw [now_unwait_setHart]
    have := generalOnly_fflags hg
    simp only [unwait_fflags] at this
    rw [← this]; rfl
  · rw [now_unwait_setHart]
    apply resultIn_unwait
    refine ⟨fun r => ?_, fun r l => ?_, fun r => ?_⟩
    · simp only [getS_advance, getS_raiseFlags, getS_setS]; grind
    · simp
    · simp

end Sys2Proof.Laws
end

