-- ==== Sys2Proof/Laws/Memory.lean ====
section
/-! SUPPORT. What the shared operations of the memory system can do: writes at coherent points, merges, filtered stores, held LDP
requests and ownership words. -/
namespace Sys2Proof.Laws

open Machine

/-- A coherent write touches the memory system alone. -/
theorem cohPoke_harts (s : State) (h : Nat) (l : List (Nat × Byte)) (ps : List Nat) : (s.cohPoke h l ps).harts = s.harts := rfl

/-- Merging a partial touches no hart. -/
theorem mergePartial_harts (s : State) (p : Partial) : (s.mergePartial p).harts = s.harts := by
  simp only [State.mergePartial]
  split <;> rfl

/-- A fold of steps that touch no hart touches none. -/
theorem foldl_harts {α : Type} (f : State → α → State) (hf : ∀ s a, (f s a).harts = s.harts) (l : List α) (s : State) :
    (l.foldl f s).harts = s.harts := by
  induction l generalizing s with
  | nil => rfl
  | cons a r ih => rw [List.foldl_cons, ih, hf]

/-- Merging the partials of some lines touches no hart (R268). -/
theorem mergeLines_harts (s : State) (line n : Nat) : (s.mergeLines line n).harts = s.harts :=
  foldl_harts _ mergePartial_harts _ s

/-- Filtering a store changes what is written and not where (R6). -/
theorem guarded_addresses (s : State) (m : Mode) (l : List (Nat × Byte)) :
    (s.guarded m l).map Prod.fst = l.map Prod.fst := by
  simp only [State.guarded, List.map_map]
  refine List.map_congr_left fun p _ => ?_
  simp only [Function.comp]
  split <;> rfl

/-- Outside the structures that Ailith knows a store writes its bytes (R6). -/
theorem guarded_plain (s : State) (m : Mode) (l : List (Nat × Byte)) (h : ∀ p ∈ l, s.structAt p.1 = none) :
    s.guarded m l = l := by
  unfold State.guarded
  conv_rhs => rw [← List.map_id l]
  refine List.map_congr_left fun p hp => ?_
  rw [h p hp]; rfl

/-- Releasing held LDP requests adds none and takes none away (R254). -/
theorem releaseLdp_ids (by_ : Nat) (at_ : Req → Bool) (lines : List Nat) (rs : List Req) :
    (releaseLdp by_ at_ lines rs).map Req.id = rs.map Req.id := by
  simp only [releaseLdp, List.map_map]
  refine List.map_congr_left fun r _ => ?_
  simp only [Function.comp]
  split <;> rfl

/-- An access uses the local form of its address where no migration of its page has come to SHOOTDOWN (R232, R419). -/
theorem canonPa_still (s : State) (pa : Nat) (h : ∀ m, s.migOf (s.normPa pa) = some m → m.st ≠ .shootdown) :
    s.canonPa pa = s.normPa pa := by
  simp only [State.canonPa]
  split
  · next m hm => simp [h m hm]
  · rfl

/-- At the metadata package a change of an ownership word is made at once (R487). -/
theorem setOwn_local (s : State) (page w : Nat) (h : s.pkg.sys.metapkg = s.pkg.pkg) :
    s.setOwn page w = (true, s.homeWrite (s.pkg.sys.poolmeta + 8 * page) 8 w) := by
  simp [State.setOwn, h]

/-- A page that this package owns is reached without a change of ownership (R429). -/
theorem ownStep_owned (s : State) (page : Nat) (h : s.owns page = true) : s.ownStep page = (true, s) := by
  simp [State.ownStep, h]

end Sys2Proof.Laws
end

