-- ==== Sys2Proof/Laws/PerInstr.lean ====
section
/-! SUPPORT. Of every instruction: it has a word exactly when it is encodable, and its operation and fields give it back. -/
namespace Sys2Proof.Laws.Enc

/-- An instruction has a word exactly when it is an instruction row, and its operation and fields give it back (R27). -/
def Statement (i : Instr) : Prop :=
  ((encode i).isSome = true ↔ i.encodable = true) ∧
  (Machine.Instr.form? i).map (fun p => Machine.Instr.ofArgs p.1 p.2) = (Machine.Instr.form? i).map (fun _ => i)

theorem add (x : Args) : Statement (.add x) :=
  ⟨⟨fun _ => rfl, fun _ => rfl⟩, rfl⟩
theorem sub (x : Args) : Statement (.sub x) :=
  ⟨⟨fun _ => rfl, fun _ => rfl⟩, rfl⟩
theorem mul (x : Args) : Statement (.mul x) :=
  ⟨⟨fun _ => rfl, fun _ => rfl⟩, rfl⟩
theorem mulh (x : Args) : Statement (.mulh x) :=
  ⟨⟨fun _ => rfl, fun _ => rfl⟩, rfl⟩
theorem mad (x : Args) : Statement (.mad x) :=
  ⟨⟨fun _ => rfl, fun _ => rfl⟩, rfl⟩
theorem div (x : Args) : Statement (.div x) :=
  ⟨⟨fun _ => rfl, fun _ => rfl⟩, rfl⟩
theorem rem (x : Args) : Statement (.rem x) :=
  ⟨⟨fun _ => rfl, fun _ => rfl⟩, rfl⟩
theorem min (x : Args) : Statement (.min x) :=
  ⟨⟨fun _ => rfl, fun _ => rfl⟩, rfl⟩
theorem max (x : Args) : Statement (.max x) :=
  ⟨⟨fun _ => rfl, fun _ => rfl⟩, rfl⟩
theorem abs (x : Args) : Statement (.abs x) :=
  ⟨⟨fun _ => rfl, fun _ => rfl⟩, rfl⟩
theorem lea (x : Args) : Statement (.lea x) :=
  ⟨⟨fun _ => rfl, fun _ => rfl⟩, rfl⟩
theorem cmp (x : Args) : Statement (.cmp x) :=
  ⟨⟨fun _ => rfl, fun _ => rfl⟩, rfl⟩
theorem sel (x : Args) : Statement (.sel x) :=
  ⟨⟨fun _ => rfl, fun _ => rfl⟩, rfl⟩
theorem mov (x : Args) : Statement (.mov x) :=
  ⟨⟨fun _ => rfl, fun _ => rfl⟩, rfl⟩
theorem movw (x : Args) : Statement (.movw x) :=
  ⟨⟨fun _ => rfl, fun _ => rfl⟩, rfl⟩
theorem movh (x : Args) : Statement (.movh x) :=
  ⟨⟨fun _ => rfl, fun _ => rfl⟩, rfl⟩
theorem and (x : Args) : Statement (.and x) :=
  ⟨⟨fun _ => rfl, fun _ => rfl⟩, rfl⟩
theorem or (x : Args) : Statement (.or x) :=
  ⟨⟨fun _ => rfl, fun _ => rfl⟩, rfl⟩
theorem xor (x : Args) : Statement (.xor x) :=
  ⟨⟨fun _ => rfl, fun _ => rfl⟩, rfl⟩
theorem andn (x : Args) : Statement (.andn x) :=
  ⟨⟨fun _ => rfl, fun _ => rfl⟩, rfl⟩
theorem not (x : Args) : Statement (.not x) :=
  ⟨⟨fun _ => rfl, fun _ => rfl⟩, rfl⟩
theorem shl (x : Args) : Statement (.shl x) :=
  ⟨⟨fun _ => rfl, fun _ => rfl⟩, rfl⟩
theorem shr (x : Args) : Statement (.shr x) :=
  ⟨⟨fun _ => rfl, fun _ => rfl⟩, rfl⟩
theorem sra (x : Args) : Statement (.sra x) :=
  ⟨⟨fun _ => rfl, fun _ => rfl⟩, rfl⟩
theorem rol (x : Args) : Statement (.rol x) :=
  ⟨⟨fun _ => rfl, fun _ => rfl⟩, rfl⟩
theorem clz (x : Args) : Statement (.clz x) :=
  ⟨⟨fun _ => rfl, fun _ => rfl⟩, rfl⟩
theorem ctz (x : Args) : Statement (.ctz x) :=
  ⟨⟨fun _ => rfl, fun _ => rfl⟩, rfl⟩
theorem popc (x : Args) : Statement (.popc x) :=
  ⟨⟨fun _ => rfl, fun _ => rfl⟩, rfl⟩
theorem brev (x : Args) : Statement (.brev x) :=
  ⟨⟨fun _ => rfl, fun _ => rfl⟩, rfl⟩
theorem bfx (x : Args) : Statement (.bfx x) :=
  ⟨⟨fun _ => rfl, fun _ => rfl⟩, rfl⟩
theorem bfi (x : Args) : Statement (.bfi x) :=
  ⟨⟨fun _ => rfl, fun _ => rfl⟩, rfl⟩
theorem prmb (x : Args) : Statement (.prmb x) :=
  ⟨⟨fun _ => rfl, fun _ => rfl⟩, rfl⟩
theorem fadd (x : Args) : Statement (.fadd x) :=
  ⟨⟨fun _ => rfl, fun _ => rfl⟩, rfl⟩
theorem fsub (x : Args) : Statement (.fsub x) :=
  ⟨⟨fun _ => rfl, fun _ => rfl⟩, rfl⟩
theorem fmul (x : Args) : Statement (.fmul x) :=
  ⟨⟨fun _ => rfl, fun _ => rfl⟩, rfl⟩
theorem ffma (x : Args) : Statement (.ffma x) :=
  ⟨⟨fun _ => rfl, fun _ => rfl⟩, rfl⟩
theorem fmin (x : Args) : Statement (.fmin x) :=
  ⟨⟨fun _ => rfl, fun _ => rfl⟩, rfl⟩
theorem fmax (x : Args) : Statement (.fmax x) :=
  ⟨⟨fun _ => rfl, fun _ => rfl⟩, rfl⟩
theorem fabs (x : Args) : Statement (.fabs x) :=
  ⟨⟨fun _ => rfl, fun _ => rfl⟩, rfl⟩
theorem fneg (x : Args) : Statement (.fneg x) :=
  ⟨⟨fun _ => rfl, fun _ => rfl⟩, rfl⟩
theorem fcmp (x : Args) : Statement (.fcmp x) :=
  ⟨⟨fun _ => rfl, fun _ => rfl⟩, rfl⟩
theorem fclass (x : Args) : Statement (.fclass x) :=
  ⟨⟨fun _ => rfl, fun _ => rfl⟩, rfl⟩
theorem fdiv (x : Args) : Statement (.fdiv x) :=
  ⟨⟨fun _ => rfl, fun _ => rfl⟩, rfl⟩
theorem fsqrt (x : Args) : Statement (.fsqrt x) :=
  ⟨⟨fun _ => rfl, fun _ => rfl⟩, rfl⟩
theorem frnd (x : Args) : Statement (.frnd x) :=
  ⟨⟨fun _ => rfl, fun _ => rfl⟩, rfl⟩
theorem fscl (x : Args) : Statement (.fscl x) :=
  ⟨⟨fun _ => rfl, fun _ => rfl⟩, rfl⟩
theorem frcp (x : Args) : Statement (.frcp x) :=
  ⟨⟨fun _ => rfl, fun _ => rfl⟩, rfl⟩
theorem frsq (x : Args) : Statement (.frsq x) :=
  ⟨⟨fun _ => rfl, fun _ => rfl⟩, rfl⟩
theorem fexp2 (x : Args) : Statement (.fexp2 x) :=
  ⟨⟨fun _ => rfl, fun _ => rfl⟩, rfl⟩
theorem flog2 (x : Args) : Statement (.flog2 x) :=
  ⟨⟨fun _ => rfl, fun _ => rfl⟩, rfl⟩
theorem fsin (x : Args) : Statement (.fsin x) :=
  ⟨⟨fun _ => rfl, fun _ => rfl⟩, rfl⟩
theorem fcos (x : Args) : Statement (.fcos x) :=
  ⟨⟨fun _ => rfl, fun _ => rfl⟩, rfl⟩
theorem ftanh (x : Args) : Statement (.ftanh x) :=
  ⟨⟨fun _ => rfl, fun _ => rfl⟩, rfl⟩
theorem cvt (x : Args) : Statement (.cvt x) :=
  ⟨⟨fun _ => rfl, fun _ => rfl⟩, rfl⟩
theorem cvtp (x : Args) : Statement (.cvtp x) :=
  ⟨⟨fun _ => rfl, fun _ => rfl⟩, rfl⟩
theorem cvtbp (x : Args) : Statement (.cvtbp x) :=
  ⟨⟨fun _ => rfl, fun _ => rfl⟩, rfl⟩
theorem cvfbp (x : Args) : Statement (.cvfbp x) :=
  ⟨⟨fun _ => rfl, fun _ => rfl⟩, rfl⟩
theorem amax (x : Args) : Statement (.amax x) :=
  ⟨⟨fun _ => rfl, fun _ => rfl⟩, rfl⟩
theorem qscl (x : Args) : Statement (.qscl x) :=
  ⟨⟨fun _ => rfl, fun _ => rfl⟩, rfl⟩
theorem shfl (x : Args) : Statement (.shfl x) :=
  ⟨⟨fun _ => rfl, fun _ => rfl⟩, rfl⟩
theorem vote (x : Args) : Statement (.vote x) :=
  ⟨⟨fun _ => rfl, fun _ => rfl⟩, rfl⟩
theorem lred (x : Args) : Statement (.lred x) :=
  ⟨⟨fun _ => rfl, fun _ => rfl⟩, rfl⟩
theorem scan (x : Args) : Statement (.scan x) :=
  ⟨⟨fun _ => rfl, fun _ => rfl⟩, rfl⟩
theorem vtos (x : Args) : Statement (.vtos x) :=
  ⟨⟨fun _ => rfl, fun _ => rfl⟩, rfl⟩
theorem gtrn (x : Args) : Statement (.gtrn x) :=
  ⟨⟨fun _ => rfl, fun _ => rfl⟩, rfl⟩
theorem topk (x : Args) : Statement (.topk x) :=
  ⟨⟨fun _ => rfl, fun _ => rfl⟩, rfl⟩
theorem kand (x : Args) : Statement (.kand x) :=
  ⟨⟨fun _ => rfl, fun _ => rfl⟩, rfl⟩
theorem kor (x : Args) : Statement (.kor x) :=
  ⟨⟨fun _ => rfl, fun _ => rfl⟩, rfl⟩
theorem kxor (x : Args) : Statement (.kxor x) :=
  ⟨⟨fun _ => rfl, fun _ => rfl⟩, rfl⟩
theorem knot (x : Args) : Statement (.knot x) :=
  ⟨⟨fun _ => rfl, fun _ => rfl⟩, rfl⟩
theorem kmov (x : Args) : Statement (.kmov x) :=
  ⟨⟨fun _ => rfl, fun _ => rfl⟩, rfl⟩
theorem kpop (x : Args) : Statement (.kpop x) :=
  ⟨⟨fun _ => rfl, fun _ => rfl⟩, rfl⟩
theorem kffs (x : Args) : Statement (.kffs x) :=
  ⟨⟨fun _ => rfl, fun _ => rfl⟩, rfl⟩
theorem exec (x : Args) : Statement (.exec x) :=
  ⟨⟨fun _ => rfl, fun _ => rfl⟩, rfl⟩
theorem execr (x : Args) : Statement (.execr x) :=
  ⟨⟨fun _ => rfl, fun _ => rfl⟩, rfl⟩
theorem br (x : Args) : Statement (.br x) :=
  ⟨⟨fun _ => rfl, fun _ => rfl⟩, rfl⟩
theorem brc (x : Args) : Statement (.brc x) :=
  ⟨⟨fun _ => rfl, fun _ => rfl⟩, rfl⟩
theorem brz (x : Args) : Statement (.brz x) :=
  ⟨⟨fun _ => rfl, fun _ => rfl⟩, rfl⟩
theorem brd (x : Args) : Statement (.brd x) :=
  ⟨⟨fun _ => rfl, fun _ => rfl⟩, rfl⟩
theorem mbr (x : MbrArgs) : Statement (.mbr x) :=
  ⟨⟨fun _ => rfl, fun _ => rfl⟩, rfl⟩
theorem join (x : Args) : Statement (.join x) :=
  ⟨⟨fun _ => rfl, fun _ => rfl⟩, rfl⟩
theorem call (x : Args) : Statement (.call x) :=
  ⟨⟨fun _ => rfl, fun _ => rfl⟩, rfl⟩
theorem ret (x : Args) : Statement (.ret x) :=
  ⟨⟨fun _ => rfl, fun _ => rfl⟩, rfl⟩
theorem jmpi (x : Args) : Statement (.jmpi x) :=
  ⟨⟨fun _ => rfl, fun _ => rfl⟩, rfl⟩
theorem loop (x : Args) : Statement (.loop x) :=
  ⟨⟨fun _ => rfl, fun _ => rfl⟩, rfl⟩
theorem yield (x : Args) : Statement (.yield x) :=
  ⟨⟨fun _ => rfl, fun _ => rfl⟩, rfl⟩
theorem exit (x : Args) : Statement (.exit x) :=
  ⟨⟨fun _ => rfl, fun _ => rfl⟩, rfl⟩
theorem nop (x : Args) : Statement (.nop x) :=
  ⟨⟨fun _ => rfl, fun _ => rfl⟩, rfl⟩
theorem brk (x : Args) : Statement (.brk x) :=
  ⟨⟨fun _ => rfl, fun _ => rfl⟩, rfl⟩
theorem ld (x : Args) : Statement (.ld x) :=
  ⟨⟨fun _ => rfl, fun _ => rfl⟩, rfl⟩
theorem st (x : Args) : Statement (.st x) :=
  ⟨⟨fun _ => rfl, fun _ => rfl⟩, rfl⟩
theorem lds (x : Args) : Statement (.lds x) :=
  ⟨⟨fun _ => rfl, fun _ => rfl⟩, rfl⟩
theorem sts (x : Args) : Statement (.sts x) :=
  ⟨⟨fun _ => rfl, fun _ => rfl⟩, rfl⟩
theorem pref (x : Args) : Statement (.pref x) :=
  ⟨⟨fun _ => rfl, fun _ => rfl⟩, rfl⟩
theorem cctl (x : Args) : Statement (.cctl x) :=
  ⟨⟨fun _ => rfl, fun _ => rfl⟩, rfl⟩
theorem fence (x : Args) : Statement (.fence x) :=
  ⟨⟨fun _ => rfl, fun _ => rfl⟩, rfl⟩
theorem ldp (x : Args) : Statement (.ldp x) :=
  ⟨⟨fun _ => rfl, fun _ => rfl⟩, rfl⟩
theorem ldacc (x : Args) : Statement (.ldacc x) :=
  ⟨⟨fun _ => rfl, fun _ => rfl⟩, rfl⟩
theorem stacc (x : Args) : Statement (.stacc x) :=
  ⟨⟨fun _ => rfl, fun _ => rfl⟩, rfl⟩
theorem amo (x : Args) : Statement (.amo x) :=
  ⟨⟨fun _ => rfl, fun _ => rfl⟩, rfl⟩
theorem cas (x : Args) : Statement (.cas x) :=
  ⟨⟨fun _ => rfl, fun _ => rfl⟩, rfl⟩
theorem redu (x : Args) : Statement (.redu x) :=
  ⟨⟨fun _ => rfl, fun _ => rfl⟩, rfl⟩
theorem kld (x : Args) : Statement (.kld x) :=
  ⟨⟨fun _ => rfl, fun _ => rfl⟩, rfl⟩
theorem kst (x : Args) : Statement (.kst x) :=
  ⟨⟨fun _ => rfl, fun _ => rfl⟩, rfl⟩
theorem ksib (x : Args) : Statement (.ksib x) :=
  ⟨⟨fun _ => rfl, fun _ => rfl⟩, rfl⟩
theorem krec (x : Args) : Statement (.krec x) :=
  ⟨⟨fun _ => rfl, fun _ => rfl⟩, rfl⟩
theorem chld (x : Args) : Statement (.chld x) :=
  ⟨⟨fun _ => rfl, fun _ => rfl⟩, rfl⟩
theorem chinv (x : Args) : Statement (.chinv x) :=
  ⟨⟨fun _ => rfl, fun _ => rfl⟩, rfl⟩
theorem mcb (x : Args) : Statement (.mcb x) :=
  ⟨⟨fun _ => rfl, fun _ => rfl⟩, rfl⟩
theorem mma (x : Args) : Statement (.mma x) :=
  ⟨⟨fun _ => rfl, fun _ => rfl⟩, rfl⟩
theorem mce (x : Args) : Statement (.mce x) :=
  ⟨⟨fun _ => rfl, fun _ => rfl⟩, rfl⟩
theorem mdrn (x : Args) : Statement (.mdrn x) :=
  ⟨⟨fun _ => rfl, fun _ => rfl⟩, rfl⟩
theorem mclr (x : Args) : Statement (.mclr x) :=
  ⟨⟨fun _ => rfl, fun _ => rfl⟩, rfl⟩
theorem morf (x : Args) : Statement (.morf x) :=
  ⟨⟨fun _ => rfl, fun _ => rfl⟩, rfl⟩
theorem msmx (x : Args) : Statement (.msmx x) :=
  ⟨⟨fun _ => rfl, fun _ => rfl⟩, rfl⟩
theorem mscl (x : Args) : Statement (.mscl x) :=
  ⟨⟨fun _ => rfl, fun _ => rfl⟩, rfl⟩
theorem cpy (x : Args) : Statement (.cpy x) :=
  ⟨⟨fun _ => rfl, fun _ => rfl⟩, rfl⟩
theorem cpyg (x : Args) : Statement (.cpyg x) :=
  ⟨⟨fun _ => rfl, fun _ => rfl⟩, rfl⟩
theorem cpys (x : Args) : Statement (.cpys x) :=
  ⟨⟨fun _ => rfl, fun _ => rfl⟩, rfl⟩
theorem await (x : Args) : Statement (.await x) :=
  ⟨⟨fun _ => rfl, fun _ => rfl⟩, rfl⟩
theorem ftest (x : Args) : Statement (.ftest x) :=
  ⟨⟨fun _ => rfl, fun _ => rfl⟩, rfl⟩
theorem fcan (x : Args) : Statement (.fcan x) :=
  ⟨⟨fun _ => rfl, fun _ => rfl⟩, rfl⟩
theorem fhnd (x : Args) : Statement (.fhnd x) :=
  ⟨⟨fun _ => rfl, fun _ => rfl⟩, rfl⟩
theorem wany (x : Args) : Statement (.wany x) :=
  ⟨⟨fun _ => rfl, fun _ => rfl⟩, rfl⟩
theorem wall (x : Args) : Statement (.wall x) :=
  ⟨⟨fun _ => rfl, fun _ => rfl⟩, rfl⟩
theorem wffr (x : Args) : Statement (.wffr x) :=
  ⟨⟨fun _ => rfl, fun _ => rfl⟩, rfl⟩
theorem binit (x : Args) : Statement (.binit x) :=
  ⟨⟨fun _ => rfl, fun _ => rfl⟩, rfl⟩
theorem barv (x : Args) : Statement (.barv x) :=
  ⟨⟨fun _ => rfl, fun _ => rfl⟩, rfl⟩
theorem bwait (x : Args) : Statement (.bwait x) :=
  ⟨⟨fun _ => rfl, fun _ => rfl⟩, rfl⟩
theorem barw (x : Args) : Statement (.barw x) :=
  ⟨⟨fun _ => rfl, fun _ => rfl⟩, rfl⟩
theorem bqry (x : Args) : Statement (.bqry x) :=
  ⟨⟨fun _ => rfl, fun _ => rfl⟩, rfl⟩
theorem lnch (x : Args) : Statement (.lnch x) :=
  ⟨⟨fun _ => rfl, fun _ => rfl⟩, rfl⟩
theorem acq (x : Args) : Statement (.acq x) :=
  ⟨⟨fun _ => rfl, fun _ => rfl⟩, rfl⟩
theorem park (x : Args) : Statement (.park x) :=
  ⟨⟨fun _ => rfl, fun _ => rfl⟩, rfl⟩
theorem wake (x : Args) : Statement (.wake x) :=
  ⟨⟨fun _ => rfl, fun _ => rfl⟩, rfl⟩
theorem kvx (x : Args) : Statement (.kvx x) :=
  ⟨⟨fun _ => rfl, fun _ => rfl⟩, rfl⟩
theorem kvw (x : Args) : Statement (.kvw x) :=
  ⟨⟨fun _ => rfl, fun _ => rfl⟩, rfl⟩
theorem kvr (x : Args) : Statement (.kvr x) :=
  ⟨⟨fun _ => rfl, fun _ => rfl⟩, rfl⟩
theorem pin (x : Args) : Statement (.pin x) :=
  ⟨⟨fun _ => rfl, fun _ => rfl⟩, rfl⟩
theorem unpin (x : Args) : Statement (.unpin x) :=
  ⟨⟨fun _ => rfl, fun _ => rfl⟩, rfl⟩
theorem hint (x : Args) : Statement (.hint x) :=
  ⟨⟨fun _ => rfl, fun _ => rfl⟩, rfl⟩
theorem migr (x : Args) : Statement (.migr x) :=
  ⟨⟨fun _ => rfl, fun _ => rfl⟩, rfl⟩
theorem tlbi (x : Args) : Statement (.tlbi x) :=
  ⟨⟨fun _ => rfl, fun _ => rfl⟩, rfl⟩
theorem ownrRequest (x : Args) : Statement (.ownrRequest x) :=
  ⟨⟨fun _ => rfl, fun _ => rfl⟩, rfl⟩
theorem ownrRelease (x : Args) : Statement (.ownrRelease x) :=
  ⟨⟨fun _ => rfl, fun _ => rfl⟩, rfl⟩
theorem cntr (x : Args) : Statement (.cntr x) :=
  ⟨⟨fun _ => rfl, fun _ => rfl⟩, rfl⟩
theorem cntc (x : Args) : Statement (.cntc x) :=
  ⟨⟨fun _ => rfl, fun _ => rfl⟩, rfl⟩
theorem pgcnt (x : Args) : Statement (.pgcnt x) :=
  ⟨⟨fun _ => rfl, fun _ => rfl⟩, rfl⟩
theorem tstp (x : Args) : Statement (.tstp x) :=
  ⟨⟨fun _ => rfl, fun _ => rfl⟩, rfl⟩
theorem srr (x : Args) : Statement (.srr x) :=
  ⟨⟨fun _ => rfl, fun _ => rfl⟩, rfl⟩
theorem srw (x : Args) : Statement (.srw x) :=
  ⟨⟨fun _ => rfl, fun _ => rfl⟩, rfl⟩
theorem trap (x : Args) : Statement (.trap x) :=
  ⟨⟨fun _ => rfl, fun _ => rfl⟩, rfl⟩
theorem tret (x : Args) : Statement (.tret x) :=
  ⟨⟨fun _ => rfl, fun _ => rfl⟩, rfl⟩
theorem iflush (x : Args) : Statement (.iflush x) :=
  ⟨⟨fun _ => rfl, fun _ => rfl⟩, rfl⟩
theorem svsb (x : Args) : Statement (.svsb x) :=
  ⟨⟨fun _ => rfl, fun _ => rfl⟩, rfl⟩
theorem ldsb (x : Args) : Statement (.ldsb x) :=
  ⟨⟨fun _ => rfl, fun _ => rfl⟩, rfl⟩
theorem svss (x : Args) : Statement (.svss x) :=
  ⟨⟨fun _ => rfl, fun _ => rfl⟩, rfl⟩
theorem ldss (x : Args) : Statement (.ldss x) :=
  ⟨⟨fun _ => rfl, fun _ => rfl⟩, rfl⟩
theorem svacc (x : Args) : Statement (.svacc x) :=
  ⟨⟨fun _ => rfl, fun _ => rfl⟩, rfl⟩
theorem ldacr (x : Args) : Statement (.ldacr x) :=
  ⟨⟨fun _ => rfl, fun _ => rfl⟩, rfl⟩
theorem svchk (x : Args) : Statement (.svchk x) :=
  ⟨⟨fun _ => rfl, fun _ => rfl⟩, rfl⟩
theorem ldchk (x : Args) : Statement (.ldchk x) :=
  ⟨⟨fun _ => rfl, fun _ => rfl⟩, rfl⟩
theorem wfi (x : Args) : Statement (.wfi x) :=
  ⟨⟨fun _ => rfl, fun _ => rfl⟩, rfl⟩
theorem halt (x : Args) : Statement (.halt x) :=
  ⟨⟨fun _ => rfl, fun _ => rfl⟩, rfl⟩
theorem sectorReturn (load sector : Nat) : Statement (.sectorReturn load sector) :=
  ⟨Iff.rfl, rfl⟩
theorem registerReply (reply : Nat) : Statement (.registerReply reply) :=
  ⟨Iff.rfl, rfl⟩
theorem splitStackRefill (hart : Nat) : Statement (.splitStackRefill hart) :=
  ⟨Iff.rfl, rfl⟩
theorem storeBufferDeparture (hart : Nat) : Statement (.storeBufferDeparture hart) :=
  ⟨Iff.rfl, rfl⟩
theorem storeAcknowledgement (ack : Nat) : Statement (.storeAcknowledgement ack) :=
  ⟨Iff.rfl, rfl⟩
theorem ldpHoldRelease (req : Nat) : Statement (.ldpHoldRelease req) :=
  ⟨Iff.rfl, rfl⟩
theorem ldpHoldTimeout (req : Nat) : Statement (.ldpHoldTimeout req) :=
  ⟨Iff.rfl, rfl⟩
theorem scopedCacheEviction (cluster : Bool) (cache line : Nat) : Statement (.scopedCacheEviction cluster cache line) :=
  ⟨Iff.rfl, rfl⟩
theorem translationWalk (hart : Nat) (va : Word) (acc : AccessKind) : Statement (.translationWalk hart va acc) :=
  ⟨Iff.rfl, rfl⟩
theorem mappingNotice (pkg pa : Nat) : Statement (.mappingNotice pkg pa) :=
  ⟨Iff.rfl, rfl⟩
theorem preemptRequest (crew : Nat) (park : Bool) : Statement (.preemptRequest crew park) :=
  ⟨Iff.rfl, rfl⟩
theorem preemptDelivery (hart : Nat) : Statement (.preemptDelivery hart) :=
  ⟨Iff.rfl, rfl⟩
theorem preemptTimeout (crew : Nat) : Statement (.preemptTimeout crew) :=
  ⟨Iff.rfl, rfl⟩
theorem admissionWaitExpiry (launch : Nat) : Statement (.admissionWaitExpiry launch) :=
  ⟨Iff.rfl, rfl⟩
theorem migrationNotify (thread : Nat) : Statement (.migrationNotify thread) :=
  ⟨Iff.rfl, rfl⟩
theorem externalEvent (thread : Nat) : Statement (.externalEvent thread) :=
  ⟨Iff.rfl, rfl⟩
theorem crewExit (crew : Nat) : Statement (.crewExit crew) :=
  ⟨Iff.rfl, rfl⟩
theorem drainingSettled (crew : Nat) : Statement (.drainingSettled crew) :=
  ⟨Iff.rfl, rfl⟩
theorem launchRecordStart (queue : Nat) : Statement (.launchRecordStart queue) :=
  ⟨Iff.rfl, rfl⟩
theorem queueBinding (slot : Nat) : Statement (.queueBinding slot) :=
  ⟨Iff.rfl, rfl⟩
theorem crewPlacement (launch : Nat) : Statement (.crewPlacement launch) :=
  ⟨Iff.rfl, rfl⟩
theorem acqGrant (core : Nat) : Statement (.acqGrant core) :=
  ⟨Iff.rfl, rfl⟩
theorem wakeWordWrite (pa : Nat) (data : List Byte) : Statement (.wakeWordWrite pa data) :=
  ⟨Iff.rfl, rfl⟩
theorem rcbStateWrite (rcb : Nat) (value : BitVec 3) : Statement (.rcbStateWrite rcb value) :=
  ⟨Iff.rfl, rfl⟩
theorem rungExpiry (cont : Nat) : Statement (.rungExpiry cont) :=
  ⟨Iff.rfl, rfl⟩
theorem blockMoveDone (move : Nat) : Statement (.blockMoveDone move) :=
  ⟨Iff.rfl, rfl⟩
theorem blockSettle (move : Nat) : Statement (.blockSettle move) :=
  ⟨Iff.rfl, rfl⟩
theorem migrationCommandTake : Statement .migrationCommandTake :=
  ⟨Iff.rfl, rfl⟩
theorem migrationDoorbell (service : Nat) : Statement (.migrationDoorbell service) :=
  ⟨Iff.rfl, rfl⟩
theorem migrationStart (mig : Nat) : Statement (.migrationStart mig) :=
  ⟨Iff.rfl, rfl⟩
theorem migrationRatePeriod (home : Home) : Statement (.migrationRatePeriod home) :=
  ⟨Iff.rfl, rfl⟩
theorem lineCopy (mig : Nat) : Statement (.lineCopy mig) :=
  ⟨Iff.rfl, rfl⟩
theorem shootdownComplete (mig : Nat) : Statement (.shootdownComplete mig) :=
  ⟨Iff.rfl, rfl⟩
theorem abortComplete (mig : Nat) : Statement (.abortComplete mig) :=
  ⟨Iff.rfl, rfl⟩
theorem sweepRebase (region : Nat) (others : List SweepShare) : Statement (.sweepRebase region others) :=
  ⟨Iff.rfl, rfl⟩
theorem updateSend (region dot member : Nat) : Statement (.updateSend region dot member) :=
  ⟨Iff.rfl, rfl⟩
theorem keepingUpdateApply (u : Update) : Statement (.keepingUpdateApply u) :=
  ⟨Iff.rfl, rfl⟩
theorem updateAck (region dot member : Nat) : Statement (.updateAck region dot member) :=
  ⟨Iff.rfl, rfl⟩
theorem holdQueueRetry (region : Nat) : Statement (.holdQueueRetry region) :=
  ⟨Iff.rfl, rfl⟩
theorem krecDeferred (req : Nat) : Statement (.krecDeferred req) :=
  ⟨Iff.rfl, rfl⟩
theorem rd (agent guest pa : Nat) : Statement (.rd agent guest pa) :=
  ⟨Iff.rfl, rfl⟩
theorem rdx (agent guest pa : Nat) : Statement (.rdx agent guest pa) :=
  ⟨Iff.rfl, rfl⟩
theorem homeAccess (req : Nat) : Statement (.homeAccess req) :=
  ⟨Iff.rfl, rfl⟩
theorem reduAtAgent (req : Nat) : Statement (.reduAtAgent req) :=
  ⟨Iff.rfl, rfl⟩
theorem unitMerge (home : Home) (base size : Nat) : Statement (.unitMerge home base size) :=
  ⟨Iff.rfl, rfl⟩
theorem writeBackArrival (agent guest pa : Nat) (data : List (Nat × Byte)) : Statement (.writeBackArrival agent guest pa data) :=
  ⟨Iff.rfl, rfl⟩
theorem peerRequest (pkg guest pa : Nat) (kind : PeerKind) : Statement (.peerRequest pkg guest pa kind) :=
  ⟨Iff.rfl, rfl⟩
theorem holderFailure (agent : Nat) (pkg : Nat) : Statement (.holderFailure agent pkg) :=
  ⟨Iff.rfl, rfl⟩
theorem homeLoss (die : Nat) : Statement (.homeLoss die) :=
  ⟨Iff.rfl, rfl⟩
theorem deviceLevelFault (part : Part) : Statement (.deviceLevelFault part) :=
  ⟨Iff.rfl, rfl⟩
theorem ownershipReq (page pkg : Nat) : Statement (.ownershipReq page pkg) :=
  ⟨Iff.rfl, rfl⟩
theorem delayedGrant (page : Nat) : Statement (.delayedGrant page) :=
  ⟨Iff.rfl, rfl⟩
theorem grant (page : Nat) (data : List (Nat × Byte)) : Statement (.grant page data) :=
  ⟨Iff.rfl, rfl⟩
theorem redirect (page pkg : Nat) : Statement (.redirect page pkg) :=
  ⟨Iff.rfl, rfl⟩
theorem ownershipTimeout (page : Nat) : Statement (.ownershipTimeout page) :=
  ⟨Iff.rfl, rfl⟩
theorem metadataUpdate (page pkg : Nat) (expected new : Word) : Statement (.metadataUpdate page pkg expected new) :=
  ⟨Iff.rfl, rfl⟩
theorem mmaCompletion (crew : Nat) : Statement (.mmaCompletion crew) :=
  ⟨Iff.rfl, rfl⟩
theorem chainCompletion (crew : Nat) : Statement (.chainCompletion crew) :=
  ⟨Iff.rfl, rfl⟩
theorem drainCompletion (crew op : Nat) : Statement (.drainCompletion crew op) :=
  ⟨Iff.rfl, rfl⟩
theorem chuckLoadCompletion (crew op : Nat) : Statement (.chuckLoadCompletion crew op) :=
  ⟨Iff.rfl, rfl⟩
theorem msmxCompletion (crew op : Nat) : Statement (.msmxCompletion crew op) :=
  ⟨Iff.rfl, rfl⟩
theorem msclCompletion (crew op : Nat) : Statement (.msclCompletion crew op) :=
  ⟨Iff.rfl, rfl⟩
theorem copyCommandStart (engine : Nat) : Statement (.copyCommandStart engine) :=
  ⟨Iff.rfl, rfl⟩
theorem futureCompletion (op : Nat) : Statement (.futureCompletion op) :=
  ⟨Iff.rfl, rfl⟩
theorem powerSample (milliwatts : Nat) : Statement (.powerSample milliwatts) :=
  ⟨Iff.rfl, rfl⟩
theorem coolantFault : Statement .coolantFault :=
  ⟨Iff.rfl, rfl⟩
theorem flitArrival (link guest : Nat) : Statement (.flitArrival link guest) :=
  ⟨Iff.rfl, rfl⟩
theorem calendarSlot (cal : Nat) : Statement (.calendarSlot cal) :=
  ⟨Iff.rfl, rfl⟩
theorem linkDown (port : Nat) : Statement (.linkDown port) :=
  ⟨Iff.rfl, rfl⟩
theorem packageUnreachable (pkg : Nat) : Statement (.packageUnreachable pkg) :=
  ⟨Iff.rfl, rfl⟩
theorem sequencerReappoint (clocks : List Word) : Statement (.sequencerReappoint clocks) :=
  ⟨Iff.rfl, rfl⟩
theorem refreshRateChange (layer : Nat) (milliCelsius : Int) : Statement (.refreshRateChange layer milliCelsius) :=
  ⟨Iff.rfl, rfl⟩
theorem onDieCheckFail (pa : Nat) : Statement (.onDieCheckFail pa) :=
  ⟨Iff.rfl, rfl⟩
theorem eventRaise (n : Nat) : Statement (.eventRaise n) :=
  ⟨Iff.rfl, rfl⟩
theorem eventDoorbell (width : Nat) (value : Word) : Statement (.eventDoorbell width value) :=
  ⟨Iff.rfl, rfl⟩
theorem eventConfigWrite (n : Nat) (mode : Mode) (value : Word) : Statement (.eventConfigWrite n mode value) :=
  ⟨Iff.rfl, rfl⟩
theorem ckpt (mode : Mode) (value : Word) : Statement (.ckpt mode value) :=
  ⟨Iff.rfl, rfl⟩
theorem checkpointWrite : Statement .checkpointWrite :=
  ⟨Iff.rfl, rfl⟩
theorem checkpointClose : Statement .checkpointClose :=
  ⟨Iff.rfl, rfl⟩
theorem coldReset (image : FwImage) : Statement (.coldReset image) :=
  ⟨Iff.rfl, rfl⟩
theorem attestationRequest (nonce : BitVec 256) : Statement (.attestationRequest nonce) :=
  ⟨Iff.rfl, rfl⟩
theorem systemBlockWrite (mode : Mode) (word : Nat) (value : Word) : Statement (.systemBlockWrite mode word value) :=
  ⟨Iff.rfl, rfl⟩
theorem execWrite (hart : Nat) (value : Mask) : Statement (.execWrite hart value) :=
  ⟨Iff.rfl, rfl⟩
theorem liveWrite (hart : Nat) (value : Mask) : Statement (.liveWrite hart value) :=
  ⟨Iff.rfl, rfl⟩
theorem fpmWrite (hart : Nat) (value : Word) : Statement (.fpmWrite hart value) :=
  ⟨Iff.rfl, rfl⟩
theorem fflagsAccess (hart : Nat) (write : Option Word) : Statement (.fflagsAccess hart write) :=
  ⟨Iff.rfl, rfl⟩
theorem tagmapClear (crew : Nat) (value : Word) : Statement (.tagmapClear crew value) :=
  ⟨Iff.rfl, rfl⟩
theorem nheadWrite (guest : Nat) (value : BitVec 32) : Statement (.nheadWrite guest value) :=
  ⟨Iff.rfl, rfl⟩
theorem registerWrite (hart reg : Nat) (value : Word) : Statement (.registerWrite hart reg value) :=
  ⟨Iff.rfl, rfl⟩
theorem coolantRestored : Statement .coolantRestored :=
  ⟨Iff.rfl, rfl⟩
theorem serviceCoreRestart (service : Nat) : Statement (.serviceCoreRestart service) :=
  ⟨Iff.rfl, rfl⟩
theorem wait (page : Nat) : Statement (.wait page) :=
  ⟨Iff.rfl, rfl⟩
theorem peerInvalidation (pkg pa : Nat) (recalled : Bool) : Statement (.peerInvalidation pkg pa recalled) :=
  ⟨Iff.rfl, rfl⟩

end Sys2Proof.Laws.Enc
end

