-- ==== Sys2Proof/Tests/Slice0.lean ====
section
/-! SUPPORT. Tests: words written out from the spec's encodings, ill-formed terms, one-step checks against the spec's own worked
values, and states that meet the hypotheses of the statements. -/
namespace Sys2Proof.Tests

open Machine Safety

set_option maxRecDepth 100000
set_option exponentiation.threshold 2000

/-! ### Helpers -/

def w3 (a b c : Nat) : Nat := a + b * 2 ^ 32 + c * 2 ^ 64

def N : Operand := .none
def S (r : BitVec 8) (m : BitVec 7 := 0) : Operand := .s r false m
def V (r : BitVec 8) (m : BitVec 7 := 0) : Operand := .v r false m
def K (r : BitVec 4) : Operand := .k r false

/-- Fields of an unguarded instruction without hints. -/
def mk (ty : Ty) (d a b : Operand) (sub : BitVec 4 := 0) (rm : BitVec 3 := 0) : Args := ⟨sub, 0, false, 0, ty, d, a, b, rm⟩

/-- A team of 32 lanes alone on core 0, its registers FULL and 0. -/
def team : State :=
  { (State.reset.setHart 256 (loadHart .user 32 1)).modRun (fun r => { r with crews := [loadCrew 256] }) with
    cur := 256, turn := .hart }

/-- A host thread in a mode. -/
def thread (m : Mode) : State := { State.reset.setHart 0 (loadHart m 1 0) with cur := 0, turn := .hart }

/-- A service core. -/
def service : State := { State.reset.setHart 128 (loadHart .fw 1 0) with cur := 128, turn := .hart }

/-- Every lane of a vector register holds what `f` gives of its lane. -/
def vec (s : State) (r : Nat) (f : Nat → Nat) : State :=
  s.modNow (fun t => (List.range 32).foldl (fun u l => u.putV r l ⟨.full, BitVec.ofNat 32 (f l)⟩) t)

/-- A scalar register holds a value. -/
def sreg (s : State) (r v : Nat) : State := s.modNow (fun t => t.putS r ⟨.full, BitVec.ofNat 64 v⟩)

/-- A predicate register holds a mask. -/
def kreg (s : State) (r : Nat) (m : Nat) : State := s.modNow (fun t => t.putK r ⟨false, BitVec.ofNat 1024 m⟩)

/-- What a test looks at in a next state; `none` where the step does not answer one. -/
def after {α : Type} (o : Out) (f : State → α) : Option α :=
  match o with
  | .next t => some (f t)
  | _ => none

/-! ### Decoding (R26, R27, R29, R34, R39): words of the spec's worked encodings -/

theorem test_decode_add : decodeWord (w3 0x200C8001 0x00320007 0x05006420) = .ok (.add ⟨0, 2, true, 1, .i32, .v 7 false 0, .v 3 false 0, .imm 100, 0⟩) := by decide
theorem test_decode_movw : decodeWord (w3 0x8000000F 0x87610009 0x054321F9) = .ok (.movw ⟨0, 0, false, 0, .b64, .s 9 false 0, .wide 0x987654321, .none, 0⟩) := by decide
theorem test_decode_sel : decodeWord (w3 0x2000800D 0x00020003 0x02000150) = .ok (.sel ⟨0, 2, false, 0, .i32, .v 3 false 0, .imm 0, .v 1 false 0, 0⟩) := by decide
theorem test_decode_movh : decodeWord (w3 0x80000010 0xDEA10009 0x0DBEEFF0) = .ok (.movh ⟨0, 0, false, 0, .b64, .s 9 false 0, .wide 0x0DEADBEEF, .none, 0⟩) := by decide
theorem test_decode_ffma : decodeWord (w3 0x50000083 0x00520004 0x12000620) = .ok (.ffma ⟨0, 0, false, 0, .f32, .v 4 false 0, .v 5 false 0, .v 6 false 0, 1⟩) := by decide
theorem test_decode_cvt : decodeWord (w3 0x400028D0 0x00320002 0x10000020) = .ok (.cvt ⟨10, 0, false, 0, .f16, .v 2 false 0, .v 3 false 0, .none, 1⟩) := by decide
theorem test_decode_topk : decodeWord (w3 0x50004106 0x00130002 0x05003C20) = .ok (.topk ⟨0, 1, false, 0, .f32, .k 2 false, .v 1 false 0, .imm 60, 0⟩) := by decide
theorem test_decode_scan : decodeWord (w3 0x2000E103 0x00220003 0x00000020) = .ok (.scan ⟨8, 3, false, 0, .i32, .v 3 false 0, .v 2 false 0, .none, 0⟩) := by decide
theorem test_decode_brd : decodeWord (w3 0xF8000143 0x00100000 0x05000330) = .ok (.brd ⟨0, 0, false, 0, .none, .none, .k 1 false, .imm 3, 0⟩) := by decide
theorem test_decode_mbr : decodeWord (w3 0xF8010144 0x00050003 0x00090000) = .ok (.mbr ⟨4, 0, 3, 5, 0, 9⟩) := by decide
theorem test_decode_ld : decodeWord (w3 0x50000180 0x00420008 0x02020210) = .ok (.ld ⟨0, 0, false, 0, .f32, .v 8 false 0, .s 4 false 0, .v 2 false 2, 0⟩) := by decide
theorem test_decode_fence : decodeWord (w3 0xF8001186 0x00000000 0x40000000) = .ok (.fence ⟨4, 0, false, 0, .none, .none, .none, .none, 4⟩) := by decide
theorem test_decode_ldp : decodeWord (w3 0x28000587 0x0081000B 0x45001410) = .ok (.ldp ⟨1, 0, false, 0, .n32, .s 11 false 0, .s 8 false 0, .imm 20, 4⟩) := by decide
theorem test_decode_amo : decodeWord (w3 0x200001C0 0x20410000 0x11000710) = .ok (.amo ⟨0, 0, false, 0, .i32, .s 0 false 0, .s 4 false 2, .s 7 false 0, 1⟩) := by decide
theorem test_decode_kst : decodeWord (w3 0x800009D1 0x0041000C 0x41010610) = .ok (.kst ⟨2, 0, false, 0, .b64, .s 12 false 0, .s 4 false 0, .s 6 false 1, 4⟩) := by decide
theorem test_decode_krec : decodeWord (w3 0x300005D3 0x0041000A 0x30000010) = .ok (.krec ⟨1, 0, false, 0, .i64, .s 10 false 0, .s 4 false 0, .none, 3⟩) := by decide
theorem test_decode_chld : decodeWord (w3 0x88000200 0x00310014 0x0A100070) = .ok (.chld ⟨0, 0, false, 0, .bp, .s 20 false 0, .chk 3, .spa 0x1000, 0⟩) := by decide
theorem test_decode_mcb : decodeWord (w3 0xF8000202 0x40060000 0x080001A0) = .ok (.mcb ⟨0, 0, false, 0, .none, .acc 0, .spa 0x400, .bar 1, 0⟩) := by decide
theorem test_decode_mdrn : decodeWord (w3 0x50001205 0x00210015 0x11010A60) = .ok (.mdrn ⟨4, 0, false, 0, .f32, .s 21 false 0, .acc 2, .s 10 false 1, 1⟩) := by decide
theorem test_decode_cpy : decodeWord (w3 0xF8000240 0x20010014 0x090005A0) = .ok (.cpy ⟨0, 0, false, 0, .none, .s 20 false 0, .spa 0x200, .tag 5, 0⟩) := by decide
theorem test_decode_await : decodeWord (w3 0xF8000244 0x01410006 0x00000010) = .ok (.await ⟨0, 0, false, 0, .none, .s 6 false 0, .s 20 false 0, .none, 0⟩) := by decide
theorem test_decode_binit : decodeWord (w3 0xF8000280 0x00380001 0x00000050) = .ok (.binit ⟨0, 0, false, 0, .none, .bar 1, .imm 3, .none, 0⟩) := by decide
theorem test_decode_lnch : decodeWord (w3 0xF8000290 0x00810014 0x05001110) = .ok (.lnch ⟨0, 0, false, 0, .none, .s 20 false 0, .s 8 false 0, .imm 17, 0⟩) := by decide
theorem test_decode_kvx : decodeWord (w3 0xF8000EC0 0x00820014 0x03000320) = .ok (.kvx ⟨3, 0, false, 0, .none, .v 20 false 0, .v 8 false 0, .k 3 false, 0⟩) := by decide
theorem test_decode_pin : decodeWord (w3 0xF80002C3 0x00410006 0x00000010) = .ok (.pin ⟨0, 0, false, 0, .none, .s 6 false 0, .s 4 false 0, .none, 0⟩) := by decide
theorem test_decode_tlbi : decodeWord (w3 0xF80002C7 0x00400000 0x30000010) = .ok (.tlbi ⟨0, 0, false, 0, .none, .none, .s 4 false 0, .none, 3⟩) := by decide
theorem test_decode_cntr : decodeWord (w3 0xF8000300 0x01010005 0x00000050) = .ok (.cntr ⟨0, 0, false, 0, .none, .s 5 false 0, .imm 16, .none, 0⟩) := by decide
theorem test_decode_tstp : decodeWord (w3 0xF8000303 0x00910008 0x00000010) = .ok (.tstp ⟨0, 0, false, 0, .none, .s 8 false 0, .s 9 false 0, .none, 0⟩) := by decide
theorem test_decode_srr : decodeWord (w3 0xF8000340 0x01310005 0x00000040) = .ok (.srr ⟨0, 0, false, 0, .none, .s 5 false 0, .sr 0x13, .none, 0⟩) := by decide
theorem test_decode_ldss : decodeWord (w3 0xF8000348 0x00B00000 0x00000010) = .ok (.ldss ⟨0, 0, false, 0, .none, .none, .s 11 false 0, .none, 0⟩) := by decide
theorem test_decode_kmov : decodeWord (w3 0xF8000114 0x00B40010 0x05000010) = .ok (.kmov ⟨0, 0, false, 0, .none, .sr 0x10, .s 11 false 0, .imm 0, 0⟩) := by decide
theorem test_decode_shl : decodeWord (w3 0x20004045 0x00220004 0x01000320) = .ok (.shl ⟨0, 1, false, 0, .i32, .v 4 false 0, .v 2 false 0, .s 3 false 0, 0⟩) := by decide

/-! ### Ill-formed terms: one for each check 3 to 8 of R43, and the words that break checks 1 and 2 -/

theorem test_bit95 : (decodeWord (w3 0x200C8001 0x00320007 0x85006420)).toOption = none := by decide
theorem test_unassigned : (decodeWord 0x243).toOption = none ∧ (decodeWord 0).toOption = none := by decide
theorem test_sub_refused : checkArgs .add (mk .i32 (V 2) (V 4) (V 6) 2) = some 3 := by decide
theorem test_type_refused : checkArgs .mulh (mk .f32 (V 2) (V 4) (V 6)) = some 4 := by decide
theorem test_rm_refused : checkArgs .fadd (mk .f32 (V 2) (V 4) (V 6) 0 7) = some 5 := by decide
theorem test_guard_refused : checkArgs .add { mk .i32 (V 2) (V 4) (V 6) with neg := true } = some 6 := by decide
theorem test_kind_refused : checkArgs .add (mk .i32 (.bar 1) (V 4) (V 6)) = some 7 := by decide
theorem test_value_refused : checkArgs .add (mk .i32 (S 128) (S 4) (S 6)) = some 8 := by decide
theorem test_odd_pair_refused : checkArgs .add (mk .i64 (V 3) (V 4) (V 6)) = some 8 := by decide
theorem test_unused_refused : (Instr.join (mk .none N (S 1) N)).wellFormed = false := by decide
theorem test_mbr_refused : (Instr.mbr ⟨4, 0, 0, 0, 0, 0⟩).wellFormed = false ∧ (Instr.mbr ⟨13, 0, 1, 0, 0, 0⟩).wellFormed = false := by decide

/-! ### Every form issues normally somewhere: operands for which `ready` holds -/

theorem ready_integer : ([(.add, (mk .i8 (S 2) (S 4) (S 6))),
  (.sub, (mk .i8 (S 2) (S 4) (S 6))),
  (.mul, (mk .i8 (S 2) (S 4) (S 6))),
  (.mulh, (mk .i8 (S 2) (S 4) (S 6))),
  (.mad, (mk .i8 (S 2) (S 4) (S 6))),
  (.div, (mk .i8 (S 2) (S 4) (S 6))),
  (.rem, (mk .i8 (S 2) (S 4) (S 6))),
  (.min, (mk .i8 (S 2) (S 4) (S 6))),
  (.max, (mk .i8 (S 2) (S 4) (S 6))),
  (.abs, (mk .i8 (S 2) (S 4) N)),
  (.lea, (mk .n64 (S 2) (S 4) (S 6)))] : List (Op × Args)).all (fun p => ready p.1 p.2 team) = true := by decide
theorem ready_selectAndMove : ([(.sel, (mk .i8 (S 2) (S 4) (S 6))),
  (.mov, (mk .b32 (S 2) (S 4) N)),
  (.movw, (mk .b32 (S 2) (.wide 1) N)),
  (.movh, (mk .b64 (S 2) (.wide 1) N))] : List (Op × Args)).all (fun p => ready p.1 p.2 team) = true := by decide
theorem ready_logicAndShift : ([(.and, (mk .b32 (S 2) (S 4) (S 6))),
  (.or, (mk .b32 (S 2) (S 4) (S 6))),
  (.xor, (mk .b32 (S 2) (S 4) (S 6))),
  (.andn, (mk .b32 (S 2) (S 4) (S 6))),
  (.not, (mk .b32 (S 2) (S 4) N)),
  (.shl, (mk .i8 (S 2) (S 4) (S 6))),
  (.shr, (mk .i8 (S 2) (S 4) (S 6))),
  (.sra, (mk .i8 (S 2) (S 4) (S 6))),
  (.rol, (mk .i8 (S 2) (S 4) (S 6))),
  (.clz, (mk .b32 (S 2) (S 4) N)),
  (.ctz, (mk .b32 (S 2) (S 4) N)),
  (.popc, (mk .b32 (S 2) (S 4) N)),
  (.brev, (mk .b32 (S 2) (S 4) N)),
  (.bfx, (mk .i32 (S 2) (S 4) (S 6))),
  (.bfi, (mk .b32 (S 2) (S 4) (S 6))),
  (.prmb, (mk .b32 (S 2) (S 4) (S 6)))] : List (Op × Args)).all (fun p => ready p.1 p.2 team) = true := by decide
theorem ready_floatArithmetic : ([(.fadd, (mk .f16 (S 2) (S 4) (S 6))),
  (.fsub, (mk .f16 (S 2) (S 4) (S 6))),
  (.fmul, (mk .f16 (S 2) (S 4) (S 6))),
  (.ffma, (mk .f16 (S 2) (S 4) (S 6))),
  (.fdiv, (mk .f16 (S 2) (S 4) (S 6))),
  (.fsqrt, (mk .f16 (S 2) (S 4) N)),
  (.fmin, (mk .f16 (S 2) (S 4) (S 6))),
  (.fmax, (mk .f16 (S 2) (S 4) (S 6))),
  (.fabs, (mk .f16 (S 2) (S 4) N)),
  (.fneg, (mk .f16 (S 2) (S 4) N)),
  (.fclass, (mk .f16 (S 2) (S 4) N)),
  (.frnd, (mk .f16 (S 2) (S 4) N)),
  (.fscl, (mk .f16 (S 2) (S 4) (S 6)))] : List (Op × Args)).all (fun p => ready p.1 p.2 team) = true := by decide
theorem ready_longLatency : ([(.frcp, (mk .f16 (S 2) (S 4) N)),
  (.frsq, (mk .f16 (S 2) (S 4) N)),
  (.fexp2, (mk .f16 (S 2) (S 4) N)),
  (.flog2, (mk .f16 (S 2) (S 4) N)),
  (.fsin, (mk .f16 (S 2) (S 4) N)),
  (.fcos, (mk .f16 (S 2) (S 4) N)),
  (.ftanh, (mk .f16 (S 2) (S 4) N)),
  (.vtos, (mk .b32 (S 2) (V 10) (S 6)))] : List (Op × Args)).all (fun p => ready p.1 p.2 team) = true := by decide
theorem ready_laneExchange : ([(.shfl, (mk .b32 (V 2) (V 10) (S 6))),
  (.scan, (mk .i8 (V 2) (V 10) N)),
  (.topk, (mk .i8 (K 1) (V 10) (S 6)))] : List (Op × Args)).all (fun p => ready p.1 p.2 team) = true := by decide
theorem ready_masks : ([(.kand, (mk .none (K 1) (K 2) (K 3))),
  (.kor, (mk .none (K 1) (K 2) (K 3))),
  (.kxor, (mk .none (K 1) (K 2) (K 3))),
  (.knot, (mk .none (K 1) (K 2) N)),
  (.kmov, (mk .none (K 1) (K 2) N)),
  (.kpop, (mk .none (S 2) (K 2) N)),
  (.kffs, (mk .none (S 2) (K 2) N)),
  (.exec, (mk .none (K 1) (K 2) N)),
  (.execr, (mk .none N (K 2) N))] : List (Op × Args)).all (fun p => ready p.1 p.2 team) = true := by decide
theorem ready_branches : ([(.br, (mk .none N N (.imm 1))),
  (.brc, (mk .i8 N (S 4) (.imm 1))),
  (.brz, (mk .none N (K 2) (.imm 1))),
  (.call, (mk .none (S 2) N (.imm 1))),
  (.nop, (mk .none N N N)),
  (.yield, (mk .none N N N)),
  (.loop, (mk .none (S 2) N (.imm 0xFFFF)))] : List (Op × Args)).all (fun p => ready p.1 p.2 team) = true := by decide
theorem ready_system : ([(.brk, (mk .none N N N)),
  (.trap, (mk .none N N N)),
  (.srr, (mk .none (S 2) (.sr 19) N)),
  (.srw, (mk .none (.sr 19) (S 4) N))] : List (Op × Args)).all (fun p => ready p.1 p.2 team) = true := by decide
theorem ready_memory : ([(.ld, (mk .i8 (S 2) (S 4) (S 6))),
  (.st, (mk .i8 (S 2) (S 4) (S 6))),
  (.lds, (mk .i32 (S 2) (S 4) (S 6))),
  (.sts, (mk .i32 (S 2) (S 4) (S 6))),
  (.ldp, (mk .i32 (S 2) (S 4) (S 6))),
  (.amo, (mk .i32 (S 2) (S 4) (S 6))),
  (.cas, (mk .i32 (S 2) (S 4) (S 6))),
  (.redu, (mk .i32 N (S 4) (S 6))),
  (.pref, (mk .none N (S 4) (S 6))),
  (.cctl, (mk .none N (S 4) (S 6))),
  (.fence, (mk .none N N N 1 0)),
  (.ldacc, (mk .f32 (S 2) (.acc 0) (S 6))),
  (.stacc, (mk .f32 (S 2) (.acc 0) (S 6)))] : List (Op × Args)).all (fun p => ready p.1 p.2 team) = true := by decide
theorem ready_keeping : ([(.kld, (mk .b64 (S 2) (S 4) N 0 3)),
  (.kst, (mk .b64 (S 2) (S 4) (S 6 1) 0 3)),
  (.ksib, (mk .b64 (S 2) (S 4) (S 6) 0 3)),
  (.krec, (mk .b64 (S 2) (S 4) (S 6 1) 0 3))] : List (Op × Args)).all (fun p => ready p.1 p.2 team) = true := by decide
theorem ready_matrix : ([(.chld, (mk .bp (S 2) (.chk 0) (.spa 0))),
  (.chinv, (mk .none N (.chk 0) N)),
  (.mcb, (mk .none (.acc 0) (.spa 0) (.bar 0))),
  (.mma, (mk .none N (.spa 0) N)),
  (.mce, (mk .none N N N)),
  (.mdrn, (mk .f32 (S 2) (.acc 0) (S 6 1))),
  (.mclr, (mk .none N (.acc 0) N)),
  (.morf, (mk .none N N N)),
  (.msmx, (mk .none (.acc 0) (.spa 0) (.bar 0))),
  (.mscl, (mk .none (.acc 0) N (.bar 0)))] : List (Op × Args)).all (fun p => ready p.1 p.2 team) = true := by decide
theorem ready_asynchronous : ([(.cpy, (mk .none (S 2) (.spa 0) (.tag 0))),
  (.cpyg, (mk .none (S 2) (.spa 0) (.tag 0))),
  (.cpys, (mk .none (S 2) (.spa 0) (.tag 0))),
  (.await, (mk .none (S 2) (S 4) N)),
  (.ftest, (mk .none (K 1) (S 4) N)),
  (.fcan, (mk .none N (S 4) N)),
  (.fhnd, (mk .none (S 2) (S 4) N)),
  (.wany, (mk .none (S 2) (S 4) N)),
  (.wall, (mk .none (S 2) (S 4) N)),
  (.wffr, (mk .none (S 2) (S 4) N))] : List (Op × Args)).all (fun p => ready p.1 p.2 team) = true := by decide
theorem ready_barriers : ([(.binit, (mk .none (.bar 0) (S 4) N)),
  (.barv, (mk .none (.bar 0) N N)),
  (.bwait, (mk .none (.bar 0) N N)),
  (.barw, (mk .none (.bar 0) N N)),
  (.bqry, (mk .none (S 2) (.bar 0) N))] : List (Op × Args)).all (fun p => ready p.1 p.2 team) = true := by decide
theorem ready_launch : ([(.lnch, (mk .none (S 2) (S 4) (S 6))),
  (.acq, (mk .none N N N)),
  (.park, (mk .none N N N)),
  (.wake, (mk .none N (S 4) (S 6)))] : List (Op × Args)).all (fun p => ready p.1 p.2 team) = true := by decide
theorem ready_placement : ([(.pin, (mk .none (S 2) (S 4) N)),
  (.unpin, (mk .none (S 2) (S 4) N)),
  (.hint, (mk .none (S 2) (S 4) N)),
  (.ownrRequest, (mk .none (S 2) (S 4) N)),
  (.ownrRelease, (mk .none (S 2) (S 4) N 1 0))] : List (Op × Args)).all (fun p => ready p.1 p.2 team) = true := by decide
theorem ready_tables : ([(.kvx, (mk .none (V 2) (V 10) (K 3))),
  (.kvw, (mk .none N (S 4 1) (S 6 1))),
  (.kvr, (mk .none (S 2) (S 4 1) N)),
  (.iflush, (mk .none N N N))] : List (Op × Args)).all (fun p => ready p.1 p.2 team) = true := by decide
theorem ready_counters : ([(.cntr, (mk .none (S 2) (S 4) N)),
  (.cntc, (mk .none (S 2) (S 4) (S 6))),
  (.pgcnt, (mk .none (S 2) (S 4) N)),
  (.tstp, (mk .none (S 2) N N))] : List (Op × Args)).all (fun p => ready p.1 p.2 team) = true := by decide
theorem ready_records : ([(.svsb, (mk .none N (S 4) N)),
  (.ldsb, (mk .none N (S 4) N)),
  (.svss, (mk .none N (S 4) N)),
  (.ldss, (mk .none N (S 4) N)),
  (.svacc, (mk .none N (S 4) N)),
  (.ldacr, (mk .none N (S 4) N)),
  (.svchk, (mk .none N (S 4) N)),
  (.ldchk, (mk .none N (S 4) N))] : List (Op × Args)).all (fun p => ready p.1 p.2 team) = true := by decide
theorem ready_thread : ([(.migr, (mk .none (S 2) (S 4) N)), (.tlbi, (mk .none N (S 4) (S 6))), (.tret, (mk .none N N N)), (.wfi, (mk .none N N N))] : List (Op × Args)).all (fun p => ready p.1 p.2 (thread .host)) = true := by decide
theorem ready_service : ready .halt (mk .none N N N) service = true := by decide

/-! ### One step against the spec's worked values -/

/-- One instruction of the team with two vector sources: what lane 0 of v2 then holds. -/
def lane0 (i : Args → Instr) (ty : Ty) (a b : Nat) (sub : BitVec 4 := 0) (rm : BitVec 3 := 0) : Option Nat :=
  after (exec (i (mk ty (V 2) (V 4) (V 6) sub rm)) (vec (vec team 4 (fun _ => a)) 6 (fun _ => b))) (fun t => (t.now.getV 2 0).v.toNat)

/-- One instruction of the team with one vector source. -/
def lane0u (i : Args → Instr) (ty : Ty) (a : Nat) (sub : BitVec 4 := 0) (rm : BitVec 3 := 0) : Option Nat :=
  after (exec (i (mk ty (V 2) (V 4) N sub rm)) (vec team 4 (fun _ => a))) (fun t => (t.now.getV 2 0).v.toNat)

-- The tables of R94, R104, R106.
theorem test_add_wraps : lane0 .add .i32 0x7FFFFFFF 1 = some 0x80000000 := by decide
theorem test_add_saturates : lane0 .add .i32 0x7FFFFFFF 1 1 = some 0x7FFFFFFF := by decide
theorem test_sub_saturates : lane0 .sub .n32 3 5 = some 0xFFFFFFFE ∧ lane0 .sub .n32 3 5 1 = some 0 := by decide
theorem test_mul_i16 : lane0 .mul .i16 300 200 1 = some 0x7FFF := by decide
theorem test_mulh : lane0 .mulh .i32 0xFFFFFFFE 3 = some 0xFFFFFFFF ∧ lane0 .mulh .n32 0xFFFFFFFE 3 = some 2 := by decide
theorem test_div : lane0 .div .i32 0xFFFFFFF9 2 = some 0xFFFFFFFD ∧ lane0 .div .i32 9 0 = some 0xFFFFFFFF ∧
    lane0 .div .i32 0x80000000 0xFFFFFFFF = some 0x80000000 := by decide
theorem test_rem : lane0 .rem .i32 0xFFFFFFF9 2 = some 0xFFFFFFFF ∧ lane0 .rem .i32 9 0 = some 9 := by decide
theorem test_abs : lane0u .abs .i32 0x80000000 = some 0x80000000 ∧ lane0u .abs .i32 0x80000000 1 = some 0x7FFFFFFF := by decide
theorem test_min : lane0 .min .n32 0xFFFFFFFF 1 = some 1 ∧ lane0 .min .i32 0xFFFFFFFF 1 = some 0xFFFFFFFF := by decide
theorem test_shl : lane0 .shl .b32 0x80000001 1 = some 2 ∧ lane0 .shl .i32 1 0xFFFFFFFF = some 0 := by decide
theorem test_shr : lane0 .shr .b32 0x80000001 40 = some 0 := by decide
theorem test_sra : lane0 .sra .b32 0x80000000 40 = some 0xFFFFFFFF := by decide
theorem test_rol : lane0 .rol .b32 0x80000001 0xFFFFFFFF = some 0xC0000000 := by decide
theorem test_clz_ctz : lane0u .clz .b32 0x100 = some 23 ∧ lane0u .ctz .b32 0x100 = some 8 := by decide
theorem test_popc_brev : lane0u .popc .b32 0xF0F0 = some 8 ∧ lane0u .brev .b32 1 = some 0x80000000 := by decide
theorem test_bfx : lane0 .bfx .i32 0xABCD 0x0804 = some 0xFFFFFFBC ∧ lane0 .bfx .n32 0xABCD 0x0804 = some 0xBC := by decide
theorem test_bfi : after (exec (.bfi (mk .b32 (V 2) (V 4) (V 6)))
    (vec (vec (vec team 2 (fun _ => 0xFFFFFFFF)) 4 (fun _ => 0x12)) 6 (fun _ => 0x0804))) (fun t => (t.now.getV 2 0).v) =
    some 0xFFFFF12F := by decide
theorem test_prmb : lane0 .prmb .b32 0x44332211 0x0123 = some 0x11223344 ∧ lane0 .prmb .b32 0x44332211 0x8881 = some 0x22 := by decide
-- R97: SEL clamps negative values to zero. R100: MOVH keeps the low half. R95: `%lane` as an index.
theorem test_sel_clamps : after (exec (.sel { mk .i32 (V 3) (.imm 0) (V 1) with g := 2 }) (kreg (vec team 1 (fun l => if l = 1 then 0xFFFFFFFD else 5)) 2 2))
    (fun t => ((t.now.getV 3 0).v.toNat, (t.now.getV 3 1).v.toNat)) = some (5, 0) := by decide
theorem test_movh : after (exec (.movh (mk .b64 (S 9) (.wide 0xDEADBEEF) N)) (sreg team 9 0x12345678)) (fun t => (t.now.getS 9).v) =
    some 0xDEADBEEF12345678 := by decide
theorem test_lea_lane : after (exec (.lea (mk .n64 (V 4) (S 4) (.sr 0) 2)) (sreg team 4 0x4000001000))
    (fun t => ((t.now.getV 4 5).v.toNat, (t.now.getV 5 5).v.toNat)) = some (0x1014, 0x40) := by decide
-- R149: 300.5 to N8, -2.7 to I8, 2.23 to E4M3U.
theorem test_cvt_n8 : lane0u .cvt .n8 0x43964000 10 1 = some 255 := by decide
theorem test_cvt_i8 : lane0u .cvt .i8 0xC02CCCCD 10 2 = some 0xFFFFFFFE := by decide
theorem test_cvt_e4m3u : lane0u .cvt .e4m3u 0x400EB852 10 4 = some 0x41 := by decide
-- 1.5 + 2.25, 1.5 × 2.25, the square root of 2.25 in F32.
theorem test_fadd : lane0 .fadd .f32 0x3FC00000 0x40100000 0 1 = some 0x40700000 := by decide
theorem test_fmul : lane0 .fmul .f32 0x3FC00000 0x40100000 0 1 = some 0x40580000 := by decide
theorem test_fsqrt : lane0u .fsqrt .f32 0x40100000 0 1 = some 0x3FC00000 := by decide
-- R172, R198: the causes of BRK and TRAP.
theorem test_trap_cause : after (exec (.trap (mk .none N (.imm 7) N)) (service)) (fun t => (t.now.trap.tcause.toNat, t.now.trap.tinfo.toNat)) =
    some (0x12, 7) := by decide
-- R46, R490: the first step from reset is idle; R26: a placed word runs as the next step.
theorem test_step_runs : after (step { State.reset.withFetchWord 96 (w3 0x80000010 0xDEA10009 0x0DBEEFF0) with schedule := [0] }) (fun t => (t.hart 0).getS 9) =
    some ⟨.full, 0xDEADBEEF00000000⟩ := by decide

/-! ### Witnesses: states and operands that meet the hypotheses of each statement -/

theorem witness_MemberSet : (31 < team.now.W ∧ team.now.W ≤ 1024) ∧ laneIn (team.now.members (mk .i32 (V 2) (V 4) (V 6))) 31 = true := by decide

theorem witness_Compares : ready .cmp (mk .i32 (K 1) (V 4) (V 6) 5) team = true ∧ ready .cmp (mk .i32 (S 2) (S 4) (S 6)) team = true ∧
    ready .fcmp (mk .f32 (K 1) (V 4) (V 6) 7) team = true ∧ ready .fcmp (mk .f32 (S 2) (S 4) (S 6)) team = true := by decide

theorem witness_Conversions :
    (ready .cvt (mk .f16 (V 2) (V 4) N 10 1) team = true ∧ tyOfCode 10 = some .f32) ∧
    ready .cvtp (mk .p2f16 (V 2) (V 4) N 0 1) team = true ∧ ready .cvtp (mk .p2f16 (V 2) (V 4) N 1 0) team = true ∧
    (let x := mk .bp (V 2) (V 4) N 8 0; ready .cvtbp x team = true ∧ unconverged team.now (team.now.members x) = 0) ∧
    (let x := mk .bp (V 2) (V 4) N 2 0; ready .cvfbp x team = true ∧ unconverged team.now (team.now.members x) = 0) ∧
    ready .amax (mk .f32 (S 2) (V 4) N 7) team = true ∧ ready .qscl (mk .e4m3 (S 2) N N 7 1) team = true := by decide

theorem witness_LaneExchange :
    (let x := mk .i32 (S 2) (V 4) N 5; ready .lred x team = true ∧ memberLanes team x ≠ []) ∧
    ready .lred (mk .f32 (V 2) (V 4) N 0) team = true ∧ ready .vote (mk .none (S 2) (K 1) N 3) team = true ∧
    ready .vote (mk .none (K 1) (V 4) N 2) team = true ∧
    (let x := mk .n8 (V 248) (V 4) N; unconverged team.now (team.now.members (mk .n8 (V 248) N N)) = 0 ∧
      (ready .gtrn x team = true ∨ ready .gtrn (mk .n8 (V 248) N N) team = true)) := by decide

theorem witness_BranchesAndCalls :
    (ready .brc (mk .i32 N (S 4) (.imm 3)) team = true ∧ interp .i32 (team.src .i32 (S 4) 0) = 0) ∧
    (ready .brc (mk .i32 N (S 4) (.imm 3)) (sreg team 4 1) = true ∧ interp .i32 ((sreg team 4 1).src .i32 (S 4) 0) ≠ 0) ∧
    (ready .brz (mk .none N (K 1) (.imm 3)) team = true ∧ team.now.readMask (K 1) &&& team.now.exec = 0) ∧
    (ready .brz (mk .none N (K 1) (.imm 3)) (kreg team 1 1) = true ∧ (kreg team 1 1).now.readMask (K 1) &&& (kreg team 1 1).now.exec ≠ 0) ∧
    ready .br (mk .none N (.wide 5) N) team = true ∧ ready .call (mk .none (S 2) (.wide 5) N) team = true ∧
    (ready .ret (mk .none N (S 4) N) (sreg team 4 12) = true ∧ ready .jmpi (mk .none N (S 4) N) (sreg team 4 12) = true ∧
      ((sreg team 4 12).now.getS 4).v.toNat % 4 = 0) := by decide

/-- The team with a split stack. -/
def stacked (l : List SEntry) : State := team.modNow (fun t => { t with stack := l, place := { t.place with sslimit := 32 } })

theorem witness_Divergence :
    let brd := mk .none N (K 1) (.imm 3)
    let take := fun (s : State) => s.now.exec &&& s.now.guardLanes brd &&& s.now.readMask (K 1)
    let room := fun (s : State) n => s.now.stack.length + n ≤ 16 ∧ s.now.depth + n ≤ s.now.place.sslimit
    let full := List.replicate 14 (⟨false, 0, 1⟩ : SEntry)
    (let s := kreg (stacked full) 1 0x3FF; ready .brd brd s = true ∧ take s ≠ 0 ∧ s.now.exec &&& ~~~take s ≠ 0 ∧ room s 2) ∧
    (let s := kreg (stacked full) 1 0xFFFFFFFF; ready .brd brd s = true ∧ take s ≠ 0 ∧ s.now.exec &&& ~~~take s = 0 ∧ room s 1) ∧
    (let s := stacked full; ready .brd brd s = true ∧ take s = 0 ∧ room s 1) ∧
    (let e : SEntry := ⟨true, 24, 3⟩; ready .join (mk .none N N N) (stacked [e]) = true ∧ e.mask &&& (stacked [e]).now.live ≠ 0 ∧
        (match (stacked [e]).unwait.refillReady 256 0 with | .ok _ => true | .error _ => false) = true) ∧
    (ready .join (mk .none N N N) (stacked full) = true ∧
      (match (stacked full).unwait.refillReady 256 13 with | .ok _ => true | .error _ => false) = true) ∧
    (ready .join (mk .none N N N) (stacked []) = true ∧ (stacked []).now.depth = 0) := by decide

theorem witness_MultiBranch :
    let x : MbrArgs := ⟨12, 0, 3, 5, 0, 9⟩
    let s := kreg (stacked []) 12 1
    checkMbr x = none ∧ (mbrGroups s.now x).length = 2 ∧ s.now.stack.length + 2 ≤ 16 ∧ s.now.depth + 2 ≤ s.now.place.sslimit ∧
    (∀ i, i < 4 → (s.now.getK (12 + i)).empty = false) := by decide

theorem witness_Exits :
    let x := mk .none N N N
    (ready .exit x team = true ∧ team.now.live &&& ~~~(team.now.members x) &&& team.now.live = 0) ∧
    (let y := { x with g := 1 }
      let s := kreg team 1 1;
      ready .exit y s = true ∧ s.now.exec &&& (s.now.live &&& ~~~(s.now.members y)) ≠ 0) := by decide

theorem witness_IssueChecks :
    checkArgs .add (mk .i32 (.bar 1) N N) = some 7 ∧
    (checkArgs .mce (mk .none N N N) = none ∧ isCompute (thread .user).cur = false ∧ hostBarred .mce (mk .none N N N) = true) ∧
    (checkArgs .wfi (mk .none N N N) = none ∧ modeRank team.now.mode < modeRank Op.wfi.row.mode) ∧
    (checkArgs .srr (mk .none (S 2) (.sr 0x100) N) = none ∧ srDenied team.now (mk .none (S 2) (.sr 0x100) N) = some 0x100) ∧
    (let x := { mk .i32 (V 2) (V 4) (V 6) with g := 1 };
      checkArgs .add x = none ∧ acts (kreg team 1 0).now .add x = true ∧
      acts (kreg team 1 0).now .add { mk .i32 (S 2) (S 4) (S 6) with g := 1 } = false) ∧
    (let s := fun st => (team.modNow (fun t => t.putK 1 ⟨true, 0⟩)).modNow (fun t => t.putS 4 ⟨st, 0⟩)
      let x := { mk .b64 (S 2) (.s 4 true 0) N with g := 1 }
      let empties := fun (s : State) => (usesOf .mov x).filter (fun u => u.rd && lanesIn s.now u (relevant s .mov x u) RegSt.isEmpty != 0 && kindOf u.op != .v)
      checkArgs .mov x = none ∧ ((s .full).now.getK 1).empty = true ∧ (empties (s .full)).map Use.slot = [0] ∧
        (empties (s .empty)).map (fun u => (eOf u.op, u.slot)) = [(true, 2), (false, 0)]) ∧
    (usesOf .add (mk .i32 (V 2) (V 4) (V 6))).find? (fun u => !allotted (team.modNow (fun t => { t with place := { t.place with vAllot := 2 } })).now
      (team.kernelOf 256) u) ≠ none := by decide

theorem witness_EmptyOperandWaits :
    let s := fun (r : Nat) st => team.modNow (fun t => t.putS r ⟨st, 0⟩)
    let x := fun (e : Bool) => mk .b64 (S 2) (.s 4 e 0) N
    let has := fun (s : State) x u (p : RegSt → Bool) => !regsIn (fun r => !p r) s.now u (relevant s .mov x u)
    let empty := fun (s : State) x => (usesOf .mov x).find? (fun u => u.rd && !futureExempt .mov u s.now && has s x u RegSt.isEmpty)
    let poison := fun (s : State) x => (usesOf .mov x).find? (fun u => u.rd && !(Op.mov == .st && u.slot == 1) && has s x u (· == .poison))
    (checkArgs .mov (x true) = none ∧ acts team.now .mov (x true) = true ∧ isHostThread team.cur = false ∧ 0 < team.now.W ∧ team.now.W ≤ 1024 ∧
      (usesOf .mov (x true)).all (fun u => allotted team.now (team.kernelOf 256) (u.named .mov (x true))) = true) ∧
    (empty (s 4 .empty) (x true)).map (fun u => (eOf u.op, u.slot)) = some (true, 2) ∧
    (empty (s 4 .empty) (x false)).map (fun u => (eOf u.op, u.slot)) = some (false, 2) ∧
    (empty (s 4 .poison) (x false) = none ∧ (poison (s 4 .poison) (x false)).isSome = true) ∧
    (empty (s 2 .empty) (x false) = none ∧ poison (s 2 .empty) (x false) = none ∧
      (usesOf .mov (x false)).any (fun u => u.wr && has (s 2 .empty) (x false) u RegSt.isEmpty) = true) := by decide

theorem witness_TrapRouting :
    let t := loadHart .user 32 1
    let h := { t with sup := { t.sup with hdeleg := 0xFFFFFFFF } }
    let g := { h with sup := { h.sup with gdeleg := 0xFFFFFFFF }, trap := { h.trap with tvec := 0x100000 }, place := { h.place with codeLen := 1 } }
    trapTarget (loadHart .fw 1 0) 1 = .fw ∧ trapTarget t 1 = .host ∧ trapTarget h 0x14 = .host ∧ trapTarget h 1 = .guest ∧
    (g.sup.gdeleg.getLsbD 2 = true ∧ g.trap.tstatus.getLsbD 2 = false ∧ g.trap.tvec.getLsbD 20 = true ∧ teamDelegable 2 = true ∧
      g.trap.tvec.toNat % 2 ^ 20 < g.place.codeLen) := by decide

/-- A page with virtual addresses 0 to 4095 of class 0 or 3, and what each mode's handler address is in it. -/
def paged (s : State) (pcls : Nat) : State :=
  ((s.loadPage 0).pokeNat 0x4000 8 (loadFrame + 0xDF + pcls * 0x400)).modPkg (fun p => { p with sys := { p.sys with rdt := 0x7000 } })
    |>.pokeNat 0x7000 1 1

theorem witness_TrapDelivery :
    let team1 := (paged team 0).modNow (fun t => { t with
      sup := { t.sup with hdeleg := 0xFFFFFFFF, gdeleg := 0xFFFFFFFF }, trap := { t.trap with tvec := 0x100000 }, place := { t.place with codeLen := 1 } })
    let guest := (paged team 0).modNow (fun t => { t with sup := { t.sup with hdeleg := 0xFFFFFFFF } })
    trapTarget team1.now 2 = .team ∧ (trapTarget guest.now 1 = .guest ∧
      (guest.pokeNat 0x4000 8 (loadFrame + 0xCF)).handlerOk 256 .guest 0 = true) ∧
    (trapTarget (paged (thread .host) 0).now 1 = .host ∧ (paged (thread .host) 0).crewed 0 = false ∧
      (paged (thread .host) 0).handlerOk 0 .host 0 = true) ∧
    (trapTarget service.now 1 = .fw ∧ service.crewed 128 = false) := by decide

theorem witness_TrapReturn :
    let x := mk .none N N N
    let t := fun m (st : Word) => (thread m).modNow (fun u => { u with trap := { u.trap with tstatus := st } })
    (ready .tret x (t .host 3) = true ∧ modeRank (t .host 3).now.mode < 3) ∧ (ready .tret x (t .guest 0) = true) ∧
    (ready .tret x (t .host 2) = true) ∧
    (ready .tret x (service.modNow (fun u => { u with trap := { u.trap with tstatus := 3 } })) = true) := by decide

theorem witness_SpecialRegisters :
    ready .srr (mk .none (S 2) (.sr 0x13) N) team = true ∧
    ([0x12, 0x13, 0x14, 0x45, 0x46, 1, 0x17, 0x61, 0x20, 0x27] : List (BitVec 10)).all (fun n => ready .srw (mk .none (.sr n) (S 4) N) team) = true ∧
    ([0x50, 0x100, 0x101, 0x102, 0x103, 0x104] : List (BitVec 10)).all (fun n => ready .srw (mk .none (.sr n) (S 4) N) (thread .guest)) = true ∧
    ([0x200, 0x201, 0x202, 0x203, 0x204] : List (BitVec 10)).all (fun n => ready .srw (mk .none (.sr n) (S 4) N) (thread .host)) = true ∧
    ([0x300, 0x301] : List (BitVec 10)).all (fun n => ready .srw (mk .none (.sr n) (S 4) N) service) = true ∧
    ([0x50, 0x15, 0x16] : List (BitVec 10)).all (fun n => checkArgs .srw (mk .none (.sr n) (S 4) N) == none) = true := by decide

theorem witness_HaltAndWait : ready .wfi (mk .none N N N) (thread .host) = true ∧ (thread .host).notePending 0 = none ∧
    (thread .host).eventPending 0 = none := by decide

theorem witness_CoherentWrite :
    let l : List (Nat × Byte) := [(0x7FFF, 1), (0x8000, 2)]
    Memory.wf (paged team 0).mem.cells = true ∧ ((l.map (fun p => (paged team 0).writeAddrs p.1)).flatten.Nodup) ∧
    l.all (fun p => (List.range 4).all (fun h => homeOf p.1 != some h || !((paged team 0).home h).failed)) = true := by decide

/-- What `access` finds, tested. -/
def reaches (o : Op) (x : Args) (s : State) (p : List LaneRef → State → Bool := fun _ _ => true) : Bool :=
  memReady o x s && (match access o x s with | some (refs, t) => p refs t | none => false)

theorem witness_PlainLoads :
    let s := paged team 0
    let x := mk .b32 (V 2) (S 4) (.imm 4092)
    reaches .ld x s (fun refs t => refs.length == 32 && refs.all (fun r => !r.io) && t.granulesHeld 0 == 0) = true ∧
    reaches .ld (mk .b32 (V 2) (S 4) (.imm 0) 1) s = true ∧ reaches .ld (mk .b32 (S 2) (S 4) (.imm 0)) s = true := by decide

theorem witness_PlainStores :
    let s := paged team 0
    (let x := mk .b32 (V 2) (S 4) (.imm 4092); reaches .st x s = true ∧ s.now.W ≤ 1024 ∧ s.now.sb = []) ∧
    reaches .sts (mk .i32 (S 2) (S 4) (S 6) 2 4) s = true ∧
    (reaches .st (mk .b32 (S 2) (S 4) (.imm 0) 1) s = true ∧ (s.crewOf 256).isSome = true) := by decide

theorem witness_StrongForms :
    let s := paged team 0
    let x := mk .i32 (S 2) (S 4) (S 6) 1 4
    let free := fun (order n : Nat) (refs : List LaneRef) (t : State) =>
      !t.strongWaits refs order 4 && decide (s.now.uasc + refs.length ≤ n)
    reaches .lds x s (free 1 65535) = true ∧ reaches .ldp (mk .i32 (S 2) (S 4) N 1 4) s (free 1 65535) = true ∧
    reaches .amo (mk .i32 (S 2) (S 4) (S 6) 3 4) s (free 3 65535) = true ∧
    reaches .cas (mk .i32 (S 2) (S 4) (S 6) 3 4) s (free 3 65535) = true ∧
    reaches .redu (mk .i32 N (S 4) (S 6) 2 4) s (free 2 65535) = true := by decide

theorem witness_MisalignedAccess :
    let s := sreg (paged team 0) 4 1
    let at_ := fun (o : Op) (x : Args) => memReady o x s && (match s.laneAddrs o x (accessSize o x) with
      | p :: rest => (p :: rest).all (fun q => q.2 % accessSize o x != 0)
      | [] => false)
    at_ .ld (mk .b32 (V 2) (S 4) (.imm 0)) = true ∧ at_ .st (mk .b32 (V 2) (S 4) (.imm 0)) = true ∧
    at_ .lds (mk .i32 (S 2) (S 4) N 1 4) = true ∧ at_ .sts (mk .i32 (S 2) (S 4) N 2 4) = true ∧ at_ .ldp (mk .i32 (S 2) (S 4) N 1 4) = true ∧
    at_ .amo (mk .i32 (S 2) (S 4) (S 6) 3 4) = true ∧ at_ .cas (mk .i32 (S 2) (S 4) (S 6) 3 4) = true ∧
    at_ .redu (mk .i32 N (S 4) (S 6) 2 4) = true ∧
    (ready .ret (mk .none N (S 4) N) s = true ∧ ready .jmpi (mk .none N (S 4) N) s = true ∧ (s.now.getS 4).v.toNat % 4 ≠ 0) := by decide

theorem witness_CacheForms :
    let s := paged team 0
    memReady .pref (mk .none N (S 4) N) s = true ∧
    (memReady .cctl (mk .none N N N 2 4) s = true ∧ s.now.sb = [] ∧ s.backWaits 0 (fun _ => true) = false) ∧
    reaches .cctl (mk .none N (S 4) N 1 4) s (fun refs t => !t.backWaits 0 (fun a => refs.any (fun r => r.pa / 128 == a / 128))) = true ∧
    (memReady .fence (mk .none N N N 4 4) s = true ∧ s.now.uasc = 0 ∧ s.earlierOut 256 s.nextId = false ∧
      s.pkg.unreachable.contains s.pkg.seqPkg = false) := by decide

theorem witness_KeepingForms :
    let s := paged team 3
    let x := fun (d b : Operand) (sub : BitVec 4) => mk .b64 d (S 4) b sub 3
    let free := fun (order : Nat) (refs : List LaneRef) (t : State) => !t.strongWaits refs order 3 && refs.all (fun r => r.keep)
    reaches .kld (x (S 8) N 1) s (free 1) = true ∧ reaches .ksib (x (S 8) (.imm 1) 1) s (free 1) = true ∧
    reaches .kst (x (S 8) (S 6 1) 2) s (free 2) = true ∧ reaches .krec (x (S 8) (S 6 1) 0) s (free 3) = true ∧
    reaches .krec (mk .i64 (S 8) (S 4) N 1 4) s (free 3) = true := by decide

theorem witness_AccessChecks : reaches .ld (mk .b32 (V 2) (S 4) (.imm 4092)) (paged team 0) = true ∧
    tierOf (loadFrame + 4092) ≠ 2 := by decide

theorem witness_VectorsAndDots :
    let v := ofEntries [0x0FFF, 0xF001]
    (∀ r, r < 16 → v.at_ r < 4096) ∧ v.entries.length ≤ 4 ∧ (v.covers 0xF001 = true) := by decide

/-- A request at the home of an address. -/
def reqAt (pa : Nat) (kind : ReqKind) : Req :=
  { id := 0, hart := 256, core := 0, crew := 1, guest := 0, mode := .user, tag := 257, level := 3, pa := pa, va := 0, size := 4,
    kind := kind, lane := none, reg := some 2, order := 3, scope := 4, ty := .n32, clock := 0, since := 0, ru := false, group := 0,
    parked := false, released := false, keep := false, weak := false }

theorem witness_AtomicsAtHome :
    let fits := fun (k : ReqKind) =>
      let r := reqAt 0x5FFC k
      let s := paged team 0
      let q := (s.stampFor 3 r.core (r.pa / 128) r.order r.clock).2.cohTouch (agentOf r.core) r.guest (r.mode == .fw)
        (r.pa / 128) r.kind.writes true
      decide (selector r.pa < 14 ∧ r.pa % 128 + r.size ≤ 128) && q.2 && !(q.1.cohPeek r.pa r.size).2
    ([.amo 0 .n32 1, .redu 6 .f32 1, .cas 0 1, .load, .ldp 0, .ldp 1] : List ReqKind).all fits = true := by decide

theorem witness_AccumulationOrder : ([(1, 2), (3, 4)] : List (Int × Int)).Perm [(3, 4), (1, 2)] := List.Perm.swap _ _ _

/-- The team with its crew changed. -/
def crewed (f : Crew → Crew) : State := team.modRun (fun r => { r with crews := [f (loadCrew 256)] })

/-- Scratchpad bytes that hold a number. -/
def bytesAt (a n v : Nat) : Sparse Byte := (placed a (toBytes n v)).filter (fun p => p.2 != 0)

theorem witness_MatrixForms :
    let fits := fun (s : State) (c : Crew) (o : Operand) (al n : Nat) => ((kindOf o = .s ∨ 16 < al) → s.spaOf o % al = 0) ∧
      s.spaOf o < c.kernel.scratch ∧ s.spaOf o + n ≤ c.kernel.scratch
    let f := fmtBlockOf 0x4181
    let sp : Operand := .spa 0
    let c0 := fun (s : State) => (s.crewOf 256).getD (loadCrew 0)
    (team.now.exec = team.now.live ∧ (team.crewOf 256).isSome = true) ∧
    (ready .chld (mk .i8 (S 2) (.chk 31) sp) team = true ∧ fits team (c0 team) sp 16 (16384 * fmtSize (fmtCode .i8)) ∧
      (c0 team).mmaQueued = false ∧ team.chuckLoading (c0 team) 31 = false) ∧
    (let s := crewed (fun c => { c with scratch := bytesAt 0 32 0x4181 });
      ready .mcb (mk .none (.acc 0) sp (.bar 95)) s = true ∧ (c0 s).chains = [] ∧ fits s (c0 s) sp 32 32 ∧
      fmtBlockOk ((c0 s).scratchAt 0 32) (c0 s).kernel.scratch = true ∧ 0 + f.nc ≤ (c0 s).kernel.acc ∧
      ∀ j, j < f.nc → s.tileBusy (c0 s) (0 + j) = false) ∧
    (let ch : Chain := ⟨0, f, 0, 0, [], 0, false⟩;
      let s := crewed (fun c => { c with chains := [ch], chucks := (List.range 32).map (fun i => (i, ⟨[], 1, 1, 0, []⟩)) });
      ready .mma (mk .none N sp N 1) s = true ∧ (c0 s).chains.find? (fun k => !k.closed) = some ch ∧ (ch.m + 1) * ch.fmt.kTotal ≤ 2 ^ 20 ∧
      (∀ q, q < 32 → s.chuckLoading (c0 s) q = false ∧ ((c0 s).chuck q).state = 1 ∧ ((c0 s).chuck q).fmt.toNat = ch.fmt.bfmt) ∧
      fits s (c0 s) sp 16 (64 * ch.fmt.kTotal * fmtSize ch.fmt.afmt) ∧ ch.fmt.ascale = 0 ∧ ch.fmt.bscale = 0 ∧
      sumN ((s.run.crews.filter (fun k => k.core == 0)).map (fun k => sumN (k.chains.map (fun h => h.queue.length)))) < 8 ∧
      ready .mce (mk .none N N N) s = true) ∧
    ready .morf (mk .none N N N) team = true ∧
    (ready .mclr (mk .none N (.acc 0) (.imm 16)) team = true ∧ (0 + 16 ≤ (c0 team).kernel.acc) ∧
      ∀ t ∈ List.range 16, (c0 team).openOn t = false ∧ team.tileBusy (c0 team) t = false) ∧
    (let v := 2 * 2 ^ 32 + 0x3F800000 * 2 ^ 64;
      let s := crewed (fun c => { c with scratch := bytesAt 0 32 v });
      let b := msmxBlock v true;
      ready .msmx (mk .none (.acc 0) sp (.bar 0) 1) s = true ∧ s.acqPending 256 = false ∧ fits s (c0 s) sp 32 32 ∧ (c0 s).scratchAt 0 32 = v ∧ msmxBad v true = false ∧
      b.otile < (c0 s).kernel.acc ∧ b.pdst + (63 * b.pitch + 128 * fmtSize b.pfmt) ≤ (c0 s).kernel.scratch ∧
      (c0 s).openOn 0 = false ∧ (c0 s).closingOn 0 = false ∧ s.drainOn (c0 s) 0 = false ∧
      ready .mscl (mk .none (.acc 0) N (.bar 0)) s = true) := by decide

theorem witness_DrainIssue :
    let ctl := 0x38 + 2 ^ 11 + 2 ^ 12 + 63 * 2 ^ 16 + 512 * 2 ^ 32
    let s := sreg (sreg team 6 0x8000) 7 ctl
    let c := loadCrew 256
    let d := drainCtl ctl
    ready .mdrn (mk .f32 (S 2) (.acc 15) (S 6 1) 6) s = true ∧ s.acqPending 256 = false ∧ s.now.exec = s.now.live ∧ s.crewOf 256 = some c ∧
    (s.now.getS 7).v.toNat = ctl ∧ drainBad .f32 false 0x8000 ctl = false ∧
    (d.scr = true ∧ 0x8000 + drainExtent .f32 false d.stride ≤ c.kernel.scratch) ∧
    (d.tagen = true ∧ d.tag < c.kernel.tags ∧ sget 0 c.tagCount d.tag < 64) ∧ c.openOn 15 = false ∧ s.tileBusy c 15 = false ∧
    (c.tile 15).shadow = none := by decide

theorem witness_AccumulatorMoves :
    let s := vec team 6 (fun l => 8191 - l)
    let c := loadCrew 256
    (∀ l, l < 32 → s.src .b32 (V 6) l < accSpace .f32) ∧ c.openOn 0 = false ∧ s.tileBusy c 0 = false ∧
    ready .ldacc (mk .f32 (V 2) (.acc 0) (V 6) 0 1) s = true ∧ ready .stacc (mk .b64 (V 2) (.acc 0) (V 6)) s = true := by decide

theorem witness_MatrixTraps :
    let s := team.modNow (fun t => { t with exec := 1 })
    let sp : Operand := .spa 0
    let opened := crewed (fun c => { c with chains := [⟨0, fmtBlockOf 0x4181, 0, 0, [], 0, false⟩] })
    s.now.exec ≠ s.now.live ∧
    ([(.chld, mk .i8 (S 2) (.chk 31) sp), (.mcb, mk .none (.acc 15) sp (.bar 95)), (.mma, mk .none N sp N), (.mce, mk .none N N N),
      (.mdrn, mk .f32 (S 2) (.acc 0) (S 6 1)), (.mclr, mk .none N (.acc 0) N), (.msmx, mk .none (.acc 0) sp (.bar 2)),
      (.mscl, mk .none (.acc 0) N (.bar 3)), (.chinv, mk .none N (.chk 0) N), (.morf, mk .none N N N)] : List (Op × Args)).all
      (fun p => ready p.1 p.2 s && !s.acqPending 256) = true ∧
    ready .mcb (mk .none (.acc 15) sp (.bar 95)) opened = true := by decide

theorem witness_CopyIssue :
    let c := loadCrew 256
    0x10000 - 64 + 64 ≤ c.kernel.scratch ∧ (sget [] team.run.engines (copyEngine 0)).length < 64 ∧ sget 0 c.tagCount 63 < 64 ∧
    ([.cpy, .cpyg, .cpys] : List Op).all (fun o => memReady o (mk .none (S 2) (.spa 0xFFC) (.tag 63)) team) = true := by decide

/-- The team, with what a completion window records for the handle 0. -/
def recorded (st : Option (Option Nat)) : State :=
  team.modWindow (handleParts 0).2.1 (fun _ => ⟨0, match st with | none => [] | some q => [(0, some ⟨0, 0, 0, q⟩)]⟩)

theorem witness_FutureForms :
    let x := mk .none (S 2) (S 4) N
    ([.await, .ftest, .fhnd] : List Op).all (fun o => ready o x (recorded none)) = true ∧
    ready .fcan (mk .none N (S 4) N) (recorded none) = true ∧ ready .ftest (mk .none (K 2) (S 4) N) (recorded none) = true ∧
    team.judge 0 .user 0x6000 = .bad ∧ (recorded none).judge 0 .user 0 = .expired ∧ (recorded (some none)).judge 0 .user 0 = .pending ∧
    (recorded (some (some 0xFFFD))).judge 0 .user 0 = .complete 0xFFFD ∧
    (ready .await x (recorded (some none)) = true ∧ ready .await x (recorded (some (some 1))) = true ∧ ready .await x (sreg team 4 0x6000) = true) := by decide

theorem witness_TagForms :
    let s := fun (a tags : Nat) => (crewed (fun c => { c with tagmap := BitVec.ofNat 64 tags })).modNow (fun t => t.putS 4 ⟨.full, BitVec.ofNat 64 a⟩)
    let x := mk .none (S 2) (S 4) N
    let top := 2 ^ 63
    ([s 0 0, s top top, s top 1] : List State).all (fun q => [Op.wany, .wall, .wffr].all (fun o => ready o x q)) = true ∧
    (s 0 0).tagsOf 0 = (0, 0) ∧ (s top top).tagsOf top = (top, top) ∧ (s top 1).tagsOf top = (top, 1) := by decide

theorem witness_BarrierForms :
    let s := fun (b r : Nat) => crewed (fun c => { c with scratch := bytesAt (c.kernel.barAt b) 16 r })
    let met := 2 ^ 32
    ready .binit (mk .none (.bar 95) (.imm 1) N) team = true ∧
    (ready .barv (mk .none (.bar 95) N N) (s 95 1) = true ∧ (s 95 1).now.sb = [] ∧ (s 95 1).now.uasc = 0 ∧ (s 95 1).earlierOut 256 (s 95 1).nextId = false) ∧
    (ready .bwait (mk .none (.bar 95) N N) (s 95 met) = true ∧
      barPhase ((s 95 met).barRecord (loadCrew 256) 95) ≠ barSeen ((s 95 met).barRecord (loadCrew 256) 95) team.now.place.team) ∧
    barPhase (team.barRecord (loadCrew 256) 95) = barSeen (team.barRecord (loadCrew 256) 95) team.now.place.team ∧
    ready .barw (mk .none (.bar 0) N N) team = true ∧ ready .bqry (mk .none (S 2) (.bar 95) (.imm 1)) team = true := by decide

theorem witness_ScopedCaches : (191 < 192 ∧ 1 ≤ 2) ∧ nothingDirty (paged team 0) 0 := by
  refine ⟨by decide, Or.inr ⟨by decide, by decide⟩⟩

/-- A state whose virtual page 0 has a leaf, with a word for the POOL page 0 it may map. -/
def mapped (s : State) (leaf own : Nat) : State :=
  (((paged s 0).pokeNat 0x4000 8 leaf).modPkg (fun p => { p with sys := { p.sys with poolmeta := 0x6000, winpages := 16 } })).pokeNat 0x6000 8 own

/-- The host thread with queue 0 described: its words at 0x6800, its ring at 0x6900. -/
def queued (s : State) (v head tail : Nat) : State :=
  ((paged s 0).modPkg (fun p => { p with sys := { p.sys with lqt := 0x6800 } })).pokeNat 0x6800 32
    (v + 2 ^ 8 + 0x6900 * 2 ^ 64 + head * 2 ^ 192 + tail * 2 ^ 224)

/-- What `checkAll` finds, tested. -/
def checked (s : State) (w : Want) (ls : List (Nat × Nat)) (p : List LaneRef → State → Bool := fun _ _ => true) : Bool :=
  match s.checkAll w ls with
  | .ok refs t => p refs t
  | .out _ => false

theorem witness_LaunchForms :
    let x := mk .none (S 2) (S 4) (S 6)
    let w : Want := ⟨0, 64, .load, true, false, .read⟩
    let h := thread .user
    let early := fun (s : State) => s.modNow (fun t => { t with place := { t.place with acqDone := false } })
    let wide : Kernel := { loadKernel with width := 1024, pvreg := 0 }
    (ready .lnch x (queued h 1 0 2) = true ∧
      checked (queued h 0 0 0).unwait w [(0, 0)] (fun _ t => t.lqField 0 0 1 == 0) = true ∧
      checked (queued h 1 0 2).unwait w [(0, 0)] (fun _ t => t.lqField 0 0 1 != 0 && t.lqFull 0) = true ∧
      checked (queued h 1 0 1).unwait w [(0, 0)] (fun refs t =>
        let pa := (refs.map LaneRef.pa).headD 0
        let r0 := t.weakRead (coreOf 0) 0 false false false false false pa 32
        let r1 := r0.2.2.weakRead (coreOf 0) 0 false false false false false (pa + 32) 32
        t.lqField 0 0 1 != 0 && !t.lqFull 0 && decide (t.lqGuest 0 = 0) && r1.2.2.rejCount == t.rejCount) = true ∧
      (queued h 1 0 1).now.sb = [] ∧ (queued h 1 0 1).earlierOut 0 (queued h 1 0 1).nextId = false ∧
      (queued h 1 0 1).backWaits (coreOf 0) (fun _ => true) = false) ∧
    (ready .acq (mk .none N N N) team = true ∧ team.now.place.acqDone = true) ∧
    (ready .acq (mk .none N N N) (early team) = true ∧ (early team).now.place.acqDone = false ∧ (loadCrew 256).unreserved = false) ∧
    (let s := early (crewed (fun c => { c with unreserved := true }));
      ready .acq (mk .none N N N) s = true ∧ (s.core 0).acqs = [] ∧
      ∀ p, p < 4 → (loadCrew 256).kernel.needOn 0 p ≤ freeUnits (s.crewsOn 0 []) p) ∧
    (let s := early (crewed (fun c => { c with unreserved := true, kernel := wide }));
      ready .acq (mk .none N N N) s = true ∧ freeUnits (s.crewsOn 0 []) 0 < wide.needOn 0 0) ∧
    (ready .park (mk .none N N N) team = true ∧ (loadCrew 256).draining = false ∧ (loadCrew 256).raised = none) ∧
    (let s := crewed (fun c => { c with raised := some 0 }); ready .park (mk .none N N N) s = true ∧ (s.crewOf 256).any (fun c => c.raised.isSome) = true) ∧
    (let y := mk .none N (S 4) (S 6); memReady .wake y (paged team 0) = true ∧
      checked (paged team 0).unwait ⟨0, 8, .store, false, true, .plainStore⟩ [(0, (paged team 0).addrOf .wake { y with b := .none } 8 0)] = true ∧
      (paged team 0).now.sb = []) := by decide

/-- What the translation of address 0 of the running hart gives, tested. -/
def walked (s : State) (acc : AccessKind) (write : Bool) (p : Trans → Nat → State → Bool) : Bool :=
  match s.unwait.translate (s.unwait.xctx s.cur) 0 acc write with
  | (.ok t pa, s2) => p t pa s2 && (s2.rejected pa (agentOf (coreOf s.cur)) s2.now.guest (s2.now.mode == .fw)).isNone
  | _ => false

/-- The host thread with the translation of address 0 to another package's memory in its translation cache. -/
def peerPage : State :=
  let s := (mapped (thread .host) (3 * 2 ^ 48 + 2 ^ 39 + 0xDF) 0).modPkg (fun p => { p with packages := 2, routes := [0, 0] })
  match s.walk (s.xctx 0) 0 with
  | .found t _ _ => s.install (coreOf 0) t
  | _ => s

theorem witness_PlacementForms :
    let leaf := loadFrame + 0xDF
    let pool := 2 ^ 50 + 0xDF
    let x := mk .none (S 2) (S 4) N
    let h := thread .host
    let f := loadFrame / 4096
    let pinned := fun (n : Nat) => (mapped h leaf 0).modFrame f (fun q => { q with pin := n })
    let page := fun (t : Trans) (pa : Nat) => (t.pcls == 0 || t.pcls == 3) && decide (selector pa < 14)
    ([.pin, .unpin, .migr, .ownrRequest, .ownrRelease] : List Op).all (fun o => ready o (if o == .ownrRelease then { x with sub := 1 } else x) (mapped h leaf 0)) = true ∧
    ready .hint (mk .none N (S 4) N 4) (mapped h leaf 0) = true ∧
    ([0, 254, 255] : List Nat).all (fun n => walked (pinned n) .load false (fun t pa s2 => page t pa && (s2.pinDenied t).isNone &&
      (s2.gainPage t pa 0).1.isNone && (s2.frame f).mstate == 0 && (s2.frame f).pin == n)) = true ∧
    walked (mapped h (leaf + 0x400) 0) .load false (fun t pa _ => !page t pa) = true ∧
    walked (mapped (thread .user) leaf 0) .load false (fun t _ s2 => s2.pinDenied t == some 0) = true ∧
    (mapped h leaf 0).hub.migQueue.length < migQueueLen ∧
    walked (mapped h leaf 0) .store true (fun _ pa _ => tierOf pa != 2) = true ∧
    walked (mapped h pool (2 ^ 14)) .store true (fun _ pa s2 => tierOf pa == 2 && ownKeep (s2.ownWord (poolPage pa))) = true ∧
    walked (mapped h pool 0x40) .store true (fun _ pa s2 => tierOf pa == 2 && !ownKeep (s2.ownWord (poolPage pa)) && s2.owns (poolPage pa) &&
      (s2.frame (s2.pageOf (pa / 4096)).1).pin == 0) = true ∧
    walked ((mapped h pool 0x40).modFrame (2 ^ 38) (fun q => { q with pin := 1 })) .store true (fun _ pa s2 =>
      (s2.frame (s2.pageOf (pa / 4096)).1).pin == 1) = true ∧
    walked (mapped h pool 0) .store true (fun _ pa s2 => !s2.owns (poolPage pa) && (s2.ownStep (poolPage pa)).1) = true ∧
    walked (mapped h pool 0x41) .store true (fun _ pa s2 => !s2.owns (poolPage pa) && !(s2.ownStep (poolPage pa)).1) = true := by decide

theorem witness_CacheMaintenance :
    let h := thread .host
    let page := mk .none N (S 4) (.imm 63) 0 4
    (ready .tlbi page h = true ∧ h.now.tlbiCheck page = none ∧ h.now.sb = [] ∧ h.now.uasc = 0 ∧
      h.backWaits (coreOf 0) (fun _ => true) = false ∧ h.inFlight (coreOf 0) 4 [] = false ∧ h.mem.tlbs = []) ∧
    (let x := mk .none N (S 4) N 0 4; checkArgs .tlbi x = none ∧ 1 ≤ modeRank h.now.mode ∧ h.now.tlbiCheck x = some 7) ∧
    (let x := mk .none N N N 2 4; checkArgs .tlbi x = none ∧ (thread .guest).now.tlbiCheck x = none) ∧
    ready .iflush (mk .none N N N 0 4) team = true := by decide

theorem witness_CounterForms :
    let sel := fun (h : State) (n : Nat) => sreg h 4 n
    let x := mk .none (S 2) (S 4) N
    let y := mk .none (S 2) (S 4) (S 6)
    let may := fun (m : Mode) (n : Nat) (write : Bool) =>
      decide (n < 2 ^ 18) && (match cntRank (bits n 0 12) write with | some r => decide (r ≤ modeRank m) | none => false)
    let owned := fun (s : State) (c : Nat) => s.modCore (coreOf 0) (fun q => { q with pmc := [(7, ⟨0, BitVec.ofNat 64 c, 1⟩)] })
    ([0, 7, 8, 15, 0x10, 0x14, 0x20, 0x29, 0x40, 0x49, 0x50, 0x53] : List Nat).all (fun n =>
      ready .cntr x (sel (thread .host) n) && may .host n false) = true ∧
    ([0, 7, 8, 15, 0x10, 0x14, 0x20, 0x40, 0x50] : List Nat).all (fun n => ready .cntc y (sel (thread .host) n) && may .host n true) = true ∧
    (ready .cntr x (sel (owned (thread .user) 1) 7) = true ∧ may .user 7 false = true ∧
      ((owned (thread .user) 1).core (coreOf 0)).pmcAt 7 = ⟨0, 1, 1⟩ ∧ (owned (thread .user) 1).now.guest = 0) ∧
    (cntRank 0x54 false = none ∧ cntRank 0xFFF true = none) ∧ (∃ m, cntRank 0x50 true = some m ∧ modeRank Mode.user < m) ∧
    ready .cntc y (sel team 0x14) = true ∧ (may .user 0x14 true = true ∧ (team.crewOf 256).isSome = true) ∧
    (let s := paged (thread .host) 0; ready .pgcnt x s = true ∧ s.unwait.parkedAt (s.unwait.xctx 0) 0 = none ∧
      walked s .load false (fun _ pa _ => selector pa != 3) = true) ∧
    (let s := fun leaf => (mapped (thread .host) (leaf + 10 * 2 ^ 60) 0).unwait;
      (s 0xDE).parkedAt ((s 0xDE).xctx 0) 0 = some none ∧ (s 0xD8).parkedAt ((s 0xD8).xctx 0) 0 = some (some 0) ∧
      walked peerPage .load false (fun _ pa _ => selector pa == 3 && bits pa 39 6 != 0) = true) ∧
    (ready .tstp x team = true ∧ ready .tstp (mk .none (S 2) N N) team = true ∧ team.unwritten 256 = false) := by
  refine ⟨by decide, by decide, by decide, by decide, ⟨2, by decide, by decide⟩, by decide, by decide, by decide, by decide, by decide⟩

theorem witness_SaveForms :
    let x := mk .none N (S 4) N
    let reached := fun (s : State) (o : Op) (n : Nat) => memReady o x s && (match s.unwait.recRange 0 n true with
      | .ok (l, s2) => l.all (fun b => (s2.cursorMig b.pa).isNone && s2.routeOpen 0 b.pa) && !s2.storesDue 0 n l &&
        !s2.backWaits 0 (fun a => l.any (fun b => b.pa / 128 == a / 128))
      | .error _ => false)
    let s := paged team 0
    let none_ := (paged (crewed (fun c => { c with kernel := { c.kernel with acc := 0, chucks := 0 } })) 0)
    let e : SEntry := ⟨false, 0, 1⟩
    ([.svsb, .svss, .svacc, .svchk, .ldsb, .ldss, .ldacr, .ldchk] : List Op).all (fun o => memReady o x (sreg s 4 32)) = true ∧
    reached s .svsb 64 = true ∧ reached (s.modNow (fun t => { t with stack := [e] })) .svss (64 + entrySize 32) = true ∧
    (reached none_ .svacc 64 = true ∧ (none_.kernelOf 256).acc = 0) ∧ (reached none_ .svchk 64 = true ∧ (none_.kernelOf 256).chucks = 0) := by decide

/-- The team with a record at address 0: its header, and what follows. -/
def recorded64 (s : State) (hd body : Nat) : State := ((paged s 0).pokeNat loadFrame 16 hd).pokeNat (loadFrame + 64) 64 body

theorem witness_RestoreForms :
    let x := mk .none N (S 4) N
    let hd := fun (kind n : Nat) => kind + 2 ^ 8 + 32 * 2 ^ 16 + n * 2 ^ 32
    let took := fun (s : State) (o : Op) (kind n : Nat) => memReady o x s && (match recordRead kind s 0 with
      | some (_, h, _, _, _) => h == hd kind n
      | none => false)
    let refused := fun (s : State) (p : Nat → Bool) => match s.unwait.recRange 0 64 false with
      | .ok (hl, s2) => !s2.recBusy hl && (s2.recRead 0 hl).2.2.1.isNone && p (ofBytes (s2.recRead 0 hl).1)
      | .error _ => false
    took (recorded64 team (hd 1 0) 0) .ldsb 1 0 = true ∧
    (took (recorded64 (stacked []) (hd 2 1) 0) .ldss 2 1 = true ∧ 1 ≤ (stacked []).now.place.sslimit) ∧
    took (recorded64 team (hd 3 0) 0) .ldacr 3 0 = true ∧ took (recorded64 team (hd 4 0) 0) .ldchk 4 0 = true ∧
    refused (recorded64 team (hd 3 0) 0) (fun h => bits h 0 8 != 2) = true ∧
    refused (recorded64 team (2 + 2 ^ 8 + 64 * 2 ^ 16) 0) (fun h => bits h 0 8 == 2 && bits h 8 8 == 1 && bits h 16 16 != 32) = true ∧
    refused (recorded64 team (hd 3 17) 0) (fun h => bits h 0 8 == 3 && bits h 8 8 == 1 && decide (16 < bits h 32 16)) = true := by decide

/-- What the reads of the descriptors give, tested: a walk of `State.kvDescs` along its arm that goes on. -/
def kvServed (s : State) (order : Nat) (ls : List (Nat × Nat)) (p : List (Nat × Nat × Bool) → State → Bool) : Bool :=
  let kd := (s.readSr s.cur 0x050).toNat
  if kvdirBad kd then p [] s
  else
    match s.checkAll ⟨0, 64, .load, true, false, .read⟩ ((ls.filter (fun q => decide (q.2 < 2 ^ bits kd 1 5))).map (fun q => (q.1, kvDescAt kd q.2))) with
    | .out _ => false
    | .ok refs s1 => !s1.strongWaits refs order 3 && (s1.kvReads refs 64).2.1.isEmpty && p (s1.kvReads refs 64).1 (s1.kvReads refs 64).2.2.2

theorem kvServed_gives (s : State) (order : Nat) (ls : List (Nat × Nat)) (p : List (Nat × Nat × Bool) → State → Bool)
    (h : kvServed s order ls p = true) : ∃ vs ts s2, (∀ f, s.kvDescs order ls f = f vs ts s2) ∧ p vs s2 = true := by
  unfold kvServed at h
  unfold State.kvDescs
  dsimp only at h ⊢
  split at h
  · next hb => exact ⟨[], 0, s, fun f => by rw [if_pos hb], h⟩
  · next hb =>
    split at h
    · cases h
    · next refs s1 hc =>
      rw [Bool.and_eq_true, Bool.and_eq_true] at h
      obtain ⟨⟨hw, he⟩, hp⟩ := h
      refine ⟨(s1.kvReads refs 64).1, (s1.kvReads refs 64).2.2.1, (s1.kvReads refs 64).2.2.2, fun f => ?_, hp⟩
      rw [if_neg hb]
      try rw [hc]
      simp only [Bool.not_eq_true'] at hw
      simp only [hw, he, Bool.not_true, Bool.false_eq_true, if_false]

/-- The team with a directory of one sequence, its descriptor at address 0 and one entry at 0x800. -/
def kvState (entry : Nat) : State :=
  (((paged team 0).modHub (fun u => { u with kvdir := [(0, 1)] })).pokeNat loadFrame 64 (1 + 2 ^ 32 + 0x800 * 2 ^ 64 + 2 ^ 128)).pokeNat
    (loadFrame + 0x800) 8 entry

theorem witness_KvForms :
    let x := mk .none (S 2) (S 4 1) N
    let y := mk .none (S 2) (S 4 1) (S 6 1)
    let z := mk .none (V 2) (V 10) (K 3)
    let s := kvState 0
    let fine := fun (vs : List (Nat × Nat × Bool)) => kvReason 1 0 none (some 0) (vs.head?.map Prod.snd) == none
    let entry := fun (w : Want) (order : Nat) (q : LaneRef → State → Bool) (vs : List (Nat × Nat × Bool)) (s2 : State) => fine vs &&
      checked s2 w (s2.allOf 0x800) (fun refs s3 => match refs with | r :: _ => !s3.strongWaits [r] order 3 && q r s3 | [] => false)
    (memReady .kvr x (paged team 0) = true ∧ kvServed (paged team 0).unwait 1 (s.allOf 0) (fun vs _ =>
      kvReason 0 0 none (some 0) (vs.head?.map Prod.snd) == some 1) = true) ∧
    memReady .kvr x s = true ∧
    kvServed { s with mem := { s.mem with marks := [loadFrame / 32] } }.unwait 1 (s.allOf 0) (fun vs _ => fine vs && vs.head?.map (fun p => p.2.2) == some true) = true ∧
    kvServed s.unwait 1 (s.allOf 0) (entry ⟨0, 8, .load, true, false, .read⟩ 1 (fun r s3 => (s3.kvRead r 8).2.2.1)) = true ∧
    memReady .kvw y s = true ∧
    kvServed { s with mem := { s.mem with marks := [loadFrame / 32] } }.unwait 3 (s.allOf 0) (fun vs _ => fine vs && vs.head?.map (fun p => p.2.2) == some true) = true ∧
    (memReady .kvw y (sreg s 7 8) = true ∧ kvServed (sreg { s with mem := { s.mem with marks := [loadFrame / 32] } } 7 8).unwait 3 (s.allOf 0)
      (fun vs _ => fine vs && vs.head?.map (fun p => p.2.2) == some true) = true) ∧
    kvServed s.unwait 3 (s.allOf 0) (entry ⟨0, 8, .atomic, true, true, .atomic⟩ 3 (fun r s3 => (s3.cursorMig r.pa).isNone &&
      (((s3.release 1 3).preStrong 1 3 (r.pa / 128)).atPoint s.cur 1 0 .user 3 r.pa 8 true (fun _ => some 0)).ok)) = true ∧
    (memReady .kvx { z with g := 1 } (kreg s 1 0) = true ∧ memberLanes (kreg s 1 0) { z with g := 1 } = []) ∧
    (memReady .kvx z s = true ∧ memberLanes s z ≠ []) ∧
    kvServed s.unwait 1 [(0, 0)] (fun vs s2 => kvReason 1 0 (some 0) (some 0) (vs.head?.map Prod.snd) == none &&
      checked s2 ⟨0, 8, .load, true, false, .read⟩ [(0, 0x800)] (fun refs s3 => !s3.strongWaits refs 1 3 &&
        (s3.kvReads refs 8).2.1.isEmpty && (s3.kvReads refs 8).1 == [(0, 0, false)] && !kvEntryBad 0 0)) = true := by decide

/-! ### Witnesses: steps of the hardware -/

/-- The state a step leaves. -/
def next (o : Out) : State := (after o id).getD State.reset

/-- An asynchronous operation of the crew of the team, under way. -/
def opOf (kind : AKind) (cancelled : Bool := false) (status : Option Nat := none) : AOp :=
  ⟨1, kind, 0x1000, 256, some 2, 1, 0, 0, .user, 0, 0, none, 0, 0, 0, cancelled, false, status, 0, none⟩

/-- The team, with one such operation under way. -/
def under (o : AOp) (f : Crew → Crew := id) : State :=
  (crewed f).modRun (fun r => { r with ops := [o], engines := [(0, [1])] })

theorem witness_MemoryEvents :
    let s := paged team 0
    let loaded := next (exec (.ld (mk .b32 (V 2) (S 4) (.imm 0))) s)
    let scalar := next (exec (.ld (mk .b32 (S 2) (S 4) (.imm 0))) s)
    let held := fun (released : Bool) => { reqAt 0x5000 (.ldp 0) with parked := true, released := released }
    let ldp := fun (released : Bool) => { s with mem := { s.mem with reqs := [held released] }, cycles := 4096 }
    let u := (paged (stacked []) 0).modNow (fun t => { t with spilled := 1 })
    loaded.mem.loads.any (fun l => l.sectors.any (fun q => loaded.sectorReady l q && selector (32 * q.addr) != 14 &&
      loaded.mem.loads.find? (fun k => k.id == l.id) == some l && l.sectors.find? (fun k => k.addr == q.addr) == some q)) = true ∧
    (next (exec (.frcp (mk .f32 (V 2) (V 4) N)) s)).mem.replies.any (fun r => !r.dem && r.counts.isNone) = true ∧
    scalar.mem.loads.any (fun l => scalar.scalarReady l && scalar.mem.replies.isEmpty) = true ∧
    (next (exec (.kvx (mk .none (V 2) (V 10) (K 3))) (kvState 0))).hub.kvx.length = 1 ∧
    (ldp true).mem.reqs.find? (fun k => k.id == 0 && k.kind.isLdp && k.parked && k.released) = some (held true) ∧
    (ldp false).mem.reqs.find? (fun k => k.id == 0 && k.kind.isLdp && k.parked && k.since + 4096 ≤ (ldp false).cycles.toNat) = some (held false) ∧
    (let rep : Reply := ⟨0, 256, [], 0, 0, 1, 4, none, 7, true, true, false, none⟩
      let t := (s.modNow (fun t => { t with sched := { t.sched with demote := some [7] } })).modMem (fun m => { m with replies := [rep] })
      (match (t.replied rep).settleDemotion 256 7 true with | .ok v => (v.hart 256).sched.demote == none | .error _ => false) = true) ∧
    (let a : Ack := ⟨0, 257, 0, 0, 0, 2, 4, some (256, 7, true)⟩
      let t := s.modMem (fun m => { m with acks := [a] })
      (match (t.acked a).settleDemotion 256 7 true with | .ok _ => true | .error _ => false) = true) ∧
    (u.hart 256).spilled = 1 ∧ (u.hart 256).stack.length < 16 ∧ (match u.refill 256 with | .ok _ => true | .error _ => false) = true ∧
    s.mem.bound = [] ∧ s.cursorMig 0 = none ∧ s.routeOpen 0 0 = true ∧ selector 0x5000 ≠ 14 := by decide

theorem witness_EngineEvents :
    let f := fmtBlockOf 0x4181
    let chain := fun (q : List QMma) (closed : Bool) => crewed (fun c => { c with chains := [⟨0, f, 0, 0, q, 0, closed⟩] })
    let ctl := 0x38 + 2 ^ 11 + 2 ^ 12 + 63 * 2 ^ 16 + 512 * 2 ^ 32
    let dr := fun c => opOf (.drain 15 .f32 false false false false 0 1 0x8000 ctl) c
    let sm := [opOf (.mscl 0 0), opOf (.msmx 0 0 (msmxBlock (2 * 2 ^ 32 + 0x3F800000 * 2 ^ 64) false))]
    let cmd : Bool → CopyCmd := fun bad => ⟨0, 0, 64, 4, 1, 1, 0, 0, 0, 0, 4, true, true, 0, 0, 0, false, 0, bad⟩
    let far : CopyCmd := { cmd false with ssp := false, src := 2 ^ 30 }
    let cp := fun bad c => opOf (.copy 0 (cmd bad)) c
    let copied := fun (c : CopyCmd) => State.copyFrom (opOf (.copy 0 c)) (engineAgent 0) loadKernel c 4 0 none 0 (under (opOf (.copy 0 c)))
    let keep := ((paged team 3).modFrame 5 (fun q => { q with ptea := 0x4000 })).pokeNat 0x7000 8 (1 + 3 * 2 ^ 5)
    let up : Update := ⟨0, 0, 1, false, 0, 7, 0x1001, [], 0⟩
    let rec_ : OutRec := ⟨up, 0, [2], [2], 0⟩
    let kr := { reqAt 0x5000 (.krec 1 .i64 0 5 0) with parked := true, keep := true }
    ((chain [⟨0, 0, false, []⟩] false).crew? 1).any (fun c => c.chains.any (fun k => !k.queue.isEmpty)) = true ∧
    ((chain [] true).crew? 1).any (fun c => c.chains.any (fun k => k.closed && k.queue.isEmpty)) = true ∧
    ([dr false, dr true].all (fun o => (under o).op? 1 == some o && (under o).opReleased o && (drainCtl ctl).scr) = true ∧
      (match ((under (dr false)).drainOut (dr false) Tile.init .f32 false false (envOf 1 0) 0x8000 (drainCtl ctl)).2.1 with
        | .ok _ _ => true | _ => false) = true) ∧
    sm.all (fun o => (under o).firstSoftmax 1 == some o) = true ∧ (msmxBlock (2 * 2 ^ 32 + 0x3F800000 * 2 ^ 64) false).score = false ∧
    ([cp false false, cp true false, cp false true, opOf (.copy 0 far)].all (fun o => (under o).opReleased o &&
      ((sget [] (under o).run.engines 0).findSome? (fun id => ((under o).op? id).filter (fun o => o.status.isNone)) == some o)) = true ∧
      (match copied (cmd false) with | .done _ _ => true | _ => false) = true ∧ (match copied far with | .fail _ _ _ _ => true | _ => false) = true) ∧
    (msmxBlock (2 * 2 ^ 32 + 0x3F800000 * 2 ^ 64) true).score = true ∧
    ((under (opOf (.finished 0) false (some 0))).op? 1 = some (opOf (.finished 0) false (some 0)) ∧
      ∀ p ∈ (under (opOf (.finished 0) false (some 0))).run.engines, p.2.head? = some 1) ∧
    (let t := team.modRun (fun r => { r with crews := [], pending := [(9, 5, 0)] });
      t.op? 9 = none ∧ t.run.pending.find? (fun p => p.1 == 9) = some (9, 5, 0) ∧ ∀ c ∈ t.run.crews, c.launch ≠ 9) ∧
    keep.linkFree (portOut (keep.portOf 2)) = true ∧
    ((keep.setOutQueue 0 [rec_]).badRange ((keep.setOutQueue 0 [rec_]).region 0 160 52) 64 = false ∧
      ((keep.setOutQueue 0 [rec_]).modMem (fun m => { m with marks := [0] })).badRange 0 64 = true) ∧
    (keep.cellPa 0 0 = some 0x5000 ∧ (keep.cellView 0x5000).vec.covers 0x1000 = true ∧ keep.heldFor 0 1 0 = false ∧
      (keep.applyUpdate up).isSome = true ∧ (keep.applyUpdate { up with cell := 512 }).isSome = false ∧ keep.holdFull 0 = false) ∧
    (keep.hub.stalled = [] ∧ (keep.hold 0 512 (.update { up with cell := 512 })).holdFull 0 = true ∧
      ((keep.hold 0 512 (.update { up with cell := 512 })).applyUpdate { up with cell := 513 }).isSome = false) ∧
    (let parked := mapped team (0xDE + 10 * 2 ^ 60) 0
      let waits := fun (e : Elem) => match e with | .wait none _ => true | _ => false
      let near : CopyCmd := { cmd false with ssp := false }
      (match State.copyFrom (opOf (.copy 0 near)) (engineAgent 0) loadKernel near 4 0 none 0 parked with | .wait none _ => true | _ => false) = true ∧
      waits (parked.drainOut (dr false) Tile.init .f32 false false (envOf 1 0) 0 (drainCtl (512 * 2 ^ 32))).2.1 = true ∧
      waits (parked.msmxTable (opOf (.finished 0)) (loadCrew 256) 0 (msmxBlock (2 * 2 ^ 32 + 0x3F800000 * 2 ^ 64) true)).1 = true) ∧
    (({ keep with mem := { keep.mem with reqs := [kr] } }.performHome { kr with parked := false }).isSome = true ∧ keep.cursorMig 0x5000 = none) := by decide

/-- A migration of frame 5 to frame 9. -/
def migOf (st : MState) : Mig := ⟨7, ⟨0, 0x1000, none, none, 0, none, none, 0, 0⟩, 0, 0, 1, 5, 9, 0x4000, 0, st, [], 0, []⟩

/-- The host thread with that migration under way. -/
def migrating (st : MState) : State := (paged (thread .host) 0).modHub (fun u => { u with migs := [migOf st] })

theorem witness_HomeEvents :
    let s := paged team 0
    let req := fun k => { s with mem := { s.mem with reqs := [reqAt 0x5000 k] } }
    let unit : Nat → Nat → Nat → DirEntry := fun st base guest => ⟨st, 0, [1], 1, guest, base, 0⟩
    let homed := fun (l : List DirEntry) => { s.modHome 0 (fun h => { h with dir := l, merge := true }) with cycles := 2000 }
    let quiet := fun (e : DirEntry) => 2 ^ (s.home 0).mquiet < ((2000 : Word).toNat % 2 ^ 42 + 2 ^ 42 - e.last * 1024) % 2 ^ 42
    let own := fun (w : Nat) => (mapped (thread .host) (2 ^ 50 + 0xDF) w)
    ((reqAt 0x5000 .load).kind.writes = false ∧ (req .load).windowHolds 0 = false ∧
      (req .load).reachable 0 3 0x5000 false = true ∧
      (req .load).backWaits 0 (fun a => a / 128 == 0x5000 / 128) = false ∧
      (req .load).laneAhead (reqAt 0x5000 .load) (!(req .load).wouldHold (reqAt 0x5000 .load)) = false ∧ ((req .load).performHome (reqAt 0x5000 .load)).isSome = true) ∧
    ({ (migrating .moving) with mem := (req (.amo 0 .n32 1)).mem }.cursorMig 0x5000 = some (migOf .moving) ∧ (reqAt 0x5000 (.amo 0 .n32 1)).kind.writes = true) ∧
    (homeOf 0x5000 = some 0 ∧ s.cursorMig 0x5000 = none) ∧
    ([[unit 1 0 0, unit 1 1 0], [unit 2 0 0, unit 3 1 0], [unit 0 0 0, unit 1 1 0]].all (fun l => decide (l.all (fun e => decide (quiet e)) = true) &&
      (homed l).mem.homes.length == 1) = true) ∧
    ((unit 3 160 0).covers (0x5000 / 128) = true ∧ (unit 3 160 0).owner = 1) ∧
    (0x5000 / 32 ∉ s.mem.marks ∧ 0x5000 < 2 ^ 52) ∧
    ((own 0x40).ownWord 0 = 0x40 ∧ ownState 0x40 = 1 ∧ ownOwner 0x40 = 0 ∧ (own 0x40).mayGrant 0 = false ∧
      { own 0x40 with cycles := 4096 }.mayGrant 0 = true ∧ (own 0x40).owns 0 = true ∧ ¬ ownState ((own 0).ownWord 0) = 1 ∧
      (own 0x40).hub.ownWait = []) ∧
    (s.pkg.pkg < 64 ∧ (own 0x40).ownWord 0 = (0x40 : Word).toNat ∧ (own 0x40).pkg.sys.metapkg = (own 0x40).pkg.pkg ∧
      (List.range 8).all (fun i => !(own 0x40).homeFailed ((own 0x40).pkg.sys.poolmeta + i)) = true ∧ (own 0x40).hub.changing = []) ∧
    (((own 0x40).modFrame (2 ^ 38) (fun q => { q with pin := 1 })).frame (((own 0x40).modFrame (2 ^ 38) (fun q => { q with pin := 1 })).pageOf
      (poolAddr 0 / 4096)).1).pin = 1 ∧
    (let m := (own 0x40).modPkg (fun p => { p with sys := { p.sys with metapkg := 1 } });
      m.pkg.sys.metapkg ≠ m.pkg.pkg ∧ (m.setOwn 0 0x180).2.hub.changing.map OwnChange.new = [0x180]) ∧
    (s.unshot 0 = [] ∧ homesOn 0 = [0] ∧ (s.modHome 0 (fun h => { h with failed := true })).unshot 0 = [0]) := by decide

/-- The team with its teams told to go, and with its crew gone. -/
def told : State := team.modNow (fun t => { t with sched := { t.sched with preempt := some true } })
def gone (d : Bool) : State := (crewed (fun c => { c with draining := d })).modNow (fun t => { t with live := 0 })

/-- A machine whose memory is a list of bytes: queue 0 is described at 0x6800, its one record names the RCB at address 0, which begins
with a byte. -/
def ring (st : Byte) : State :=
  let tables : List Host.Cell := [(0, 1), (1, 0x10), (0x1000, 1), (0x1001, 0x20), (0x2000, 1), (0x2001, 0x30), (0x3000, 1), (0x3001, 0x40),
    (0x4000, 0xDF), (0x4001, 0x50)]
  let queue : List Host.Cell := [(0x6800, 1), (0x6801, 1), (0x6809, 0x69), (0x681C, 1)]
  ((thread .host).modMem (fun m => { m with cells := tables ++ (if st = 0 then [] else [(0x5000, st)]) ++ queue })).modPkg (fun p =>
    { p with sys := { p.sys with lqt := 0x6800 } })

/-- The values of an RCB, and a launch of one crew in a width. -/
def launchEff : Eff :=
  ⟨1, 1, 192, 16, 32, 96, 64, 65536, 0x10000, 0, 0, 0, 0, 0, 0, 0, 0, false, 0, 32, 0, false, [], []⟩
def launchOf (width : Nat) (first : Bool) : Launch :=
  ⟨2, 0, 0, 0, 0, 0, 0x5000, 1, 1, 1, false, false, false, false, 0, some launchEff, some { loadKernel with width := width }, [], 0, [], 0,
    first, [], 0, false, 0, 0, 0, 0, 0, 0, [], []⟩

/-- The machine with that launch in slot 0, its RCB in READY, some crews and one distributor thread. -/
def launched (q : Launch) (cs : List Crew) (cy : Nat) : State :=
  { ((team.modRun (fun r => { r with launches := [q], crews := cs, slots := [(0, 1)], distThreads := [0] })).modMem (fun m =>
    { m with cells := [(0x5000, 2)] })) with
    cycles := BitVec.ofNat 64 cy }

theorem witness_CrewEvents :
    let acq := (crewed (fun c => { c with unreserved := true })).modCore 0 (fun c => { c with acqs := [256] })
    ((told.hart 256).alive = true ∧ (told.crewOf 256).isSome = true ∧ (told.hart 256).trap.tstatus.getLsbD 2 = false ∧
      (loadCrew 256).raised = none ∧ (loadCrew 256).draining = false) ∧ (0 + graceCycles ≤ (2 ^ 40 : Word).toNat) ∧
    { told with cycles := 2 ^ 40 }.overran { loadCrew 256 with raised := some 0 } = true ∧ (gone false).overran (loadCrew 256) = false ∧
    (gone true).run.launches = [] ∧
    (((gone false).hart 256).alive = false ∧ ((gone true).crewOf 256).any (fun c => (gone true).settledCrew c) = true) ∧
    ((ring 1).quiesced = false ∧ ((ring 1).lqHead 0).isSome = true ∧ (match (ring 1).startOf 0 with | .go _ _ => true | _ => false) = true ∧
      (match (ring 3).startOf 0 with | .no => true | _ => false) = true ∧ (match (ring 0).startOf 0 with | .unfit => true | _ => false) = true) ∧
    (sget 0 (ring 1).trimSlots.run.slots 0 = 0 ∧ (ring 1).trimSlots.pendingQueue 0 = true ∧ (ring 1).trimSlots.bound 0 = false) ∧
    (acq.canReserve (loadCrew 256) = true ∧ (acq.core 0).acqs = [256]) := by decide

theorem leastBy_isSome {α : Type} (f : α → Nat) (l : List α) (h : l ≠ []) : (leastBy f l).isSome = true := by
  cases l with
  | nil => exact absurd rfl h
  | cons a r => unfold leastBy; repeat' split <;> try rfl

theorem nextQueue_isSome (s : State) (h : s.pendingQueue 0 = true) (g : s.bound 0 = false) : s.nextQueue.isSome = true := by
  refine leastBy_isSome _ _ (List.ne_nil_of_mem (a := 0) ?_)
  simp [h, g]

theorem witness_CrewEvents_placement :
    ((launched (launchOf 32 true) [] 0).serveNext = some (launchOf 32 true, some 0) ∧ (launchOf 32 true).nextCrew = some (0, none) ∧
      ((launched (launchOf 32 true) [] 0).placeGate (launchOf 32 true)).isNone = true) ∧
    ((launched (launchOf 32 false) [] 0).serveNext = some (launchOf 32 false, some 0) ∧
      ((launched (launchOf 32 false) [] 0).firstCheck (launchOf 32 false)).1 = 5 ∧
      ((launched (launchOf 32 false) [] 0).placeGate (launchOf 32 false)).isNone = true) ∧
    ((launched (launchOf 1 true) [] 0).serveNext = some (launchOf 1 true, some 0) ∧
      (launched (launchOf 1 true) [] 0).chooseThread launchEff [] = some 0) := by decide +kernel

theorem witness_CrewEvents_core : ((launched (launchOf 32 true) [] 0).chooseCore launchEff loadKernel).map Prod.fst = some 0 := by decide +kernel

theorem witness_CrewEvents_wait :
    let k := { loadKernel with width := 1 }
    let s := launched (launchOf 1 true) [{ loadCrew 0 with kernel := k }] 65536
    s.admits launchEff k = false ∧ (s.run.distThreads.filterMap (fun c => s.victimsFor launchEff k c 1)).map List.length = [1] ∧
      0 + waitCycles ≤ s.cycles.toNat ∧ s.rcbState (s.rcbAt (launchOf 1 true) 0) = 1 := by decide +kernel

theorem witness_CrewEvents_moves :
    let cont : Cont := ⟨3, 2, 0, 0, 0, 0, 0, 0, 1, 0, 0, 1, 0, 4 * 2 ^ 32, 0, 0, 1, []⟩
    let move : Bool → BlockMove := fun up => ⟨4, 3, 0, up, 1, 0, [], 0, false, true, false, false⟩
    let cmd : Nat → MigCmd := fun n => ⟨n, 0x1000, none, none, 0, none, none, 0, 0⟩
    let page := ((mapped (thread .host) (loadFrame + 0xDF + 7 * 2 ^ 52) 0).modFrame 5 (fun f => { f with ptea := 0x4000 }))
    let sweep := ((paged (thread .host) 0).pokeNat 0x7000 8 (2 ^ 29 + 2 ^ 5)).modHub (fun u => { u with sweeps := [(0, cmd 0)] })
    ((rungOf cont.ladder 1).2.1 = true ∧ 0 + (rungOf cont.ladder 0).2.2 ≤ 0 ∧ (move true).ended = true ∧ (move false).ended = true ∧
      ((thread .host).contHeld cont).isNone = true) ∧
    ((ring 13).rcbState 0x5000 = 6 ∧ (ring 15).rcbState 0x5000 = 7 ∧ (ring 3).rcbState 0x5000 = 1) ∧
    ((cmd (2 ^ 511)).bad = true ∧ (cmd 0).bad = false ∧ page.releasedBefore 256 0 = true ∧ (cmd 1).bad = false ∧ bits (cmd 1).cmd 0 4 = 1 ∧
      (page.modHart 256 (fun t => { t with sb := [⟨0, false, false, 0, 0, [(0, 1)], [], .user, false, false, false, 0⟩] })).releasedBefore 256 5 = false ∧ (match page.checkMove (cmd 0) with | .error 1 => true | _ => false) = true ∧
      (match (page.modHub (fun u => { u with free := [(2, [2 ^ 36 + 5])] })).checkMove (cmd (2 ^ 4 + 5 * 2 ^ 64)) with | .ok _ => true | _ => false) = true) ∧
    ((migrating .queued).runningAt 5 < 16 ∧ ((migrating .queued).home 0).mayStart 0 1 = true ∧ (migOf .moving).cursor + 1 ≠ 32 * (migOf .moving).frames ∧
      (migrating .moving).storeFailing (migOf .moving) = false ∧ (migrating .shootdown).oldFrameBusy (migOf .shootdown) = false) ∧
    (let s1 := (sweep.takeShares 0 []).sendShare 0; s1.sweeping 0 = true ∧ s1.outQueue 0 = [] ∧ s1.membersOf 0 = [0] ∧ s1.localOf 0 = 0 ∧ s1.hub.rebased = [] ∧
      (s1.rebaseRegion 0 []).hub.rebased = [0] ∧ (s1.rebaseRegion 0 []).sweeping 0 = true) ∧
    (paged (thread .host) 0).sweeping 0 = false ∧ page.backWaits 0 (fun _ => true) = false ∧
    (paged (thread .host) 0).migOfFrame 5 = none := by decide

theorem witness_PackageEvents :
    let s := thread .user
    let cut := s.modPkg (fun p => { p with unreachable := [0], packages := 2 })
    let noted := (paged s 0).pokeNat 20 4 1
    let evt := s.modPkg (fun p => { p with events := [(0x100, 0x6000)] })
    (s.canArrive 0 = true ∧ nextStages 0 ≠ [] ∧ s.canArrive 39 = true ∧ nextStages 39 ≠ [] ∧ s.canArrive 8 = false ∧ s.canArrive 40 = false) ∧
    (let c := s.modPkg (fun p => { p with calendars := [(8, ⟨63, List.replicate 64 255, [(63, 0, 1)]⟩)] });
      (c.calendar 8).owners.length = 64 ∧ c.linkFree 8 = true ∧ ({ c.calendar 8 with owners := List.replicate 64 63 }).chosen false = some (63, 0, 1)) ∧
    (s.pkg.sampled = s.powerPeriod ∧ { s with cycles := 4096 }.pkg.sampled ≠ { s with cycles := 4096 }.powerPeriod) ∧
    (Memory.wf (s.pokeNat 0x5000 1 7).mem.cells = true ∧ ckptPlace 0x5000 = some 0x5000) ∧
    (srAssigned 0x0F = false ∧ srAssigned 0x301 = true ∧ modeRank (s.hart 0).mode < srRank 0x301 ∧ srRank 0x12 ≤ modeRank (s.hart 0).mode) ∧ cut.pkg.seqPkg ∈ cut.pkg.unreachable ∧ cut.lowestReachable = some 1 ∧
    noted.noteDue 0 = true ∧ preemptFirst (noted.hart 0) = false ∧ evt.eventDue 0 = some 0x100 ∧ evt.noteDue 0 = false ∧
    s.drained = true ∧ s.flagsSettled 0 = true ∧ s.homeFailed (8 * 2 ^ 48 + 4096 * (s.pkg.boot.ckptAt + ckptFrames)) = false := by decide

theorem witness_StepKeepsIssue : issueInv State.reset ∧ issueInv { State.reset.withFetchWord 96 (w3 0x80000010 0xDEA10009 0x0DBEEFF0) with schedule := [0] } := by
  refine ⟨fun h => by simp [State.reset] at h, fun _ => ?_⟩
  refine ⟨⟨_, List.mem_cons_self .., ?_⟩, ?_⟩ <;> decide

theorem witness_StepRunsDecoded :
    let s := State.reset.withFetchWord 96 (w3 0x80000010 0xDEA10009 0x0DBEEFF0)
    s.turn = .hart ∧ (match (s.setOut.fetchNext s.cur).1 with | .word w => (decodeWord w).toOption.isSome | _ => false) = true := by decide

theorem witness_DecodeEncode : (Instr.add (mk .i32 (V 2) (V 4) (V 6))).wellFormed = true ∧
    (encode (.add (mk .i32 (V 2) (V 4) (V 6)))).isSome = true := by decide

end Sys2Proof.Tests
end

section
/-! SUPPORT. What a write at coherent points leaves and changes (R3, R271, R420, R463). -/
namespace Sys2Proof.Laws

open Machine

/-- The bytes that a coherent write puts into memory: those whose home has not failed, each at every address where a
write of it is applied (R420, R463). -/
def coherentCells (s : State) (l : List (Nat × Byte)) : List (Nat × Byte) :=
  ((l.filter (fun p => !s.homeFailed p.1)).map (fun p => (s.writeAddrs p.1).map (fun a => (a, p.2)))).flatten

theorem cohPoke_byte (s : State) (by_ : Nat) (l : List (Nat × Byte)) (poison : List Nat) (a : Nat) :
    (s.cohPoke by_ l poison).byte a = Memory.get (Memory.setAll s.mem.cells (coherentCells s l)) a := rfl

theorem cohPoke_readAddr (s : State) (by_ : Nat) (l : List (Nat × Byte)) (poison : List Nat) (pa : Nat) :
    (s.cohPoke by_ l poison).readAddr pa = s.readAddr pa := rfl

theorem mem_coherentCells {s : State} {l : List (Nat × Byte)} {q : Nat × Byte} :
    q ∈ coherentCells s l ↔ ∃ p ∈ l, s.homeFailed p.1 = false ∧ q.1 ∈ s.writeAddrs p.1 ∧ q.2 = p.2 := by
  obtain ⟨a, b⟩ := q
  simp only [coherentCells, List.mem_flatten, List.mem_map, List.mem_filter, Bool.not_eq_true']
  constructor
  · rintro ⟨_, ⟨p, ⟨hp, alive⟩, rfl⟩, hq⟩
    obtain ⟨c, hc, hcq⟩ := List.mem_map.1 hq
    obtain ⟨rfl, rfl⟩ := Prod.mk.inj hcq
    exact ⟨p, hp, alive, hc, rfl⟩
  · rintro ⟨p, hp, alive, ha, rfl⟩
    exact ⟨_, ⟨p, ⟨hp, alive⟩, rfl⟩, List.mem_map.2 ⟨a, ha, rfl⟩⟩

/-- The addresses of the bytes put are among those of all the bytes named, in their order. -/
theorem coherentCells_addrs_sublist (s : State) (l : List (Nat × Byte)) :
    ((coherentCells s l).map Prod.fst).Sublist (l.map (fun p => s.writeAddrs p.1)).flatten := by
  have same : (coherentCells s l).map Prod.fst =
      ((l.filter (fun p => !s.homeFailed p.1)).map (fun p => s.writeAddrs p.1)).flatten := by
    simp [coherentCells, List.map_flatten, Function.comp_def]
  rw [same]
  exact (List.filter_sublist.map _).flatten

/-- A write of bytes to different addresses leaves each of them. -/
theorem memory_get_setAll_mem (m : List Host.Cell) (l : List (Nat × Byte)) (distinct : (l.map Prod.fst).Nodup)
    {q : Nat × Byte} (hq : q ∈ l) : Memory.get (Memory.setAll m l) q.1 = q.2 := by
  induction l generalizing m with
  | nil => cases hq
  | cons p r ih =>
    obtain ⟨fresh, rest⟩ := List.nodup_cons.1 distinct
    rcases List.mem_cons.1 hq with rfl | hr
    · have kept := memory_get_setAll (Memory.set m q.1 q.2) r q.1
        (fun p hp same => fresh (same ▸ List.mem_map_of_mem hp))
      exact kept.trans (by simp)
    · exact ih (Memory.set m p.1 p.2) rest hr

/-- A read of an address is served where a write of it is applied (R420). -/
theorem readAddr_mem_writeAddrs (s : State) (pa : Nat) : s.readAddr pa ∈ s.writeAddrs pa := by
  simp only [State.readAddr, State.writeAddrs]
  split
  · split <;> simp
  · simp

/-- A coherent write leaves every byte that it does not name. -/
theorem cohPoke_byte_unnamed (s : State) (by_ : Nat) (l : List (Nat × Byte)) (poison : List Nat) {a : Nat}
    (unnamed : ∀ p ∈ l, a ∉ s.writeAddrs p.1) : (s.cohPoke by_ l poison).byte a = s.byte a := by
  refine memory_get_setAll _ _ a fun q hq same => ?_
  obtain ⟨p, hp, -, ha, -⟩ := mem_coherentCells.1 hq
  exact unnamed p hp (same ▸ ha)

/-- A coherent write of bytes to different addresses puts each byte whose home stands at every address where it is applied. -/
theorem cohPoke_byte_named (s : State) (by_ : Nat) (l : List (Nat × Byte)) (poison : List Nat)
    (distinct : (l.map (fun p => s.writeAddrs p.1)).flatten.Nodup) {p : Nat × Byte} (hp : p ∈ l)
    (alive : s.homeFailed p.1 = false) {a : Nat} (ha : a ∈ s.writeAddrs p.1) : (s.cohPoke by_ l poison).byte a = p.2 :=
  memory_get_setAll_mem _ _ (distinct.sublist (coherentCells_addrs_sublist s l)) (q := (a, p.2))
    (mem_coherentCells.2 ⟨p, hp, alive, ha, rfl⟩)

/-- Settles O24: the bytes named are written at every address where a write of them is applied, which is where a read
of them is served. -/
theorem coherentWrite : Obligations.CoherentWrite := by
  unfold Obligations.CoherentWrite
  intro s by_ l poison
  refine ⟨wf_cohPoke by_ l poison, rfl, rfl, rfl, rfl, rfl, fun a => cohPoke_byte_unnamed s by_ l poison,
    fun distinct p hp alive => ⟨fun a => cohPoke_byte_named s by_ l poison distinct hp alive, ?_⟩⟩
  rw [cohPoke_readAddr]
  exact cohPoke_byte_named s by_ l poison distinct hp alive (readAddr_mem_writeAddrs s p.1)

end Sys2Proof.Laws
end

section
/-! SUPPORT. The choice of the next step is no part of what the machine holds: a state without it, and the operations that a walk and a
change of ownership are made of, none of which sees it (log entry 4). -/
namespace Sys2Proof.Laws

open Machine

/-- A state without its choice of the next step. -/
def unchosen (s : State) : State := { s with cur := 0, turn := .idle, schedule := [], waiting := [] }

/-- Two choices on one condition whose branches correspond by a function correspond by it, however each decides the condition. -/
theorem ite_hom {α β : Type} {p q : Prop} [Decidable p] [Decidable q] (g : α → β) {a b : α} {a' b' : β} (cond : q ↔ p)
    (yes : a' = g a) (no : b' = g b) : (if q then a' else b') = g (if p then a else b) := by
  by_cases h : p <;> simp [h, cond, yes, no]

/-- A fold of updates that do not see the choice does not see it. -/
theorem foldl_unchosen {α : Type} {f : State → α → State} (hf : ∀ s a, f (unchosen s) a = unchosen (f s a)) (l : List α)
    (s : State) : l.foldl f (unchosen s) = unchosen (l.foldl f s) := List.foldl_hom unchosen hf

/-! ### What a state without its choice reads as -/

@[simp] theorem unchosen_hub (s : State) : (unchosen s).hub = s.hub := rfl
@[simp] theorem unchosen_hart (s : State) (h : Nat) : (unchosen s).hart h = s.hart h := rfl
@[simp] theorem unchosen_xctx (s : State) (h : Nat) : (unchosen s).xctx h = s.xctx h := rfl
@[simp] theorem unchosen_pkg (s : State) : (unchosen s).pkg = s.pkg := rfl
@[simp] theorem unchosen_home (s : State) (h : Nat) : (unchosen s).home h = s.home h := rfl
@[simp] theorem unchosen_lastStamp (s : State) : (unchosen s).lastStamp = s.lastStamp := rfl
@[simp] theorem unchosen_ownWord (s : State) (page : Nat) : (unchosen s).ownWord page = s.ownWord page := rfl
@[simp] theorem unchosen_cached (s : State) (cx : XCtx) (va : Nat) : (unchosen s).cached cx va = s.cached cx va := rfl
@[simp] theorem unchosen_canonPa (s : State) (pa : Nat) : (unchosen s).canonPa pa = s.canonPa pa := rfl
@[simp] theorem unchosen_paFault (s : State) (m : Mode) (pa : Nat) : (unchosen s).paFault m pa = s.paFault m pa := rfl
@[simp] theorem unchosen_transFault (s : State) (cx : XCtx) (t : Trans) (pa : Nat) (acc : AccessKind) (w : Bool) :
    (unchosen s).transFault cx t pa acc w = s.transFault cx t pa acc w := rfl

/-! ### Updates of one part of the state -/

@[simp] theorem modMem_unchosen (s : State) (f : MemSys → MemSys) : (unchosen s).modMem f = unchosen (s.modMem f) := rfl
@[simp] theorem modHub_unchosen (s : State) (f : HubSys → HubSys) : (unchosen s).modHub f = unchosen (s.modHub f) := rfl
@[simp] theorem send_unchosen (s : State) (m : Msg) : (unchosen s).send m = unchosen (s.send m) := rfl
@[simp] theorem modHome_unchosen (s : State) (h : Nat) (f : HomeSt → HomeSt) :
    (unchosen s).modHome h f = unchosen (s.modHome h f) := rfl
@[simp] theorem modFrame_unchosen (s : State) (f : Nat) (g : FrameRec → FrameRec) :
    (unchosen s).modFrame f g = unchosen (s.modFrame f g) := rfl
@[simp] theorem raiseEvent_unchosen (s : State) (n : Nat) : (unchosen s).raiseEvent n = unchosen (s.raiseEvent n) := rfl
@[simp] theorem pmcAdd_unchosen (s : State) (core ev n guest : Nat) (pipe : Option Nat) :
    (unchosen s).pmcAdd core ev n guest pipe = unchosen (s.pmcAdd core ev n guest pipe) :=
  ite_hom unchosen Iff.rfl rfl rfl

/-! ### Partials (R267, R268) -/

@[simp] theorem cohPoke_unchosen (s : State) (by_ : Nat) (l : List (Nat × Byte)) (ps : List Nat) :
    (unchosen s).cohPoke by_ l ps = unchosen (s.cohPoke by_ l ps) := rfl

theorem mergePartial_unchosen (s : State) (p : Partial) : (unchosen s).mergePartial p = unchosen (s.mergePartial p) :=
  ite_hom unchosen Iff.rfl rfl rfl

@[simp] theorem mergeLines_unchosen (s : State) (line n : Nat) :
    (unchosen s).mergeLines line n = unchosen (s.mergeLines line n) := by
  simp only [State.mergeLines]
  rw [foldl_unchosen mergePartial_unchosen, modMem_unchosen]
  rfl

/-! ### Directories (R450 to R461) -/

theorem probePeers_unchosen (s : State) (h : Nat) (p : PeerEntry) (asker : Option Nat) :
    (unchosen s).probePeers h p asker = unchosen (s.probePeers h p asker) := by
  have sent := fun (f : Nat → Msg) (ks : List Nat) => foldl_unchosen (f := fun st k => st.send (f k)) (fun _ _ => rfl) ks s
  exact ite_hom unchosen Iff.rfl (sent _ _) (congrArg (fun u : State => u.cohPoke noHart _ []) (sent _ _))

@[simp] theorem recallPeers_unchosen (s : State) (h line n : Nat) (reader : Bool) :
    (unchosen s).recallPeers h line n reader = unchosen (s.recallPeers h line n reader) := by
  simp only [State.recallPeers]
  rw [foldl_unchosen (fun st p => probePeers_unchosen st h p none), modHome_unchosen]
  rfl

@[simp] theorem probe_unchosen (s : State) (agents : Nat → Bool) (line n : Nat) (keep : Bool) :
    (unchosen s).probe agents line n keep = unchosen (s.probe agents line n keep) := rfl

@[simp] theorem dropEntry_unchosen (s : State) (h : Nat) (e : DirEntry) :
    (unchosen s).dropEntry h e = unchosen (s.dropEntry h e) := by
  simp only [State.dropEntry, mergeLines_unchosen, ← apply_ite unchosen, recallPeers_unchosen, probe_unchosen, modHome_unchosen]

@[simp] theorem addEntry_unchosen (s : State) (h : Nat) (e : DirEntry) :
    (unchosen s).addEntry h e = unchosen (s.addEntry h e) := by
  unfold State.addEntry
  dsimp only
  rw [← modHome_unchosen]
  refine congrArg (fun u : State => u.modHome h _) (ite_hom unchosen Iff.rfl ?_ rfl)
  simp only [unchosen_home, dropEntry_unchosen]
  split <;> rfl

@[simp] theorem serveFree_unchosen (s : State) (h line a guest : Nat) (k : DReq) :
    (unchosen s).serveFree h line a guest k = unchosen (s.serveFree h line a guest k) := by
  simp only [State.serveFree, unchosen_home, unchosen_lastStamp, addEntry_unchosen]
  split <;> rfl

@[simp] theorem logPartition_unchosen (s : State) (h line a g u : Nat) :
    (unchosen s).logPartition h line a g u = unchosen (s.logPartition h line a g u) := by
  simp only [State.logPartition, cohPoke_unchosen, modHome_unchosen, raiseEvent_unchosen]
  rfl

@[simp] theorem dirSplit_unchosen (s : State) (h line a : Nat) (e : DirEntry) (k : DReq) :
    (unchosen s).dirSplit h line a e k = unchosen (s.dirSplit h line a e k) := by
  simp only [State.dirSplit, recallPeers_unchosen, ← apply_ite unchosen, probe_unchosen, modHome_unchosen, addEntry_unchosen]
  split <;> simp [unchosen_lastStamp]

@[simp] theorem dirServe_unchosen (s : State) (h line a g : Nat) (fw : Bool) (k : DReq) :
    (unchosen s).dirServe h line a g fw k = Prod.map unchosen id (s.dirServe h line a g fw k) := by
  simp only [State.dirServe, unchosen_home, unchosen_lastStamp, serveFree_unchosen, logPartition_unchosen, dropEntry_unchosen,
    dirSplit_unchosen, modHome_unchosen]
  split
  · rfl
  · refine ite_hom _ Iff.rfl rfl (ite_hom _ Iff.rfl rfl (ite_hom _ Iff.rfl rfl (ite_hom _ Iff.rfl rfl (ite_hom _ Iff.rfl rfl ?_))))
    split <;> rfl

@[simp] theorem homeWrite_unchosen (s : State) (pa n v : Nat) :
    (unchosen s).homeWrite pa n v = unchosen (s.homeWrite pa n v) := by
  simp only [State.homeWrite, dirServe_unchosen]
  split <;> simp

/-! ### Ownership of POOL pages (R428, R429, R487) -/

@[simp] theorem setOwn_unchosen (s : State) (page w : Nat) :
    (unchosen s).setOwn page w = Prod.map id unchosen (s.setOwn page w) := by
  refine ite_hom _ Iff.rfl ?_ (ite_hom _ Iff.rfl rfl rfl)
  exact congrArg (Prod.mk true) (homeWrite_unchosen s _ 8 w)

@[simp] theorem takeOwn_unchosen (s : State) (page : Nat) :
    (unchosen s).takeOwn page = Prod.map id unchosen (s.takeOwn page) := by
  simp only [State.takeOwn, unchosen_pkg, unchosen_ownWord, setOwn_unchosen, Prod.map_fst, Prod.map_snd, id]
  exact congrArg (Prod.mk _) (ite_hom unchosen Iff.rfl rfl rfl)

@[simp] theorem ownStep_unchosen (s : State) (page : Nat) :
    (unchosen s).ownStep page = Prod.map id unchosen (s.ownStep page) :=
  ite_hom _ Iff.rfl rfl (ite_hom _ Iff.rfl (takeOwn_unchosen s page) (ite_hom _ Iff.rfl rfl rfl))

@[simp] theorem ownFor_unchosen (s : State) (hold : Option Nat) (page : Nat) :
    (unchosen s).ownFor hold page = Prod.map id unchosen (s.ownFor hold page) := by
  simp only [State.ownFor, ownStep_unchosen]
  split <;> rfl

/-! ### Walks (R404 to R412, R425) -/

theorem walkFrom_unchosen (s : State) (stage : Nat) (parks : Bool) (xl : Nat → Except Walk (Nat × List Nat))
    (input level table : Nat) (via : List Nat) :
    walkFrom (unchosen s) stage parks xl input level table via = walkFrom s stage parks xl input level table via := by
  induction level generalizing table via with
  | zero =>
    unfold walkFrom
    rfl
  | succ n ih =>
    unfold walkFrom
    simp only [ih]
    rfl

theorem walk_unchosen (s : State) (cx : XCtx) (va : Nat) : (unchosen s).walk cx va = s.walk cx va := by
  simp only [State.walk, walkFrom_unchosen]
  rfl

@[simp] theorem setAD_unchosen (s : State) (at_ : Nat) (dirty : Bool) :
    (unchosen s).setAD at_ dirty = unchosen (s.setAD at_ dirty) := ite_hom unchosen Iff.rfl rfl rfl

theorem endKeeping_unchosen (s : State) : (unchosen s).endKeeping = unchosen s.endKeeping :=
  foldl_unchosen (f := fun st f => st.dropCells f 1) (fun _ _ => rfl) _ s

@[simp] theorem noteWalk_unchosen (s : State) (t : Trans) (pa gpn : Nat) :
    (unchosen s).noteWalk t pa gpn = unchosen (s.noteWalk t pa gpn) := by
  have cells : (if t.pcls == 3 then (unchosen s).endKeeping else t.runs.foldl (fun st r => st.dropCells r.1 r.2) (unchosen s)) =
      unchosen (if t.pcls == 3 then s.endKeeping else t.runs.foldl (fun st r => st.dropCells r.1 r.2) s) :=
    ite_hom unchosen Iff.rfl (endKeeping_unchosen s) (foldl_unchosen (fun _ _ => rfl) _ s)
  refine ite_hom unchosen Iff.rfl rfl ?_
  dsimp only
  rw [cells]
  refine ite_hom unchosen Iff.rfl rfl ?_
  rw [← modFrame_unchosen]
  exact congrArg (fun u : State => u.modFrame _ _) (ite_hom unchosen Iff.rfl rfl (foldl_unchosen (fun _ _ => rfl) _ _))

@[simp] theorem install_unchosen (s : State) (core : Nat) (t : Trans) :
    (unchosen s).install core t = unchosen (s.install core t) := foldl_unchosen (fun _ _ => rfl) _ s

@[simp] theorem meetPark_unchosen (s : State) (cx : XCtx) (pte leaf : Nat) :
    (unchosen s).meetPark cx pte leaf = Prod.map id unchosen (s.meetPark cx pte leaf) :=
  ite_hom _ Iff.rfl rfl (ite_hom _ Iff.rfl rfl rfl)

@[simp] theorem walked_unchosen (s : State) (cx : XCtx) (va : Nat) (acc : AccessKind) (write : Bool) (t : Trans) (pa : Nat)
    (via : List Nat) :
    (unchosen s).walked cx va acc write t pa via = Prod.map id unchosen (s.walked cx va acc write t pa via) := by
  simp only [State.walked, unchosen_paFault, unchosen_pkg]
  split
  · rfl
  · rw [foldl_unchosen (f := fun st (r : Nat × Nat) => st.send (.mappingNotice (bits (r.1 * 4096) 39 6) (r.1 * 4096) r.2)) (fun _ _ => rfl)]
    refine ite_hom _ Iff.rfl rfl ?_
    rw [foldl_unchosen (f := fun st a => st.setAD a false) (fun st a => setAD_unchosen st a false)]
    simp only [setAD_unchosen, noteWalk_unchosen, install_unchosen, unchosen_canonPa]
    split <;> rfl

theorem walkFor_unchosen (s : State) (cx : XCtx) (va : Nat) (acc : AccessKind) (write : Bool) :
    (unchosen s).walkFor cx va acc write = Prod.map id unchosen (s.walkFor cx va acc write) := by
  simp only [State.walkFor, walk_unchosen, meetPark_unchosen, walked_unchosen]
  split <;> rfl

theorem translate_unchosen (s : State) (cx : XCtx) (va : Nat) (acc : AccessKind) (write : Bool) :
    (unchosen s).translate cx va acc write = Prod.map id unchosen (s.translate cx va acc write) := by
  refine ite_hom _ Iff.rfl rfl ?_
  simp only [unchosen_cached, unchosen_transFault, unchosen_canonPa, pmcAdd_unchosen, walkFor_unchosen]
  split
  · split
    · rfl
    · exact ite_hom _ Iff.rfl rfl rfl
  · rfl

/-! ### Refills of the split stack (R162) -/

/-- A fold that stops at a failure commutes with a function on what has been found so far. -/
theorem foldl_except_map {ε α β : Type} (g : β → β) {f : Except ε β → α → Except ε β}
    (hf : ∀ r a, f (r.map g) a = (f r a).map g) (l : List α) (b : β) :
    l.foldl f (.ok (g b)) = (l.foldl f (.ok b)).map g :=
  List.foldl_hom (Except.map g) (init := .ok b) hf

theorem runs_unchosen (s : State) (cx : XCtx) (va n : Nat) (acc : AccessKind) (write : Bool) :
    (unchosen s).runs cx va n acc write = (s.runs cx va n acc write).map (Prod.map id unchosen) := by
  unfold State.runs
  refine foldl_except_map (Prod.map id unchosen) (fun r p => ?_) _ ([], s)
  cases r with
  | error e => rfl
  | ok q =>
    simp only [Except.map, Prod.map_snd, Prod.map_fst, translate_unchosen]
    obtain ⟨res, st⟩ := q.2.translate cx p.1 acc write
    cases res <;> rfl

theorem ownRuns_unchosen (s : State) (h : Nat) (write raises : Bool) (rs : List Run) :
    (unchosen s).ownRuns h write raises rs = (s.ownRuns h write raises rs).map unchosen := by
  unfold State.ownRuns
  refine foldl_except_map unchosen (fun r p => ?_) _ s
  cases r with
  | error e => rfl
  | ok st =>
    simp only [Except.map, ownFor_unchosen, unchosen_hart]
    obtain ⟨res, st⟩ := st.ownFor _ (poolPage p.pa)
    cases res <;> rfl

theorem privRuns_unchosen (s : State) (h va n : Nat) (acc : AccessKind) (write : Bool) :
    (unchosen s).privRuns h va n acc write = (s.privRuns h va n acc write).map (Prod.map id unchosen) := by
  simp only [State.privRuns, unchosen_xctx, runs_unchosen]
  cases s.runs (s.xctx h) va n acc write with
  | error e => rfl
  | ok q =>
    simp only [Except.map, Prod.map_fst, Prod.map_snd, id, ownRuns_unchosen]
    cases q.2.ownRuns h write (acc != .spill) q.1 <;> rfl

theorem refillReady_unchosen (s : State) (h len : Nat) :
    (unchosen s).refillReady h len = (s.refillReady h len).map unchosen := by
  refine ite_hom _ Iff.rfl rfl ?_
  simp only [privRuns_unchosen, unchosen_hart]
  cases s.privRuns h _ _ .spill false <;> rfl

theorem refillable_unchosen (s : State) (h : Nat) : (unchosen s).refillable h = s.refillable h := by
  simp only [State.refillable, refillReady_unchosen]
  cases s.refillReady h 0 <;> rfl

end Sys2Proof.Laws
end

section
/-! SUPPORT. The choice of the next step: what may come next is the same before and after it, and where it is an issue, the hart chosen is
one of those that may issue (R11, R22, R192, R373; log entry 4). -/
namespace Sys2Proof.Laws

open Machine Safety

/-! ### What may come next does not depend on what has been chosen -/

theorem goesOn_unchosen (s : State) (h : Nat) : (unchosen s).goesOn h = s.goesOn h := rfl

theorem mayIssue_unchosen (s : State) (h : Nat) (t : Hart) : (unchosen s).mayIssue h t = s.mayIssue h t := by
  simp only [State.mayIssue, goesOn_unchosen, refillable_unchosen]
  rfl

theorem readyHarts_unchosen (s : State) : (unchosen s).readyHarts = s.readyHarts := by
  simp only [State.readyHarts, mayIssue_unchosen]
  rfl

theorem powered_unchosen (s : State) : (unchosen s).powered = s.powered := rfl

/-- States that differ in the choice of the next step alone have the same harts that may issue. -/
theorem readyHarts_congr {s t : State} (same : unchosen s = unchosen t) : s.readyHarts = t.readyHarts := by
  rw [← readyHarts_unchosen s, same, readyHarts_unchosen]

/-! ### The harts that may issue (R11, R192, R373) -/

/-- A hart that may issue stands in the table of harts, and its entry says that it may. -/
theorem mayIssue_of_mem_readyHarts {s : State} {h : Nat} (ready : h ∈ s.readyHarts) :
    ∃ p ∈ s.harts, p.1 = h ∧ s.mayIssue p.1 p.2 = true := by
  have able := List.mem_of_mem_filter (List.mem_of_mem_filter ready)
  obtain ⟨p, hp, rfl⟩ := List.mem_map.1 able
  exact ⟨p, List.mem_of_mem_filter hp, rfl, (List.mem_filter.1 hp).2⟩

/-- A hart that runs is not held in reset, exited, stopped, halted or in WFI. -/
theorem runs_iff (q : Sched) : q.runs = true ↔
    q.inReset = false ∧ q.exited = false ∧ q.stopped = false ∧ q.halted = false ∧ q.wfi = false := by
  simp [Sched.runs, and_assoc]

/-- A hart that may issue runs, waits for no demotion and owes neither PREEMPT nor a host event (R192, R373). -/
theorem runs_of_mayIssue {s : State} {h : Nat} {t : Hart} (may : s.mayIssue h t = true) :
    t.sched.runs = true ∧ t.sched.demote = none ∧ s.asyncDue h = false := by
  simp only [State.mayIssue, Bool.and_eq_true, Bool.not_eq_true', Option.isNone_iff_eq_none] at may
  obtain ⟨⟨⟨⟨⟨runs, demote⟩, -⟩, due⟩, -⟩, -⟩ := may
  exact ⟨runs, demote, due⟩

/-- Of two harts of a pipe one goes before the other (R373). -/
theorem before_total (s : State) {g h : Nat} (ne : g ≠ h) : s.before g h = true ∨ s.before h g = true := by
  simp only [State.before]
  grind

theorem samePipe_symm (g h : Nat) : samePipe g h = samePipe h g := by
  simp only [samePipe]
  grind

/-- No hart that may issue goes before another of its pipe (R373). -/
theorem not_before_of_mem_readyHarts {s : State} {g h : Nat} (hg : g ∈ s.readyHarts) (hh : h ∈ s.readyHarts) (ne : g ≠ h)
    (pipe : samePipe g h = true) : s.before g h = false := by
  have first := (List.mem_filter.1 hh).2
  have none_before := List.any_eq_false.1 (Bool.not_eq_true' _ ▸ first) g (List.mem_of_mem_filter hg)
  simpa [ne, pipe] using none_before

/-- A pipe chooses one hart (R11, R373). -/
theorem readyHarts_unique {s : State} {g h : Nat} (hg : g ∈ s.readyHarts) (hh : h ∈ s.readyHarts) (pipe : samePipe g h = true) :
    g = h := by
  by_contra ne
  have hgh := not_before_of_mem_readyHarts hg hh ne pipe
  have hhg := not_before_of_mem_readyHarts hh hg (Ne.symm ne) (samePipe_symm g h ▸ pipe)
  rcases before_total s ne with before | before
  · exact absurd before (by simp [hgh])
  · exact absurd before (by simp [hhg])

/-! ### The choice -/

/-- Where the step chosen is an issue, it is one of those possible, and nothing but the choice has changed. -/
theorem pick_issue {s : State} (turn : s.pick.turn = .hart) :
    Choice.issue s.pick.cur ∈ s.options ∧ unchosen s.pick = unchosen s := by
  revert turn
  unfold State.pick
  dsimp only
  split
  · simp
  · next h taken => exact fun _ => ⟨List.mem_of_getElem? taken, rfl⟩
  · simp
  · simp

/-- An issue that may come next is of a hart that may issue, on a pipe that the power step does not withhold (R22). -/
theorem ready_of_mem_options {s : State} {h : Nat} (possible : Choice.issue h ∈ s.options) :
    h ∈ s.readyHarts ∧ (isCompute h = true → s.powered = true) := by
  obtain ⟨option, pace⟩ := List.mem_filter.1 possible
  refine ⟨?_, fun compute => by simpa [Choice.paced, compute] using pace⟩
  rcases List.mem_append.1 option with option | input
  · rcases List.mem_append.1 option with issue | event
    · obtain ⟨g, hg, same⟩ := List.mem_map.1 issue
      exact Choice.issue.inj same ▸ hg
    · obtain ⟨e, -, same⟩ := List.mem_map.1 event
      cases same
  · split at input <;> simp at input

/-- The choice of the next step makes the invariant, whatever the state it is made in. -/
theorem issueInv_pick (s : State) : issueInv s.pick := by
  intro turn
  obtain ⟨possible, same⟩ := pick_issue turn
  obtain ⟨ready, power⟩ := ready_of_mem_options possible
  have chosen : s.pick.cur ∈ s.pick.readyHarts := readyHarts_congr same ▸ ready
  have powered : s.pick.powered = s.powered := by
    rw [← powered_unchosen, same, powered_unchosen]
  obtain ⟨p, hp, number, may⟩ := mayIssue_of_mem_readyHarts chosen
  obtain ⟨runs, demote, due⟩ := runs_of_mayIssue may
  obtain ⟨inReset, exited, stopped, halted, wfi⟩ := (runs_iff _).1 runs
  exact ⟨⟨p, hp, number, inReset, exited, stopped, halted, wfi, demote⟩, number ▸ due, fun compute => powered ▸ power compute,
    chosen, fun h hh pipe => readyHarts_unique hh chosen pipe⟩

/-- A step that ends in a next state ends with the choice of the step after it. -/
theorem step_next_pick {s t : State} (next : step s = .next t) : ∃ u : State, t = u.pick := by
  have settles : ∀ {o : Out}, settled o = .next t → ∃ u : State, t = u.pick
    | .next u, h => ⟨_, (Host.Outcome.next.inj h).symm⟩
  unfold step at next
  split at next <;> exact settles next

/-- Settles O57: every step ends with the choice of the next, and the choice alone makes the invariant. -/
theorem stepKeepsIssue : Obligations.StepKeepsIssue := by
  unfold Obligations.StepKeepsIssue
  intro s t _ next
  obtain ⟨u, rfl⟩ := step_next_pick next
  exact issueInv_pick u

end Sys2Proof.Laws
end

section
/-! SUPPORT. What the operations behind a trap leave of the trap registers: no access, fault record or region control block that an
escalation touches writes one (R187, R193). -/
namespace Sys2Proof.Laws

open Machine

/-- A fold of steps that each keep an observation keeps it. -/
theorem foldl_keeps {α β : Type} (obs : State → β) {f : State → α → State} (hf : ∀ s a, obs (f s a) = obs s) (l : List α)
    (s : State) : obs (l.foldl f s) = obs s := by
  induction l generalizing s with
  | nil => rfl
  | cons a r ih => exact (ih (f s a)).trans (hf s a)

/-- A choice whose branches agree in an observation has what they have. -/
theorem obs_ite {α β : Type} (obs : α → β) {p : Prop} [Decidable p] {a b : α} {c : β} (yes : obs a = c) (no : obs b = c) :
    obs (if p then a else b) = c := by
  by_cases h : p <;> simp [h, yes, no]

/-- A fold that stops at a failure keeps an observation that each of its steps keeps. -/
theorem foldl_except_keeps {ε α β γ : Type} (obs : β → γ) {f : Except ε β → α → Except ε β}
    (stops : ∀ e a, f (.error e) a = .error e) (hf : ∀ b a b', f (.ok b) a = .ok b' → obs b' = obs b) (l : List α) {b b' : β}
    (h : l.foldl f (.ok b) = .ok b') : obs b' = obs b := by
  induction l generalizing b with
  | nil => cases h; rfl
  | cons a l ih =>
    rw [List.foldl_cons] at h
    cases first : f (.ok b) a with
    | ok c =>
      rw [first] at h
      exact (ih h).trans (hf b a c first)
    | error e =>
      rw [first, List.foldl_fixed' (stops e)] at h
      cases h

/-- The trap registers of every hart. -/
@[irreducible] def trapsOf (s : State) (h : Nat) : TrapRegs := (s.hart h).trap

theorem trapsOf_eq (s : State) (h : Nat) : trapsOf s h = (s.hart h).trap := by rw [trapsOf]

theorem trapsOf_of_harts {s t : State} (same : t.harts = s.harts) : trapsOf t = trapsOf s := by
  funext h
  simp only [trapsOf_eq, State.hart, same]

theorem foldl_trapsOf {α : Type} {f : State → α → State} (hf : ∀ s a, trapsOf (f s a) = trapsOf s) (l : List α) (s : State) :
    trapsOf (l.foldl f s) = trapsOf s := foldl_keeps trapsOf hf l s

theorem trapsOf_modHart (s : State) (h : Nat) (f : Hart → Hart) (hf : ∀ t, (f t).trap = t.trap) :
    trapsOf (s.modHart h f) = trapsOf s := by
  funext j
  by_cases same : h = j
  · simp [trapsOf_eq, same, hf]
  · simp [trapsOf_eq, same]

/-! ### Updates of one part of the state, and writes at coherent points -/

@[simp] theorem trapsOf_modMem (s : State) (f : MemSys → MemSys) : trapsOf (s.modMem f) = trapsOf s := trapsOf_of_harts rfl
@[simp] theorem trapsOf_modHub (s : State) (f : HubSys → HubSys) : trapsOf (s.modHub f) = trapsOf s := trapsOf_of_harts rfl
@[simp] theorem trapsOf_modRun (s : State) (f : LaunchSys → LaunchSys) : trapsOf (s.modRun f) = trapsOf s := trapsOf_of_harts rfl
@[simp] theorem trapsOf_modHome (s : State) (h : Nat) (f : HomeSt → HomeSt) : trapsOf (s.modHome h f) = trapsOf s := trapsOf_of_harts rfl
@[simp] theorem trapsOf_modFrame (s : State) (n : Nat) (f : FrameRec → FrameRec) :
    trapsOf (s.modFrame n f) = trapsOf s := trapsOf_of_harts rfl
@[simp] theorem trapsOf_modLaunch (s : State) (n : Nat) (f : Launch → Launch) :
    trapsOf (s.modLaunch n f) = trapsOf s := trapsOf_of_harts rfl
@[simp] theorem trapsOf_send (s : State) (m : Msg) : trapsOf (s.send m) = trapsOf s := trapsOf_of_harts rfl
@[simp] theorem trapsOf_bump (s : State) (key : Nat) : trapsOf (s.bump key) = trapsOf s := trapsOf_of_harts rfl
@[simp] theorem trapsOf_bumpBy (s : State) (key n : Nat) : trapsOf (s.bumpBy key n) = trapsOf s := trapsOf_of_harts rfl
@[simp] theorem trapsOf_raiseEvent (s : State) (n : Nat) : trapsOf (s.raiseEvent n) = trapsOf s := trapsOf_of_harts rfl
@[simp] theorem trapsOf_ras (s : State) (detail : Nat) : trapsOf (s.ras detail) = trapsOf s := trapsOf_of_harts rfl
@[simp] theorem trapsOf_dropCells (s : State) (f n : Nat) : trapsOf (s.dropCells f n) = trapsOf s := trapsOf_of_harts rfl
@[simp] theorem trapsOf_cohPoke (s : State) (by_ : Nat) (l : List (Nat × Byte)) (ps : List Nat) :
    trapsOf (s.cohPoke by_ l ps) = trapsOf s := trapsOf_of_harts rfl

@[simp] theorem trapsOf_mergeLines (s : State) (line n : Nat) : trapsOf (s.mergeLines line n) = trapsOf s :=
  trapsOf_of_harts (mergeLines_harts s line n)

@[simp] theorem trapsOf_pmcAdd (s : State) (core ev n guest : Nat) (pipe : Option Nat) :
    trapsOf (s.pmcAdd core ev n guest pipe) = trapsOf s := by
  simp only [State.pmcAdd]
  split
  · rfl
  · exact trapsOf_of_harts rfl

/-! ### Directories (R450 to R461) -/

@[simp] theorem trapsOf_probe (s : State) (agents : Nat → Bool) (line n : Nat) (keep : Bool) :
    trapsOf (s.probe agents line n keep) = trapsOf s := trapsOf_of_harts rfl

@[simp] theorem trapsOf_probePeers (s : State) (h : Nat) (p : PeerEntry) (asker : Option Nat) :
    trapsOf (s.probePeers h p asker) = trapsOf s := by
  simp only [State.probePeers]
  split
  · exact foldl_trapsOf (fun _ _ => trapsOf_of_harts (by rfl)) _ s
  · exact (trapsOf_cohPoke ..).trans (foldl_trapsOf (fun _ _ => trapsOf_of_harts (by rfl)) _ s)

@[simp] theorem trapsOf_recallPeers (s : State) (h line n : Nat) (reader : Bool) :
    trapsOf (s.recallPeers h line n reader) = trapsOf s := by
  simp only [State.recallPeers, trapsOf_modHome]
  exact foldl_trapsOf (fun st p => trapsOf_probePeers st h p none) _ s

@[simp] theorem trapsOf_dropEntry (s : State) (h : Nat) (e : DirEntry) : trapsOf (s.dropEntry h e) = trapsOf s := by
  simp only [State.dropEntry, trapsOf_modHome, trapsOf_probe, apply_ite trapsOf, trapsOf_recallPeers, trapsOf_mergeLines, ite_self]

@[simp] theorem trapsOf_addEntry (s : State) (h : Nat) (e : DirEntry) : trapsOf (s.addEntry h e) = trapsOf s := by
  simp only [State.addEntry, trapsOf_modHome]
  split
  · split <;> simp
  · rfl

@[simp] theorem trapsOf_serveFree (s : State) (h line a guest : Nat) (k : DReq) :
    trapsOf (s.serveFree h line a guest k) = trapsOf s := by
  simp only [State.serveFree]
  split <;> simp

@[simp] theorem trapsOf_logPartition (s : State) (h line a g u : Nat) : trapsOf (s.logPartition h line a g u) = trapsOf s := by
  simp only [State.logPartition, trapsOf_raiseEvent, trapsOf_modHome, trapsOf_cohPoke]

@[simp] theorem trapsOf_dirSplit (s : State) (h line a : Nat) (e : DirEntry) (k : DReq) :
    trapsOf (s.dirSplit h line a e k) = trapsOf s := by
  simp only [State.dirSplit]
  split <;> simp only [trapsOf_addEntry, apply_ite trapsOf, trapsOf_modHome, trapsOf_probe, trapsOf_recallPeers, ite_self]

@[simp] theorem trapsOf_dirServe (s : State) (h line a g : Nat) (fw : Bool) (k : DReq) :
    trapsOf (s.dirServe h line a g fw k).1 = trapsOf s := by
  simp only [State.dirServe]
  split
  · simp
  · split
    · simp
    · split
      · simp
      · split
        · simp
        · split
          · simp
          · split
            · simp
            · split <;> simp

@[simp] theorem trapsOf_homeWrite (s : State) (pa n v : Nat) : trapsOf (s.homeWrite pa n v) = trapsOf s := by
  simp only [State.homeWrite]
  split <;> simp

/-! ### Accesses at the coherent level (R268, R427, R472) -/

@[simp] theorem trapsOf_notify (s : State) (guest gpn reason tier : Nat) :
    trapsOf (s.notify guest gpn reason tier) = trapsOf s := by
  simp only [State.notify]
  split_ifs <;> simp

@[simp] theorem trapsOf_count (s : State) (pa : Nat) (write : Bool) : trapsOf (s.count pa write) = trapsOf s := by
  simp only [State.count]
  split_ifs <;> simp

@[simp] theorem trapsOf_countEvicted (s : State) (of_ : Nat → Bool) (line : Nat) :
    trapsOf (s.countEvicted of_ line) = trapsOf s := by
  simp only [State.countEvicted]
  refine (foldl_trapsOf (fun st h => trapsOf_modHart st h _ (fun _ => by rfl)) _ _).trans ?_
  split
  · exact trapsOf_modRun ..
  · rfl

@[simp] theorem trapsOf_evictCopy (s : State) (key : Nat) (c : CohLine) : trapsOf (s.evictCopy key c) = trapsOf s := by
  simp only [State.evictCopy]
  split
  · simp
  · split <;> simp

@[simp] theorem trapsOf_keepCopy (s : State) (h line a : Nat) (write : Bool) :
    trapsOf (s.keepCopy h line a write) = trapsOf s := by
  simp only [State.keepCopy]
  split
  · rfl
  · split
    · split <;> simp
    · simp

@[simp] theorem trapsOf_cohTouch (s : State) (a g : Nat) (fw : Bool) (line : Nat) (write home : Bool) :
    trapsOf (s.cohTouch a g fw line write home).1 = trapsOf s := by
  simp only [State.cohTouch]
  split
  · simp
  · split
    · rfl
    · split <;> simp

@[simp] theorem trapsOf_hubTouch (s : State) (guest : Nat) (write : Bool) (as_ : List Nat) :
    trapsOf (s.hubTouch guest write as_) = trapsOf s :=
  foldl_trapsOf (fun st k => trapsOf_cohTouch st 3 guest false k write true) _ s

theorem trapsOf_rejected {s t : State} {pa a g : Nat} {fw : Bool} (h : s.rejected pa a g fw = some t) :
    trapsOf t = trapsOf s := by
  simp only [State.rejected] at h
  split at h
  · cases h
  · split at h
    · split at h
      · cases h; exact trapsOf_logPartition ..
      · cases h
    · cases h

/-! ### Translation (R404 to R425) and ownership (R428, R429) -/

@[simp] theorem trapsOf_setAD (s : State) (at_ : Nat) (dirty : Bool) : trapsOf (s.setAD at_ dirty) = trapsOf s :=
  obs_ite trapsOf rfl (trapsOf_cohPoke ..)

@[simp] theorem trapsOf_endKeeping (s : State) : trapsOf s.endKeeping = trapsOf s :=
  foldl_trapsOf (fun _ _ => trapsOf_of_harts (by rfl)) _ s

@[simp] theorem trapsOf_noteWalk (s : State) (t : Trans) (pa gpn : Nat) : trapsOf (s.noteWalk t pa gpn) = trapsOf s := by
  have cells : ∀ l : List (Nat × Nat), trapsOf (l.foldl (fun st r => st.dropCells r.1 r.2) s) = trapsOf s :=
    fun l => foldl_trapsOf (fun _ _ => trapsOf_of_harts (by rfl)) l s
  have bases : ∀ (l : List Nat) (f : Nat) (g : FrameRec → FrameRec) (st : State),
      trapsOf (l.foldl (fun st i => st.modFrame (f + i) g) st) = trapsOf st :=
    fun l f g st => foldl_trapsOf (fun _ _ => trapsOf_of_harts (by rfl)) l st
  simp only [State.noteWalk]
  split
  · rfl
  · split <;> simp [apply_ite trapsOf, cells, bases]

@[simp] theorem trapsOf_install (s : State) (core : Nat) (t : Trans) : trapsOf (s.install core t) = trapsOf s :=
  foldl_trapsOf (fun _ _ => trapsOf_of_harts (by rfl)) _ s

@[simp] theorem trapsOf_meetPark (s : State) (cx : XCtx) (pte leaf : Nat) : trapsOf (s.meetPark cx pte leaf).2 = trapsOf s := by
  simp only [State.meetPark]
  split_ifs <;> simp only [trapsOf_modHub]

@[simp] theorem trapsOf_walked (s : State) (cx : XCtx) (va : Nat) (acc : AccessKind) (write : Bool) (t : Trans) (pa : Nat)
    (via : List Nat) : trapsOf (s.walked cx va acc write t pa via).2 = trapsOf s := by
  have notices : ∀ l : List (Nat × Nat),
      trapsOf (l.foldl (fun st r => st.send (.mappingNotice (bits (r.1 * 4096) 39 6) (r.1 * 4096) r.2)) s) = trapsOf s :=
    fun l => foldl_trapsOf (fun _ _ => trapsOf_of_harts (by rfl)) l s
  have leaves : ∀ st : State, trapsOf (via.foldl (fun st a => st.setAD a false) st) = trapsOf st :=
    fun st => foldl_trapsOf (fun u a => trapsOf_setAD u a false) via st
  simp only [State.walked]
  split
  · rfl
  · split
    · exact notices _
    · split <;> simp only [trapsOf_install, trapsOf_noteWalk, trapsOf_setAD, leaves, notices]

@[simp] theorem trapsOf_walkFor (s : State) (cx : XCtx) (va : Nat) (acc : AccessKind) (write : Bool) :
    trapsOf (s.walkFor cx va acc write).2 = trapsOf s := by
  simp only [State.walkFor]
  split <;> simp

@[simp] theorem trapsOf_translate (s : State) (cx : XCtx) (va : Nat) (acc : AccessKind) (write : Bool) :
    trapsOf (s.translate cx va acc write).2 = trapsOf s := by
  refine obs_ite (fun r : XRes × State => trapsOf r.2) rfl ?_
  split
  · split
    · rfl
    · split
      · exact trapsOf_walkFor ..
      · rfl
  · exact (trapsOf_walkFor ..).trans (trapsOf_pmcAdd ..)

@[simp] theorem trapsOf_setOwn (s : State) (page w : Nat) : trapsOf (s.setOwn page w).2 = trapsOf s := by
  simp only [State.setOwn]
  split_ifs <;> simp

@[simp] theorem trapsOf_takeOwn (s : State) (page : Nat) : trapsOf (s.takeOwn page).2 = trapsOf s := by
  simp only [State.takeOwn, State.gainOwn]
  split <;> simp

@[simp] theorem trapsOf_ownStep (s : State) (page : Nat) : trapsOf (s.ownStep page).2 = trapsOf s := by
  simp only [State.ownStep]
  split_ifs <;> simp

/-! ### Accesses of the hub by virtual addresses (R365, R400) -/

theorem trapsOf_runs {s t : State} {cx : XCtx} {va n : Nat} {acc : AccessKind} {write : Bool} {rs : List Run}
    (h : s.runs cx va n acc write = .ok (rs, t)) : trapsOf t = trapsOf s := by
  refine foldl_except_keeps (fun q : List Run × State => trapsOf q.2) (fun _ _ => by rfl) (fun q p q' step => ?_) _ h
  have here := trapsOf_translate q.2 cx p.1 acc write
  dsimp only at step
  split at step
  · next eq =>
    cases step
    rw [eq] at here
    exact here
  · cases step

theorem trapsOf_range {s t : State} {cx : XCtx} {va n : Nat} {acc : AccessKind} {write : Bool} {as_ : List Nat}
    (h : s.range cx va n acc write = .ok (as_, t)) : trapsOf t = trapsOf s := by
  simp only [State.range] at h
  split at h
  · next runs => cases h; exact trapsOf_runs runs
  · cases h

theorem trapsOf_readVirt {s t : State} {cx : XCtx} {va n : Nat} {bs : List Byte} (h : s.readVirt cx va n = some (bs, t)) :
    trapsOf t = trapsOf s := by
  simp only [State.readVirt] at h
  split at h
  · next range =>
    split_ifs at h
    cases h
    exact (trapsOf_hubTouch ..).trans (trapsOf_range range)
  · cases h

theorem trapsOf_writeVirt {s t : State} {cx : XCtx} {va : Nat} {bs : List Byte} (h : s.writeVirt cx va bs = some t) :
    trapsOf t = trapsOf s := by
  simp only [State.writeVirt] at h
  split at h
  · next range =>
    split_ifs at h
    cases h
    exact (trapsOf_cohPoke ..).trans ((trapsOf_hubTouch ..).trans (trapsOf_range range))
  · cases h

@[simp] theorem trapsOf_pokeVirt (s : State) (cx : XCtx) (va : Nat) (bs : List Byte) :
    trapsOf (s.pokeVirt cx va bs) = trapsOf s := by
  simp only [State.pokeVirt]
  cases h : s.writeVirt cx va bs with
  | none => rfl
  | some t => exact trapsOf_writeVirt h

theorem trapsOf_virtHeld {s t : State} {cx : XCtx} {ranges : List (Nat × Nat)} (h : s.virtHeld cx ranges = some t) :
    trapsOf t = trapsOf s := by
  obtain ⟨p, -, held⟩ := List.exists_of_findSome?_eq_some h
  have here := trapsOf_translate s cx p.1 .load false
  split at held
  · next eq =>
    cases held
    rw [eq] at here
    exact here
  · next st eq =>
    rw [eq] at here
    obtain ⟨-, held⟩ := Option.ite_none_right_eq_some.1 held
    obtain ⟨-, held⟩ := Option.ite_none_left_eq_some.1 held
    obtain rfl := Option.some.inj held
    exact (trapsOf_ownStep ..).trans here
  · cases held

@[simp] theorem trapsOf_logRefusal (s : State) (cx : XCtx) (va n : Nat) (acc : AccessKind) (write : Bool) :
    trapsOf (s.logRefusal cx va n acc write) = trapsOf s := by
  simp only [State.logRefusal]
  split
  · next as_ st range =>
    cases h : (st.refusedAt cx.guest as_).bind (fun a => st.rejected a 3 cx.guest false) with
    | none => rfl
    | some t =>
      obtain ⟨a, -, refused⟩ := Option.bind_eq_some_iff.1 h
      exact (trapsOf_rejected refused).trans (trapsOf_range range)
  · rfl

/-! ### Fault records (R400, R401) -/

@[simp] theorem trapsOf_noteFrq (s : State) (cx : XCtx) (frq : Nat) : trapsOf (s.noteFrq cx frq) = trapsOf s := by
  simp only [State.noteFrq]
  split
  · next range => exact (trapsOf_modRun ..).trans (trapsOf_range range)
  · rfl

/-- A write that the hub may fail to make, and what is done in its place. -/
theorem trapsOf_writeVirt_else {s t u : State} (cx : XCtx) (va : Nat) (bs : List Byte) (done : trapsOf s = trapsOf u)
    (lost : trapsOf t = trapsOf u) :
    trapsOf (match s.writeVirt cx va bs with | some s' => s' | none => t) = trapsOf u := by
  cases h : s.writeVirt cx va bs with
  | none => exact lost
  | some s' => exact (trapsOf_writeVirt h).trans done

@[simp] theorem trapsOf_putFault (s : State) (e : Eff) (r : FaultRec) : trapsOf (s.putFault e r) = trapsOf s := by
  unfold State.putFault
  dsimp only
  split
  · simp
  · next read =>
    have header := (trapsOf_readVirt read).trans (trapsOf_noteFrq s _ e.frq)
    refine obs_ite trapsOf ?_ ?_
    · exact trapsOf_writeVirt_else _ _ _ header ((trapsOf_ras ..).trans header)
    · split
      · exact trapsOf_writeVirt_else _ _ _ ((trapsOf_logRefusal ..).trans header)
          ((trapsOf_ras ..).trans ((trapsOf_logRefusal ..).trans header))
      · next slot =>
        have record := (trapsOf_writeVirt slot).trans header
        exact trapsOf_writeVirt_else _ _ _ record ((trapsOf_ras ..).trans record)

@[simp] theorem trapsOf_faultRecord (s : State) (e : Eff) (r : FaultRec) : trapsOf (s.faultRecord e r) = trapsOf s := by
  simp only [State.faultRecord]
  split
  · exact trapsOf_modRun ..
  · split
    · next held => exact (trapsOf_modRun ..).trans (trapsOf_virtHeld held)
    · exact trapsOf_putFault s e r

@[simp] theorem trapsOf_crewFault (s : State) (key cause team : Nat) (hv : Bool) (hpc addr : Nat) :
    trapsOf (s.crewFault key cause team hv hpc addr) = trapsOf s := by
  simp only [State.crewFault]
  split
  · rfl
  · split
    · split <;> simp
    · rfl

/-! ### Region control blocks and launches (R379, R443) -/

@[simp] theorem trapsOf_putRcb (s : State) (pa st : Nat) : trapsOf (s.putRcb pa st) = trapsOf s := by
  simp only [State.putRcb]
  split
  · exact (trapsOf_raiseEvent ..).trans ((trapsOf_modRun ..).trans (trapsOf_cohPoke ..))
  · exact (trapsOf_modRun ..).trans (trapsOf_cohPoke ..)

@[simp] theorem trapsOf_dropMoves (s : State) (k : Cont) (f : BlockMove → Bool) : trapsOf (s.dropMoves k f) = trapsOf s := by
  simp only [State.dropMoves, trapsOf_modHub]
  refine foldl_trapsOf (fun st m => ?_) _ s
  split
  · split
    · exact trapsOf_pokeVirt ..
    · rfl
  · rfl

@[simp] theorem trapsOf_setPstate (s : State) (k : Cont) (p rung : Nat) : trapsOf (s.setPstate k p rung) = trapsOf s := by
  simp only [State.setPstate]
  split
  · rfl
  · next read => exact (trapsOf_pokeVirt ..).trans (trapsOf_readVirt read)

@[simp] theorem trapsOf_dropCont (s : State) (launch : Nat) : trapsOf (s.dropCont launch) = trapsOf s := by
  refine foldl_trapsOf (fun st k => ?_) _ s
  simp only [trapsOf_modHub]
  split <;> simp

@[simp] theorem trapsOf_setRcb (s : State) (launch st : Nat) : trapsOf (s.setRcb launch st) = trapsOf s := by
  simp only [State.setRcb]
  split
  · rfl
  · split <;> simp

@[simp] theorem trapsOf_endLaunch (s : State) (launch status : Nat) : trapsOf (s.endLaunch launch status) = trapsOf s := by
  simp only [State.endLaunch]
  split
  · rfl
  · split
    · rfl
    · exact (trapsOf_modRun ..).trans (trapsOf_modLaunch ..)

/-! ### Delivery (R187, R193) -/

/-- An escalation stops harts; the trap registers stay as delivery wrote them. -/
theorem trapsOf_escalate (s : State) (h c : Nat) (pc : Word) (taddr : Nat) : trapsOf (s.escalate h c pc taddr) = trapsOf s := by
  simp only [State.escalate]
  split
  · exact trapsOf_modHart s h _ (fun _ => rfl)
  · rw [trapsOf_endLaunch, trapsOf_setRcb]
    exact (foldl_trapsOf (fun st i => trapsOf_modHart st i _ (fun _ => by rfl)) _ _).trans (trapsOf_crewFault ..)

theorem enter_tcause (t : Hart) (g : Target) (c : Nat) : (t.enter g c).trap.tcause = t.trap.tcause := by cases g <;> rfl
theorem enter_tinfo (t : Hart) (g : Target) (c : Nat) : (t.enter g c).trap.tinfo = t.trap.tinfo := by cases g <;> rfl

/-- The cause and the report of the trap that a hart took last. -/
def causeOf (s : State) (h : Nat) : BitVec 8 × Word := ((s.hart h).trap.tcause, (s.hart h).trap.tinfo)

/-- Whatever becomes of the hart, a delivery leaves the cause and the report in its trap registers. -/
theorem causeOf_deliver (s : State) (h : Nat) (g : Target) (c taddr tinfo : Nat) (tmask : Mask) :
    causeOf (s.deliver h g c taddr tinfo tmask) h = (BitVec.ofNat 8 c, BitVec.ofNat 64 tinfo) := by
  have entered : ∀ g : Target, ∀ s1 : State, causeOf (s1.modHart h (fun u => u.enter g c)) h = causeOf s1 h := fun g s1 => by
    simp [causeOf, enter_tcause, enter_tinfo]
  have escalated : ∀ s1 : State, ∀ pc : Word, causeOf (s1.escalate h c pc taddr) h = causeOf s1 h := fun s1 pc => by
    have traps := congrFun (trapsOf_escalate s1 h c pc taddr) h
    simp only [trapsOf_eq] at traps
    simp only [causeOf, traps]
  have stopped : ∀ s1 : State, ∀ d : Nat,
      causeOf ((s1.modHart h (fun u => { u with sched := { u.sched with stopped := true } })).ras d) h = causeOf s1 h := fun s1 d => by
    have hart : ∀ st : State, (st.ras d).hart h = st.hart h := fun _ => rfl
    simp [causeOf, hart]
  have written : causeOf (s.setHart h { s.hart h with
      trap := (s.hart h).trap.report (s.hart h).mode c (s.hart h).pc taddr tinfo tmask }) h =
      (BitVec.ofNat 8 c, BitVec.ofNat 64 tinfo) := by
    simp [causeOf, TrapRegs.report]
  cases g with
  | team => exact (entered ..).trans written
  | fw =>
    simp only [State.deliver]
    split <;> simp only [entered, escalated, written]
  | guest =>
    simp only [State.deliver]
    split_ifs <;> simp only [entered, escalated, stopped, written]
  | host =>
    simp only [State.deliver]
    split_ifs <;> simp only [entered, escalated, stopped, written]

end Sys2Proof.Laws
end

section
/-! SUPPORT. The memory that a checkpoint writes: its frames and its closing record on the drives of the PARK store (R488, R492). -/
namespace Sys2Proof.Laws

open Machine

/-! ### Tables in the canonical form -/

/-- A key of a table whose entries are filtered by their keys. -/
theorem sget_filter_key {α : Type} (d : α) (m : Sparse α) (p : Nat → Bool) (k : Nat) :
    sget d (m.filter (fun c => p c.1)) k = if p k then sget d m k else d := by
  induction m with
  | nil => simp [sget]
  | cons c r ih =>
    by_cases same : c.1 = k
    · subst same
      cases keep : p c.1 <;> simp [sget, keep, ih]
    · cases keep : p c.1 <;> simp [sget, same, keep, ih]

/-- A canonical table lists a key once. -/
theorem swf_keys_nodup {α : Type} [DecidableEq α] {d : α} {m : Sparse α} (h : swf d m = true) : (m.map Prod.fst).Nodup := by
  induction m with
  | nil => exact List.nodup_nil
  | cons c r ih =>
    obtain ⟨-, rising, rest⟩ := swf_cons.1 h
    refine List.nodup_cons.2 ⟨fun listed => ?_, ih rest⟩
    obtain ⟨p, hp, same⟩ := List.mem_map.1 listed
    exact absurd (rising p hp) (by omega)

theorem sget_of_mem {α : Type} {d : α} {m : Sparse α} (once : (m.map Prod.fst).Nodup) {c : Nat × α} (hc : c ∈ m) :
    sget d m c.1 = c.2 := by
  induction m with
  | nil => cases hc
  | cons q r ih =>
    obtain ⟨fresh, rest⟩ := List.nodup_cons.1 once
    rcases List.mem_cons.1 hc with rfl | hr
    · simp [sget]
    · have other : q.1 ≠ c.1 := fun same => fresh (same ▸ List.mem_map_of_mem hr)
      simpa [sget, other] using ih rest hr

theorem sget_unlisted {α : Type} {d : α} {m : Sparse α} {k : Nat} (unlisted : ∀ c ∈ m, c.1 ≠ k) : sget d m k = d := by
  induction m with
  | nil => rfl
  | cons q r ih =>
    simpa [sget, unlisted q (by simp)] using ih fun c hc => unlisted c (by simp [hc])

/-! ### The places of the frames (R492) -/

/-- The frames of a checkpoint lie within its blocks. -/
theorem ckptPlace_lt {a o : Nat} (place : ckptPlace a = some o) : o < 4096 * ckptFrames := by
  simp only [ckptPlace] at place
  simp only [ckptFrames]
  split at place <;> simp at place <;> omega

/-- No two addresses have one place. -/
theorem ckptPlace_injective {a b o : Nat} (ha : ckptPlace a = some o) (hb : ckptPlace b = some o) : a = b := by
  simp only [ckptPlace] at ha hb
  split at ha <;> split at hb <;> simp at ha hb <;> omega

/-- The first address of a checkpoint's frames. -/
def ckptLow (block : Nat) : Nat := 8 * 2 ^ 48 + 4096 * block

theorem mem_ckptCells {s : State} {block : Nat} {q : Host.Cell} :
    q ∈ s.ckptCells block ↔ ∃ c ∈ s.mem.cells, ∃ o, ckptPlace c.1 = some o ∧ q = (ckptLow block + o, c.2) := by
  simp only [State.ckptCells, List.mem_filterMap, Option.map_eq_some_iff, ckptLow]
  simp only [eq_comm]

/-- A checkpoint writes a byte of its frames once. -/
theorem ckptCells_nodup {s : State} (wf : Memory.wf s.mem.cells = true) (block : Nat) :
    ((s.ckptCells block).map Prod.fst).Nodup := by
  have keys : (s.ckptCells block).map Prod.fst =
      (s.mem.cells.map Prod.fst).filterMap (fun a => (ckptPlace a).map (ckptLow block + ·)) := by
    simp only [State.ckptCells, List.map_filterMap, List.filterMap_map, Function.comp_def, Option.map_map, ckptLow]
  rw [keys]
  refine (swf_keys_nodup wf).filterMap fun a b k hk hl => ?_
  obtain ⟨o, ho, rfl⟩ := Option.map_eq_some_iff.1 hk
  obtain ⟨p, hp, same⟩ := Option.map_eq_some_iff.1 hl
  obtain rfl : p = o := by omega
  exact ckptPlace_injective ho hp

/-- Whether an address lies outside the frames of a checkpoint. -/
def ckptOutside (block a : Nat) : Bool := a < ckptLow block || ckptLow block + 4096 * ckptFrames ≤ a

/-- The memory of a checkpoint: what lies outside its frames, and the frames. -/
def ckptMemory (s : State) (block : Nat) : List Host.Cell :=
  Memory.setAll (s.mem.cells.filter (fun c => ckptOutside block c.1)) (s.ckptCells block)

/-- A byte outside the frames of a checkpoint reads as before. -/
theorem ckptMemory_outside (s : State) {block a : Nat} (out : a < ckptLow block ∨ ckptLow block + 4096 * ckptFrames ≤ a) :
    Memory.get (ckptMemory s block) a = s.byte a := by
  have unwritten : ∀ q ∈ s.ckptCells block, q.1 ≠ a := fun q hq same => by
    obtain ⟨c, -, o, place, rfl⟩ := mem_ckptCells.1 hq
    have := ckptPlace_lt place
    simp only at same
    omega
  refine (memory_get_setAll _ _ a unwritten).trans ?_
  refine (sget_filter_key _ _ (ckptOutside block) a).trans ?_
  rw [if_pos (by simpa [ckptOutside] using out)]
  rfl

/-- A byte of the frames of a checkpoint is that of the address it stands for. -/
theorem ckptMemory_frame {s : State} (wf : Memory.wf s.mem.cells = true) (block : Nat) {a o : Nat} (place : ckptPlace a = some o) :
    Memory.get (ckptMemory s block) (ckptLow block + o) = s.byte a := by
  by_cases listed : ∃ c ∈ s.mem.cells, c.1 = a
  · obtain ⟨c, hc, rfl⟩ := listed
    have written := memory_get_setAll_mem (s.mem.cells.filter (fun c => ckptOutside block c.1))
      (s.ckptCells block) (ckptCells_nodup wf block) (mem_ckptCells.2 ⟨c, hc, o, place, rfl⟩)
    exact written.trans (sget_of_mem (swf_keys_nodup wf) hc).symm
  · have unwritten : ∀ q ∈ s.ckptCells block, q.1 ≠ ckptLow block + o := fun q hq same => by
      obtain ⟨c, hc, p, other, rfl⟩ := mem_ckptCells.1 hq
      obtain rfl : p = o := by simpa using same
      exact listed ⟨c, hc, ckptPlace_injective other place⟩
    have erased : ¬ckptOutside block (ckptLow block + o) = true := by
      have := ckptPlace_lt place
      simp only [ckptOutside, Bool.or_eq_true, decide_eq_true_eq]
      omega
    refine (memory_get_setAll _ _ _ unwritten).trans ?_
    refine (sget_filter_key _ _ (ckptOutside block) _).trans ?_
    rw [if_neg erased]
    exact (sget_unlisted fun c hc same => listed ⟨c, hc, same⟩).symm

/-- No address below the PARK store lies in the frames of a checkpoint (R232, R488). -/
theorem below_store_outside {s : State} {a : Nat} (low : selector a < 8) :
    a < ckptLow s.ckptBlock ∨ ckptLow s.ckptBlock + 4096 * ckptFrames ≤ a := by
  have room : s.ckptBlock < 8 * driveBlocks - ckptFrames - 1 := Nat.mod_lt _ (by decide)
  simp only [selector, bits] at low
  simp only [ckptLow, ckptFrames, driveBlocks] at *
  omega

/-! ### Merging of partials (R268) -/

theorem mergePartial_run (s : State) (p : Partial) : (s.mergePartial p).run = s.run := by
  simp only [State.mergePartial]
  split <;> rfl

theorem mergeLines_run (s : State) (line n : Nat) : (s.mergeLines line n).run = s.run :=
  foldl_keeps State.run mergePartial_run _ s

theorem mergeAll_run (s : State) : s.mergeAll.run = s.run := foldl_keeps State.run (fun st k => mergeLines_run st k 1) _ s

theorem mergeAll_harts (s : State) : s.mergeAll.harts = s.harts := foldl_harts _ (fun st k => mergeLines_harts st k 1) _ s

/-! ### The closing record -/

@[simp] theorem length_toBytes (n v : Nat) : (toBytes n v).length = n := by
  induction n generalizing v with
  | zero => rfl
  | succ n ih => simp [toBytes, ih]

theorem mem_placed {a : Nat} {bs : List Byte} {p : Nat × Byte} :
    p ∈ placed a bs ↔ ∃ i, ∃ h : i < bs.length, p = (a + i, bs[i]) := by
  simp only [placed, List.mem_iff_getElem]
  constructor
  · rintro ⟨i, hi, rfl⟩
    exact ⟨i, by simpa using hi, by simp⟩
  · rintro ⟨i, hi, rfl⟩
    exact ⟨i, by simpa using hi, by simp⟩

/-- A write of an address is applied in its frame at most, or in the frame it moves to, at its place in the frame (R420). -/
theorem mem_writeAddrs {s : State} {pa a : Nat} (h : a ∈ s.writeAddrs pa) : a % 4096 = pa % 4096 := by
  simp only [State.writeAddrs] at h
  split at h
  · next m found =>
    have covered := List.find?_some found
    simp only [Bool.and_eq_true, decide_eq_true_eq] at covered
    split at h
    · rcases List.mem_pair.1 h with rfl | rfl
      · rfl
      · simp only [Mig.toNew]
        omega
    · rw [List.mem_singleton.1 h]
  · rw [List.mem_singleton.1 h]

/-- A write is applied at its own address (R420). -/
theorem self_mem_writeAddrs (s : State) (pa : Nat) : pa ∈ s.writeAddrs pa := by
  simp only [State.writeAddrs]
  split
  · split <;> simp
  · simp

/-- Where every byte put at an address is one value, and one is put or that value stands there already, it stands there after. -/
theorem memory_get_setAll_agree {m : List Host.Cell} {l : List (Nat × Byte)} {a : Nat} {v : Byte}
    (agree : ∀ q ∈ l, q.1 = a → q.2 = v) (stands : Memory.get m a = v ∨ ∃ q ∈ l, q.1 = a) :
    Memory.get (Memory.setAll m l) a = v := by
  induction l generalizing m with
  | nil => simpa [Memory.setAll] using stands
  | cons p r ih =>
    refine ih (m := Memory.set m p.1 p.2) (fun q hq => agree q (by simp [hq])) ?_
    by_cases here : p.1 = a
    · exact .inl (by simp [here, agree p (by simp) here])
    · rcases stands with old | ⟨q, hq, same⟩
      · exact .inl (by simp [here, old])
      · rcases List.mem_cons.1 hq with rfl | later
        · exact absurd same here
        · exact .inr ⟨q, later, same⟩

/-- A coherent write of bytes within one frame at homes that stand leaves them there, whatever migrates (R420). -/
theorem cohPoke_bytesAt (s : State) (by_ : Nat) {a : Nat} {bs : List Byte} (poison : List Nat) (inFrame : a % 4096 + bs.length ≤ 4096)
    (alive : ∀ i, i < bs.length → s.homeFailed (a + i) = false) : (s.cohPoke by_ (placed a bs) poison).bytesAt a bs.length = bs := by
  refine List.ext_getElem (by simp [State.bytesAt]) fun i _ hi => ?_
  simp only [State.bytesAt, List.getElem_map, List.getElem_range, cohPoke_byte]
  refine memory_get_setAll_agree (fun q hq same => ?_) (.inr ⟨(a + i, bs[i]), ?_, rfl⟩)
  · obtain ⟨p, hp, -, applied, value⟩ := mem_coherentCells.1 hq
    obtain ⟨j, hj, rfl⟩ := mem_placed.1 hp
    have offset := mem_writeAddrs applied
    simp only [same] at offset
    obtain rfl : j = i := by omega
    exact value
  · exact mem_coherentCells.2 ⟨_, mem_placed.2 ⟨i, hi, rfl⟩, alive i hi, self_mem_writeAddrs s _, rfl⟩

end Sys2Proof.Laws
end

section
/-! SUPPORT. The events of the package: parts and power (R21 to R23), links and calendars (R17, R380), other packages (R285, R489). -/
namespace Sys2Proof.Laws

open Machine

/-- An event of the package controllers leaves the harts, the memory system, the launch unit and the hub. -/
def machineKept (s t : State) : Prop := t.harts = s.harts ∧ t.mem = s.mem ∧ t.run = s.run ∧ t.hub = s.hub

theorem machineKept_rfl (s : State) : machineKept s s := ⟨rfl, rfl, rfl, rfl⟩
theorem machineKept_modPkg (s : State) (f : PkgSys → PkgSys) : machineKept s (s.modPkg f) := ⟨rfl, rfl, rfl, rfl⟩

theorem machineKept_raiseEvent (s : State) (n : Nat) : machineKept s (s.raiseEvent n) := machineKept_modPkg s _

theorem machineKept_trans {s t u : State} (first : machineKept s t) (second : machineKept t u) : machineKept s u := by
  obtain ⟨harts, mem, run, hub⟩ := first
  obtain ⟨harts', mem', run', hub'⟩ := second
  exact ⟨harts'.trans harts, mem'.trans mem, run'.trans run, hub'.trans hub⟩

theorem machineKept_ite {s a b : State} {p : Prop} [Decidable p] (yes : machineKept s a) (no : machineKept s b) :
    machineKept s (if p then a else b) := by
  by_cases h : p <;> simp [h, yes, no]

/-- PEND of an event after it was raised (R480). -/
@[simp] theorem raiseEvent_events (s : State) (n : Nat) :
    sget 0 (s.raiseEvent n).pkg.events n = sget 0 s.pkg.events n ||| 0x4000 := by simp [State.raiseEvent]

/-! ### A failed core (R23) -/

@[simp] theorem core_modCore (s : State) (c n : Nat) (f : Core → Core) :
    (s.modCore c f).core n = if c = n then f (s.core c) else s.core n := by
  simp [State.modCore, State.setCore, State.core]

/-- The cores of a list are fenced once each has been. -/
theorem core_foldl_fenced (l : List Nat) (s : State) (n : Nat) :
    ((l.foldl (fun st c => st.modCore c (fun k => { k with fenced := true })) s).core n).fenced =
      ((s.core n).fenced || decide (n ∈ l)) := by
  induction l generalizing s with
  | nil => simp
  | cons c r ih =>
    rw [List.foldl_cons, ih, core_modCore]
    by_cases here : c = n
    · simp [here]
    · simp [here, Ne.symm here]

/-- A fence of a core fences it. -/
theorem fence_core (s : State) {n : Nat} (core : n < 261) : ((s.fence (.core n)).core n).fenced = true := by
  simp only [State.fence]
  have stops : ∀ (cs : List Nat) (l : List Nat) (st : State), (l.foldl (fun st h =>
      if cs.contains (coreOf h) then st.modHart h (fun t => { t with sched := { t.sched with stopped := true } }) else st) st).cores =
      st.cores := fun cs l st => foldl_keeps State.cores (fun u h => obs_ite State.cores (by rfl) (by rfl)) l st
  have fenced := core_foldl_fenced ((List.range 261).filter (fun k => coreOnPart k (.core n))) s n
  have listed : n ∈ (List.range 261).filter (fun k => coreOnPart k (.core n)) := by simp [coreOnPart, core]
  simp only [State.core, stops] at fenced ⊢
  simpa [listed] using fenced

/-! ### Links and calendars (R17, R380) -/

@[simp] theorem link_modLink (s : State) (d n : Nat) (f : LinkSt → LinkSt) :
    (s.modLink d f).link n = if d = n then f (s.link d) else s.link n := by simp [State.modLink, State.link]
@[simp] theorem link_modCalendar (s : State) (c n : Nat) (f : Calendar → Calendar) : (s.modCalendar c f).link n = s.link n := rfl
@[simp] theorem calendar_modCalendar (s : State) (c n : Nat) (f : Calendar → Calendar) :
    (s.modCalendar c f).calendar n = if c = n then f (s.calendar c) else s.calendar n := by
  simp [State.modCalendar, State.calendar]
@[simp] theorem calendar_modLink (s : State) (d n : Nat) (f : LinkSt → LinkSt) : (s.modLink d f).calendar n = s.calendar n := rfl
@[simp] theorem calendar_send (s : State) (m : Msg) (n : Nat) : (s.send m).calendar n = s.calendar n := rfl
@[simp] theorem link_send (s : State) (m : Msg) (n : Nat) : (s.send m).link n = s.link n := rfl

theorem machineKept_modLink (s : State) (d : Nat) (f : LinkSt → LinkSt) : machineKept s (s.modLink d f) := machineKept_modPkg s _
theorem machineKept_modCalendar (s : State) (c : Nat) (f : Calendar → Calendar) : machineKept s (s.modCalendar c f) :=
  machineKept_modPkg s _

theorem machineKept_arrive (s : State) (d guest : Nat) : machineKept s (s.arrive d guest) :=
  machineKept_ite (machineKept_rfl s) (machineKept_trans (machineKept_modLink s d _) (machineKept_modCalendar ..))

/-- A flit that arrives waits at a calendar, whose slot stays (R380). -/
theorem arrive_slot (s : State) (d guest n : Nat) : ((s.arrive d guest).calendar n).slot = (s.calendar n).slot := by
  refine obs_ite (fun st : State => (st.calendar n).slot) rfl ?_
  simp only [calendar_modCalendar, calendar_modLink]
  split
  · next same => rw [same]
  · rfl

/-- A flit that arrives where flits go on stands in the receiving queue of its direction (R17). -/
theorem arrive_link (s : State) (d guest : Nat) (onward : nextStages d ≠ []) :
    (s.arrive d guest).link d = (s.link d).setOccupancy ((s.link d).occupancy + 1) := by
  simp only [State.arrive]
  rw [if_neg (by simpa using onward)]
  simp

/-- What a slot of a calendar leaves and changes (R380, R485). -/
theorem calendarSlot_forwards (cal : Nat) (s : State) : ∃ t : State, exec (.calendarSlot cal) s = .next t ∧ machineKept s t ∧
    (t.calendar cal).slot = ((s.calendar cal).slot + 1) % 64 ∧
    ((s.link cal).hold = true → t.outbox = s.outbox ∧ (t.calendar cal).ready = (s.calendar cal).ready) ∧
    (∀ f, 8 ≤ cal → s.linkFree cal = true → (s.calendar cal).slot ≠ 0 → (s.calendar cal).chosen (decide (hubPort < cal)) = some f →
      (t.calendar cal).ready = (s.calendar cal).ready.erase f ∧ (t.link f.2.1).occupancy = (s.link f.2.1).occupancy - 1 ∧
      t.outbox = if cal < hubPort then s.outbox ++ [.forwarded cal f.1] else s.outbox) := by
  have held : (s.link cal).hold = true → s.linkFree cal = false := fun hold => by simp [State.linkFree, hold]
  rw [exec_calendarSlot]
  simp only [execCalendarSlot]
  generalize owners : (if (s.calendar cal).slot == 0 then
    { s.calendar cal with owners := (s.bytesAt (s.pkg.sys.cal + 64 * cal) 64).map BitVec.toNat } else s.calendar cal) = c
  have slot : c.slot = (s.calendar cal).slot := by rw [← owners]; split <;> rfl
  have ready : c.ready = (s.calendar cal).ready := by rw [← owners]; split <;> rfl
  have same : (s.calendar cal).slot ≠ 0 → c = s.calendar cal := fun later => by rw [← owners]; simp [later]
  split
  · next wait =>
    refine ⟨_, rfl, machineKept_modCalendar s cal _, by simp [slot], fun _ => ⟨rfl, by simp [ready]⟩, fun f _ free => ?_⟩
    simp [free] at wait
  · next free =>
    have unheld : (s.link cal).hold = true → False := fun hold => by simp [held hold] at free
    split
    · next none_ =>
      refine ⟨_, rfl, machineKept_modCalendar s cal _, by simp [slot], fun hold => (unheld hold).elim, fun f _ _ later some_ => ?_⟩
      rw [same later, some_] at none_
      cases none_
    · next f chosen =>
      have moved := machineKept_trans
        (machineKept_modCalendar s cal (fun _ => { c with ready := c.ready.erase f, slot := (c.slot + 1) % 64 }))
        (machineKept_modLink _ f.2.1 (fun l => l.setOccupancy (l.occupancy - 1)))
      refine ⟨_, rfl, ?_, ?_, fun hold => (unheld hold).elim, fun g far _ later some_ => ?_⟩
      · exact machineKept_ite (machineKept_trans moved (machineKept_arrive ..)) (machineKept_ite moved moved)
      · have slotOf : ∀ {p : Prop} [Decidable p] {u v : State} {k : Nat}, (u.calendar cal).slot = k → (v.calendar cal).slot = k →
            ((if p then u else v).calendar cal).slot = k := obs_ite (fun st : State => (st.calendar cal).slot)
        refine slotOf ((arrive_slot ..).trans ?_) (slotOf ?_ ?_) <;> simp [slot]
      · rw [same later, some_] at chosen
        cases chosen
        rw [if_neg (by omega), ready]
        split <;> simp [LinkSt.setOccupancy] <;> rfl

/-- A fabric port that is taken down is down both ways (R489). -/
theorem linkDown_both (port : Nat) (s : State) : ∃ t : State, exec (.linkDown port) s = .next t ∧ machineKept s t ∧
    (port < 16 → (t.link (portOut port)).down = true ∧ (t.link (portOut port + 1)).down = true) ∧ (16 ≤ port → t = s) := by
  refine ⟨_, rfl, machineKept_ite (machineKept_rfl s) ⟨rfl, rfl, rfl, rfl⟩, fun fabric => ?_, fun other => if_pos other⟩
  rw [if_neg (by omega)]
  simp

/-! ### Other packages (R285, R464, R487, R489) -/

theorem dropHolder_kept (s : State) (h agent : Nat) (pkg : Option Nat) :
    ((s.dropHolder h agent pkg).harts, (s.dropHolder h agent pkg).pkg) = (s.harts, s.pkg) := by
  refine (foldl_keeps (fun st : State => (st.harts, st.pkg)) (fun st e =>
    foldl_keeps (fun u : State => (u.harts, u.pkg)) (fun _ _ => by rfl) _ st) _ _).trans ?_
  cases pkg <;> rfl

theorem discardRange_kept (s : State) (sel : Nat → Bool) :
    ((s.discardRange sel).harts, (s.discardRange sel).pkg) = (s.harts, s.pkg) :=
  (foldl_keeps (fun st : State => (st.harts, st.pkg)) (fun _ _ => by rfl) _ _).trans
    (foldl_keeps (fun st : State => (st.harts, st.pkg)) (fun _ _ => by rfl) _ _)

/-- An appointment changes who keeps the ownership words, and nothing else of the package controllers (R487). -/
theorem appoint_kept (s : State) (pkg : Nat) : (s.appoint pkg).harts = s.harts ∧
    (s.appoint pkg).pkg.events = s.pkg.events ∧ (s.appoint pkg).pkg.unreachable = s.pkg.unreachable := by
  simp only [State.appoint]
  split <;> exact ⟨rfl, rfl, rfl⟩

/-- A package that becomes unreachable is marked and event 0x005 is raised (R489). -/
theorem packageUnreachable_marks (s : State) {pkg : Nat} (other : pkg ≠ s.pkg.pkg) (fresh : pkg ∉ s.pkg.unreachable) :
    ∃ t : State, exec (.packageUnreachable pkg) s = .next t ∧ pkg ∈ t.pkg.unreachable ∧
      sget 0 t.pkg.events 5 = sget 0 s.pkg.events 5 ||| 0x4000 ∧ t.harts = s.harts := by
  rw [exec_packageUnreachable, execPackageUnreachable, if_neg (by simpa using other), if_neg (by simpa using fresh)]
  dsimp only
  generalize marked : s.modPkg (fun p => { p with unreachable := p.unreachable ++ [pkg] }) = s1
  generalize dropped : ((List.range 4).foldl (fun st h => st.dropHolder h 4 (some pkg)) s1).discardRange (inPackage pkg) = s2
  have kept : (s2.harts, s2.pkg) = (s1.harts, s1.pkg) := by
    rw [← dropped, discardRange_kept]
    exact foldl_keeps (fun st : State => (st.harts, st.pkg)) (fun st h => dropHolder_kept st h 4 (some pkg)) _ s1
  obtain ⟨harts, package⟩ := Prod.mk.inj kept
  obtain ⟨harts', events, unreachable⟩ := appoint_kept s2 pkg
  refine ⟨_, rfl, ?_, ?_, ?_⟩
  · change pkg ∈ (s2.appoint pkg).pkg.unreachable
    rw [unreachable, package, ← marked]
    simp
  · rw [raiseEvent_events, events, package, ← marked]
    rfl
  · change (s2.appoint pkg).harts = s.harts
    rw [harts', harts, ← marked]
    rfl

theorem le_maxN {l : List Nat} {a : Nat} (h : a ∈ l) : a ≤ maxN l := by
  have grows : ∀ (l : List Nat) (m : Nat), m ≤ l.foldl max m ∧ ∀ a ∈ l, a ≤ l.foldl max m := by
    intro l
    induction l with
    | nil => simp
    | cons b r ih =>
      intro m
      obtain ⟨base, rest⟩ := ih (max m b)
      refine ⟨(le_max_left m b).trans base, fun a ha => ?_⟩
      rcases List.mem_cons.1 ha with rfl | later
      · exact (le_max_right m a).trans base
      · exact rest a later
  exact (grows l 0).2 a h

/-- The sequencer that takes over stamps above every clock that it can reach (R285). -/
theorem sequencerReappoint_above (s : State) {clocks : List Word} (lost : s.pkg.seqPkg ∈ s.pkg.unreachable) :
    ∃ t : State, exec (.sequencerReappoint clocks) s = .next t ∧ t.harts = s.harts ∧
      (∀ p, s.lowestReachable = some p → t.pkg.seqPkg = p) ∧
      let top := sget 0 t.mem.seqStamps (if t.pkg.seqPkg = t.pkg.pkg then 3000 else 4000)
      (∀ c ∈ clocks, c.toNat < top) ∧ ∀ c ∈ s.cores, c.2.lamport.toNat < top := by
  rw [exec_sequencerReappoint, execSequencerReappoint, if_neg (by simpa using lost)]
  refine ⟨_, rfl, rfl, fun p lowest => ?_, ?_⟩
  · simp [lowest]
  · simp only [modMem_mem, modMem_pkg, beq_iff_eq, sget_sset, if_true]
    refine ⟨fun c hc => ?_, fun c hc => ?_⟩
    · have := le_maxN (List.mem_map_of_mem (f := BitVec.toNat) hc)
      omega
    · have := le_maxN (List.mem_map_of_mem (f := fun c => c.2.lamport.toNat) hc)
      omega

end Sys2Proof.Laws
end

section
/-! SUPPORT. The register of events and that of the checkpoint (R480, R492), boot and attestation (R490, R491). -/
namespace Sys2Proof.Laws

open Machine

/-! ### Events (R6, R480) -/

/-- What a write of an event's configuration word leaves of it: HOST's fields, and PEND, which a 1 clears (R6, R480). -/
theorem eventConfig_word (s : State) {n : Nat} (event : n < 1024) (mode : Mode) (value : Word) :
    (s.eventConfig n mode 0 8 value.toNat).eventWord n % 2 ^ 14 =
      (if 2 ≤ modeRank mode then value.toNat else s.eventWord n) % 2 ^ 14 ∧
    bit ((s.eventConfig n mode 0 8 value.toNat).eventWord n) 14 = (bit (s.eventWord n) 14 && !bit value.toNat 14) := by
  have old : s.eventWord n < 2 ^ 15 := Nat.mod_lt _ (by decide)
  have given : mergeBytes (putBits (s.eventWord n) 14 1 0) 0 8 value.toNat = value.toNat := by
    have := value.isLt
    simp only [mergeBytes, putBits, bits]
    omega
  have written : (s.eventConfig n mode 0 8 value.toNat).eventWord n =
      (if 2 ≤ modeRank mode then value.toNat else s.eventWord n) % 2 ^ 14 +
        b2n (bit (s.eventWord n) 14 && !bit value.toNat 14) * 2 ^ 14 := by
    simp only [State.eventConfig, given]
    rw [if_neg (by omega)]
    generalize (bit (s.eventWord n) 14 && !bit value.toNat 14) = pend
    have fields : (if modeRank mode < 2 then s.eventWord n else value.toNat) =
        if 2 ≤ modeRank mode then value.toNat else s.eventWord n := by
      split <;> split <;> omega
    rw [fields]
    generalize (if 2 ≤ modeRank mode then value.toNat else s.eventWord n) = v
    have flag : b2n pend < 2 := by cases pend <;> decide
    simp only [State.eventWord, modPkg_pkg, sget_sset, if_true, BitVec.toNat_ofNat, putBits, bits]
    omega
  rw [written]
  generalize (bit (s.eventWord n) 14 && !bit value.toNat 14) = pend
  refine ⟨by omega, ?_⟩
  have low := Nat.mod_lt (if 2 ≤ modeRank mode then value.toNat else s.eventWord n) (y := 2 ^ 14) (by decide)
  rw [bit, Nat.testBit_eq_decide_div_mod_eq]
  cases pend
  · simp [b2n]
  · simp [b2n]

/-! ### The checkpoint (R492) -/

theorem homeFailed_send (s : State) (m : Msg) (pa : Nat) : (s.send m).homeFailed pa = s.homeFailed pa := rfl

/-- A coherent write touches the memory system alone. -/
theorem cohPoke_rest (s : State) (by_ : Nat) (l : List (Nat × Byte)) (poison : List Nat) :
    (s.cohPoke by_ l poison).harts = s.harts ∧ (s.cohPoke by_ l poison).run = s.run ∧ (s.cohPoke by_ l poison).hub = s.hub ∧
      (s.cohPoke by_ l poison).pkg = s.pkg ∧ (s.cohPoke by_ l poison).outbox = s.outbox := ⟨rfl, rfl, rfl, rfl, rfl⟩

theorem raiseEvent_outbox (s : State) (n : Nat) : (s.raiseEvent n).outbox = s.outbox := rfl
theorem raiseEvent_boot (s : State) (n : Nat) : (s.raiseEvent n).pkg.boot = s.pkg.boot := rfl

theorem bytesAt_of_mem {s t : State} (same : t.mem = s.mem) (a n : Nat) : t.bytesAt a n = s.bytesAt a n := by
  simp only [State.bytesAt, State.byte, same]

/-- Once the package has drained, the frames are written to the drives, and memory below them stays (R492). -/
theorem checkpointWrite_frames (s : State) (started : s.pkg.boot.ckpt = 1) (drained : s.drained = true) :
    ∃ t : State, exec .checkpointWrite s = .next t ∧ t.harts = s.harts ∧ t.run = s.run ∧
      t.hub = s.mergeAll.hub ∧ t.pkg.boot.ckpt = 2 ∧ t.pkg.boot.ckptAt = s.ckptBlock ∧ (Memory.wf s.mem.cells = true →
        (∀ a, selector a < 8 → t.byte a = s.mergeAll.byte a) ∧
        ∀ a o, ckptPlace a = some o → t.byte (8 * 2 ^ 48 + 4096 * s.ckptBlock + o) = s.mergeAll.byte a) := by
  rw [exec_checkpointWrite, execCheckpointWrite, if_neg (by simp [started, drained])]
  exact ⟨_, rfl, mergeAll_harts s, mergeAll_run s, rfl, rfl, rfl, fun wf =>
    ⟨fun a low => ckptMemory_outside s.mergeAll (below_store_outside low),
      fun a o place => ckptMemory_frame (wf_mergeAll wf) s.ckptBlock place⟩⟩

/-- The closing record stands behind the frames and is reported, and the package goes on (R492). -/
theorem checkpointClose_record (s : State) (written : s.pkg.boot.ckpt = 2) :
    let at_ := 8 * 2 ^ 48 + 4096 * (s.pkg.boot.ckptAt + ckptFrames)
    let digest := sha384 (Config.frameOrder s.tick)
    let m := s.pkg.boot.measurement
    ∃ t : State, exec .checkpointClose s = .next t ∧ t.harts = s.harts ∧ t.run = s.run ∧ t.hub = s.hub ∧ t.pkg.boot.ckpt = 0 ∧
      sget 0 t.pkg.events 4 = sget 0 s.pkg.events 4 ||| 0x4000 ∧
      t.outbox = s.outbox ++ [.closingRecord s.pkg.pkg s.cycles.toNat m digest] ∧
      ((∀ i, i < 64 → s.homeFailed (at_ + i) = false) → t.bytesAt at_ 64 =
        toBytes 64 (Config.closingRecord s.pkg.pkg s.cycles.toNat m digest).toNat) := by
  rw [exec_checkpointClose, execCheckpointClose, if_neg (by simp [written])]
  dsimp only
  generalize message : Msg.closingRecord s.pkg.pkg s.cycles.toNat s.pkg.boot.measurement (sha384 (Config.frameOrder s.tick)) = m
  generalize (Config.closingRecord s.pkg.pkg s.cycles.toNat s.pkg.boot.measurement (sha384 (Config.frameOrder s.tick))).toNat = record
  generalize place : 8 * 2 ^ 48 + 4096 * (s.pkg.boot.ckptAt + ckptFrames) = at_
  generalize poked : (s.send m).cohPoke noHart (placed at_ (toBytes 64 record)) [] = u
  obtain ⟨harts, run, hub, package, outbox⟩ := poked ▸ cohPoke_rest (s.send m) noHart (placed at_ (toBytes 64 record)) []
  obtain ⟨harts', mem, run', hub'⟩ := machineKept_trans (machineKept_modPkg u (fun p => { p with boot := { p.boot with ckpt := 0 } }))
    (machineKept_raiseEvent _ 4)
  refine ⟨_, rfl, harts'.trans harts, run'.trans run, hub'.trans hub, ?_, ?_, ?_, fun alive => ?_⟩
  · rw [raiseEvent_boot, modPkg_pkg]
  · simp only [raiseEvent_events, modPkg_pkg, package, send_pkg]
  · rw [raiseEvent_outbox, modPkg_outbox, outbox, send_outbox]
  · have aligned : at_ % 4096 = 0 := by omega
    have stands := cohPoke_bytesAt (s.send m) noHart (a := at_) (bs := toBytes 64 record) []
      (by simp only [length_toBytes]; omega) (fun i hi => (homeFailed_send ..).trans (alive i (by rwa [length_toBytes] at hi)))
    rw [length_toBytes, poked] at stands
    exact (bytesAt_of_mem mem ..).trans stands

/-! ### Writes of special registers (R77, R78, R197) -/

/-- What a write of a special register that stands in a hart's record leaves: the general registers and the place. -/
theorem writeSr_general (t : Hart) (n : Nat) (v : Word) :
    (t.writeSr n v).s = t.s ∧ (t.writeSr n v).v = t.v ∧ (t.writeSr n v).k = t.k ∧ (t.writeSr n v).place = t.place := by
  unfold Hart.writeSr
  split <;> exact ⟨rfl, rfl, rfl, rfl⟩

/-- All that a write of a special register can do: change nothing, the crew's record, the hub's, or the hart's own beside its
general registers. -/
theorem writeSr_cases (s : State) (h n : Nat) (v : Word) :
    s.writeSr h n v = s ∨ (∃ key f, s.writeSr h n v = s.modCrew key f) ∨ (∃ f, s.writeSr h n v = s.modHub f) ∨
    ∃ u : Hart, s.writeSr h n v = s.setHart h u ∧
      u.s = (s.hart h).s ∧ u.v = (s.hart h).v ∧ u.k = (s.hart h).k ∧ u.place = (s.hart h).place := by
  unfold State.writeSr
  split
  · split
    · exact .inr (.inl ⟨_, _, rfl⟩)
    · exact .inl rfl
  · split
    · unfold State.setAmax
      split
      · exact .inr (.inl ⟨_, _, rfl⟩)
      · exact .inr (.inr (.inr ⟨_, rfl, rfl, rfl, rfl, rfl⟩))
    · split
      · exact .inr (.inr (.inl ⟨_, rfl⟩))
      · exact .inr (.inr (.inr ⟨_, rfl, writeSr_general ..⟩))

/-- A write of a special register leaves the package controllers, the threads of the distributor and memory. -/
theorem writeSr_kept (s : State) (h n : Nat) (v : Word) : (s.writeSr h n v).pkg = s.pkg ∧
    (s.writeSr h n v).run.distThreads = s.run.distThreads ∧ (s.writeSr h n v).mem = s.mem := by
  rcases writeSr_cases s h n v with same | ⟨_, _, crew⟩ | ⟨_, hub⟩ | ⟨_, hart, -⟩
  · simp only [same, and_self]
  · rw [crew]; exact ⟨rfl, rfl, rfl⟩
  · rw [hub]; exact ⟨rfl, rfl, rfl⟩
  · rw [hart]; exact ⟨rfl, rfl, rfl⟩

/-- A write of a special register of one hart leaves the others. -/
theorem writeSr_others (s : State) (h n : Nat) (v : Word) {g : Nat} (other : g ≠ h) : (s.writeSr h n v).hart g = s.hart g := by
  rcases writeSr_cases s h n v with same | ⟨_, _, crew⟩ | ⟨_, hub⟩ | ⟨_, hart, -⟩
  · rw [same]
  · rw [crew]; rfl
  · rw [hub]; rfl
  · simp [hart, Ne.symm other]

/-- A hart whose general registers and place are another's reads as it, flags aside. -/
theorem registersKept_of_general {u t : Hart} (scalars : t.s = u.s) (vectors : t.v = u.v) (predicates : t.k = u.k)
    (place : t.place = u.place) : Safety.registersKept { u with fflags := t.fflags } t :=
  ⟨fun r => by simp only [Hart.getS, scalars], fun r l => by simp only [Hart.getV, vectors],
    fun r => by simp only [Hart.getK, Hart.W, predicates, place], rfl⟩

/-- A write of a special register leaves the general registers of its hart (R77). -/
theorem writeSr_registers (s : State) (h n : Nat) (v : Word) :
    Safety.registersKept { s.hart h with fflags := ((s.writeSr h n v).hart h).fflags } ((s.writeSr h n v).hart h) := by
  rcases writeSr_cases s h n v with same | ⟨_, _, crew⟩ | ⟨_, hub⟩ | ⟨u, hart, scalars, vectors, predicates, place⟩
  · rw [same]; exact registersKept_of_general rfl rfl rfl rfl
  · rw [crew]; exact registersKept_of_general rfl rfl rfl rfl
  · rw [hub]; exact registersKept_of_general rfl rfl rfl rfl
  · rw [hart, hart_setHart, if_pos rfl]
    exact registersKept_of_general scalars vectors predicates place

/-- A register that stands in the hart's own record is written there. -/
theorem writeSr_own (s : State) (h : Nat) {n : Nat} (v : Word) (tags : n ≠ 0x14) (trackers : n < 0x20 ∨ 0x27 < n) (kvdir : n ≠ 0x50) :
    s.writeSr h n v = s.modHart h (fun t => t.writeSr n v) := by
  unfold State.writeSr
  rw [if_neg (by simpa using tags), if_neg (by simp; omega), if_neg (by simpa using kvdir)]

/-- The registers that are only read (R78). -/
def readOnlySrs : List Nat :=
  [1, 2, 3, 4, 5, 6, 7, 8, 9, 10, 11, 12, 13, 14, 0x17, 0x30, 0x31, 0x40, 0x41, 0x42, 0x43, 0x60, 0x61]

/-- A write of a register that is only read changes nothing (R8, R78). -/
theorem writeSr_readOnly (s : State) (h : Nat) {n : Nat} (v : Word) (only : n ∈ readOnlySrs) :
    s.writeSr h n v = s.modHart h (fun u => u) := by
  have place : ∀ n ∈ readOnlySrs, n ≠ 0x14 ∧ (n < 0x20 ∨ 0x27 < n) ∧ n ≠ 0x50 := by decide
  have ignored : ∀ n ∈ readOnlySrs, ∀ t : Hart, t.writeSr n v = t := by simp [readOnlySrs, Hart.writeSr]
  obtain ⟨tags, trackers, kvdir⟩ := place n only
  rw [writeSr_own s h v tags trackers kvdir]
  simp only [ignored n only]

/-- A write of %fpm stores RMODE 0 and 7 as 1 (R123). -/
theorem fpmStored_eq (v : Nat) :
    fpmStored v = BitVec.ofNat 7 (if v % 8 = 0 ∨ v % 8 = 7 then v - v % 8 + 1 else v) := by
  simp [fpmStored, bits, putBits]

/-! ### Boot (R490) -/

/-- The harts that a cold reset leaves in reset stand as reset leaves them; the security processor runs its own program. -/
theorem coldStart_hart (s : State) (step failure : Nat) {h : Nat} (other : h ≠ 132) : (s.coldStart step failure).hart h = Hart.init := by
  simp only [State.hart, State.coldStart, sget_sset, if_neg (Ne.symm other)]
  rfl

/-- An image that fails step 2 leaves every core but the security processor's in reset. -/
theorem coldReset_rejected (s : State) {image : FwImage} (bad : s.accepts image = false) :
    ∃ t : State, exec (.coldReset image) s = .next t ∧ t.pkg.boot.step = 2 ∧ t.pkg.boot.failure = 2 ∧
      ∀ h, h ≠ 132 → (t.hart h).sched.inReset = true := by
  rw [exec_coldReset, execColdReset, if_pos (by simp [bad])]
  refine ⟨_, rfl, rfl, rfl, fun h other => ?_⟩
  rw [coldStart_hart s 2 2 other]
  rfl

/-- A hart after boot has released some. -/
theorem hart_foldl_setHart (f : Nat → Nat) (u : Hart) (l : List Nat) (s : State) (h : Nat) :
    (l.foldl (fun st k => st.setHart (f k) u) s).hart h = if h ∈ l.map f then u else s.hart h := by
  induction l generalizing s with
  | nil => simp
  | cons k r ih =>
    rw [List.foldl_cons, ih, hart_setHart, List.map_cons]
    by_cases later : h ∈ r.map f
    · simp [later]
    · simp [later, eq_comm]

/-- What boot sets in the package controllers and in the launch unit. -/
def bootOf (s : State) : PkgSys × List Nat := (s.pkg, s.run.distThreads)

theorem bootOf_writeSr (s : State) (h n : Nat) (v : Word) : bootOf (s.writeSr h n v) = bootOf s := by
  obtain ⟨pkg, threads, -⟩ := writeSr_kept s h n v
  exact Prod.ext pkg threads

/-- What boot has set in the package controllers and in the launch unit once the host die is released (R479, R483, R490). -/
theorem coldReset_booted {s t : State} {image : FwImage} (good : s.accepts image = true)
    (run : exec (.coldReset image) s = .next t) : t.pkg.boot.step = 4 ∧ t.pkg.boot.rollback = s.pkg.boot.rollback ∧
      t.pkg.boot.measurement = sha384 (digestBytes 0 ++ digestBytes (sha384 image.bytes)) ∧
      t.pkg.pkg = image.pkg % 64 ∧ t.run.distThreads = image.distributor := by
  rw [exec_coldReset, execColdReset, if_neg (by simp [good])] at run
  have booted : ∃ p : PkgSys, bootOf t = (p, image.distributor) ∧ p.pkg = image.pkg % 64 ∧ p.boot =
      { step := 4, failure := 0, measurement := sha384 (digestBytes 0 ++ digestBytes (sha384 image.bytes)),
        rollback := s.pkg.boot.rollback, ckpt := 0, ckptAt := 0 } := by
    obtain rfl := Host.Outcome.next.inj run
    refine ⟨_, (foldl_keeps bootOf (fun st (r : Nat × Nat × Word) => bootOf_writeSr st r.1 r.2.1 r.2.2) _ _).trans <|
      (foldl_keeps bootOf (fun _ _ => by rfl) _ _).trans <| (foldl_keeps bootOf (fun _ _ => by rfl) _ _).trans <|
      (foldl_keeps bootOf (fun _ _ => by rfl) _ _).trans <| (foldl_keeps bootOf (fun _ _ => by rfl) _ _).trans <|
      (foldl_keeps bootOf (fun _ _ => by rfl) _ _).trans rfl, rfl, rfl⟩
  obtain ⟨p, booted, number, boot⟩ := booted
  obtain ⟨package, threads⟩ := Prod.mk.inj booted
  simp only [package, boot, number, threads, and_self]

/-- The harts after boot, where the image sets no register: those that it releases, and the others as reset leaves them. -/
theorem coldReset_harts {s t : State} {image : FwImage} (good : s.accepts image = true) (none_ : image.registers = [])
    (run : exec (.coldReset image) s = .next t) (h : Nat) : t.hart h =
      if h < 128 ∧ h ∉ image.distributor then Hart.started .host image.hostPc
      else if 128 ≤ h ∧ h < 132 then Hart.started .fw image.fwPc
      else (s.coldStart 4 0).hart h := by
  rw [exec_coldReset, execColdReset, if_neg (by simp [good])] at run
  obtain rfl := Host.Outcome.next.inj run
  have threads : h ∈ ((List.range 128).filter (fun h => !image.distributor.contains h)).map (fun k => k) ↔
      h < 128 ∧ h ∉ image.distributor := by simp
  have service : h ∈ (List.range 4).map (128 + ·) ↔ 128 ≤ h ∧ h < 132 := by
    simp only [List.mem_map, List.mem_range]
    exact ⟨fun ⟨k, hk, same⟩ => by omega, fun between => ⟨h - 128, by omega, by omega⟩⟩
  rw [none_, List.foldl_nil, hart_foldl_setHart (fun k => k), hart_foldl_setHart (128 + ·)]
  refine if_congr threads rfl (if_congr service rfl ?_)
  refine (foldl_keeps (State.hart · h) (fun _ _ => by rfl) _ _).trans <|
    (foldl_keeps (State.hart · h) (fun _ _ => by rfl) _ _).trans <| (foldl_keeps (State.hart · h) (fun _ _ => by rfl) _ _).trans ?_
  simp only [modHub_hart, modRun_hart, modPkg_hart]

end Sys2Proof.Laws
end

section
/-! SUPPORT. Each event of the package, and each write of a hart's registers from outside, in the terms of the obligation. -/
namespace Sys2Proof.Laws

open Machine

/-! ### Parts, power and refresh (R21 to R23, R238) -/

theorem core_ras (s : State) (detail n : Nat) : (s.ras detail).core n = s.core n := rfl

/-- A core that fails is fenced (R23). -/
theorem deviceLevelFault_core (s : State) {n : Nat} (core : n < 261) :
    ∃ t : State, exec (.deviceLevelFault (.core n)) s = .next t ∧ (t.core n).fenced = true := by
  rw [exec_deviceLevelFault, execDeviceLevelFault]
  exact ⟨_, rfl, by rw [core_ras, fence_core _ core]⟩

/-- A second sample of a period of the power controller changes nothing that shows (R22). -/
theorem powerSample_again (s : State) (mw : Nat) (sampled : s.pkg.sampled = s.powerPeriod) :
    ∃ t : State, exec (.powerSample mw) s = .next t ∧ machineKept s t ∧ t.pkg.power = s.pkg.power :=
  ⟨_, rfl, machineKept_modPkg s _, by simp [sampled]⟩

/-- The first sample of a period moves the power step (R21, R22). -/
theorem powerSample_first (s : State) (mw : Nat) (due : s.pkg.sampled ≠ s.powerPeriod) :
    ∃ t : State, exec (.powerSample mw) s = .next t ∧ machineKept s t ∧ t.pkg.sampled = s.cycles.toNat / 4096 ∧
      t.pkg.power = if s.pkg.coolant = true then 7 else if 3200000 < mw then min 7 (s.pkg.power + 1)
        else if mw < 3000000 then s.pkg.power - 1 else s.pkg.power :=
  ⟨_, rfl, machineKept_modPkg s _, rfl, by simp [due]⟩

/-- A coolant fault holds step 7 and is a RAS event (R21). -/
theorem coolantFault_holds (s : State) : ∃ t : State, exec .coolantFault s = .next t ∧ machineKept s t ∧
    t.pkg.power = 7 ∧ t.pkg.coolant = true ∧ sget 0 t.pkg.events 2 = sget 0 s.pkg.events 2 ||| 0x4000 :=
  ⟨_, rfl, ⟨rfl, rfl, rfl, rfl⟩, rfl, rfl, by simp only [State.ras, send_pkg, raiseEvent_events, modPkg_pkg]⟩

/-- The rate of refresh of a layer follows its temperature (R238). -/
theorem refreshRateChange_rate (s : State) (layer : Nat) (mc : Int) :
    let r := sget 0 s.pkg.refresh layer
    let up := if 95000 ≤ mc then 2 else if 85000 ≤ mc then 1 else 0
    ∃ t : State, exec (.refreshRateChange layer mc) s = .next t ∧ machineKept s t ∧ sget 0 t.pkg.refresh layer =
      if r < up then up else if r = 2 ∧ mc ≤ 92000 then 1 else if r = 1 ∧ mc ≤ 82000 then 0 else r := by
  refine ⟨_, rfl, machineKept_modPkg s _, ?_⟩
  simp only [modPkg_pkg, sget_sset, if_true, Bool.and_eq_true, beq_iff_eq, decide_eq_true_eq, gt_iff_lt, ge_iff_le]

/-! ### Links (R17) -/

/-- A flit that comes stands in the receiving queue, whose occupancy raises HOLD and clears it (R17). -/
theorem flitArrival_queues (s : State) {link : Nat} (guest : Nat) (comes : s.canArrive link = true) (onward : nextStages link ≠ []) :
    ∃ t : State, exec (.flitArrival link guest) s = .next t ∧ machineKept s t ∧ (t.link link).occupancy = (s.link link).occupancy + 1 ∧
      (t.link link).hold = if 384 ≤ (s.link link).occupancy + 1 then true
        else if (s.link link).occupancy + 1 ≤ 256 then false else (s.link link).hold := by
  rw [exec_flitArrival, execFlitArrival, if_pos comes]
  refine ⟨_, rfl, machineKept_arrive s link guest, ?_⟩
  simp only [arrive_link s link guest onward, LinkSt.setOccupancy, ge_iff_le, and_self]

/-! ### Registers of events, of the checkpoint and of the system (R480, R482, R483, R492) -/

/-- A doorbell of 8 bytes raises the event that it names, if it is one of software's, and any other nothing (R482). -/
theorem eventDoorbell_raises (s : State) (width : Nat) (value : Word) :
    (width = 8 → 0x100 ≤ value.toNat → value.toNat < 0x400 → ∃ t : State, exec (.eventDoorbell width value) s = .next t ∧
      machineKept s t ∧ sget 0 t.pkg.events value.toNat = sget 0 s.pkg.events value.toNat ||| 0x4000) ∧
    (width ≠ 8 ∨ value.toNat < 0x100 ∨ 0x400 ≤ value.toNat → exec (.eventDoorbell width value) s = .next s) := by
  rw [exec_eventDoorbell, execEventDoorbell, State.ringDoorbell]
  refine ⟨fun whole software known => ?_, fun other => ?_⟩
  · rw [if_pos (by simp [whole, software, known])]
    exact ⟨_, rfl, machineKept_raiseEvent .., raiseEvent_events ..⟩
  · rw [if_neg (by simp; omega)]

/-- A write of a configuration word that is none is ignored, and one of an event takes its fields by their access (R480). -/
theorem eventConfigWrite_fields (s : State) (n : Nat) (mode : Mode) (value : Word) :
    (1024 ≤ n → exec (.eventConfigWrite n mode value) s = .next s) ∧
    (n < 1024 → ∃ t : State, exec (.eventConfigWrite n mode value) s = .next t ∧ machineKept s t ∧
      t.eventWord n % 2 ^ 14 = (if 2 ≤ modeRank mode then value.toNat else s.eventWord n) % 2 ^ 14 ∧
      bit (t.eventWord n) 14 = (bit (s.eventWord n) 14 && !bit value.toNat 14)) := by
  rw [exec_eventConfigWrite, execEventConfigWrite]
  refine ⟨fun none_ => ?_, fun event => ⟨_, rfl, ?_, eventConfig_word s event mode value⟩⟩
  · rw [State.eventConfig, if_pos none_]
  · rw [State.eventConfig, if_neg (by omega)]
    exact machineKept_modPkg s _

/-- HOST starts a checkpoint with a 1, where none is under way (R492). -/
theorem ckpt_starts (s : State) (mode : Mode) (value : Word) : ∃ t : State, exec (.ckpt mode value) s = .next t ∧ machineKept s t ∧
    t.pkg.boot.ckpt = if 2 ≤ modeRank mode ∧ value.toNat = 1 ∧ s.pkg.boot.ckpt = 0 then 1 else s.pkg.boot.ckpt := by
  rw [exec_ckpt, execCkpt, State.startCheckpoint]
  refine ⟨_, rfl, machineKept_ite (machineKept_modPkg s _) (machineKept_rfl s), ?_⟩
  split <;> simp_all

/-- Firmware writes the words of the system block that it may (R483). -/
theorem systemBlockWrite_fw (s : State) (word : Nat) (value : Word) :
    ∃ t : State, exec (.systemBlockWrite .fw word value) s = .next t ∧ machineKept s t ∧
      t.pkg.sys = s.pkg.sys.write word value.toNat := ⟨_, rfl, machineKept_modPkg s _, rfl⟩

/-! ### Boot and attestation (R490, R491) -/

/-- An image passes step 2 of boot by its signature and its version (R490). -/
theorem accepts_iff (s : State) (image : FwImage) : s.accepts image = true ↔
    ecdsaVerify Config.vendorKey (sha384 image.bytes) image.signature = true ∧ s.pkg.boot.rollback ≤ image.version := by
  simp [State.accepts]

/-- A boot that verifies its image releases the service cores and the host threads that it has not given to the distributor. -/
theorem coldReset_accepted (s : State) {image : FwImage} (good : s.accepts image = true) :
    ∃ t : State, exec (.coldReset image) s = .next t ∧ t.pkg.boot.step = 4 ∧ t.pkg.boot.rollback = s.pkg.boot.rollback ∧
      t.pkg.boot.measurement = sha384 (digestBytes 0 ++ digestBytes (sha384 image.bytes)) ∧
      t.pkg.pkg = image.pkg % 64 ∧ t.run.distThreads = image.distributor ∧ (image.registers = [] →
      (∀ k, k < 4 → (t.hart (128 + k)).mode = .fw ∧ (t.hart (128 + k)).pc = BitVec.ofNat 64 image.fwPc) ∧
      (∀ h, h < 128 → h ∉ image.distributor → (t.hart h).mode = .host ∧ (t.hart h).pc = BitVec.ofNat 64 image.hostPc ∧
        (t.hart h).sched.inReset = false) ∧
      ∀ h, 256 ≤ h → t.hart h = Hart.init) := by
  obtain ⟨t, run⟩ : ∃ t : State, exec (.coldReset image) s = .next t := by
    rw [exec_coldReset, execColdReset, if_neg (by simp [good])]
    exact ⟨_, rfl⟩
  obtain ⟨step, rollback, measurement, number, threads⟩ := coldReset_booted good run
  refine ⟨t, run, step, rollback, measurement, number, threads, fun none_ => ?_⟩
  have harts := coldReset_harts good none_ run
  refine ⟨fun k hk => ?_, fun h host kept => ?_, fun h compute => ?_⟩
  · rw [harts, if_neg (by omega), if_pos (by omega)]
    exact ⟨rfl, rfl⟩
  · rw [harts, if_pos ⟨host, kept⟩]
    exact ⟨rfl, rfl, rfl⟩
  · rw [harts, if_neg (by omega), if_neg (by omega), coldStart_hart s 4 0 (by omega)]

/-- The reply to an attestation request begins with its nonce (R491). -/
theorem attestationRequest_nonce (s : State) (nonce : BitVec 256) : ∃ (t : State) (reply : List Byte),
    exec (.attestationRequest nonce) s = .next t ∧ machineKept s t ∧ t.outbox = s.outbox ++ [.attestation reply] ∧
      reply.take 32 = toBytes 32 nonce.toNat := by
  refine ⟨_, _, rfl, ⟨rfl, rfl, rfl, rfl⟩, rfl, ?_⟩
  rw [List.append_assoc, List.append_assoc, List.take_left' (length_toBytes ..)]

/-! ### Host events and harts (R192, R199, R427, R481) -/

/-- A thread takes an EXTERNAL-EVENT that is due with its cause and its number (R481). -/
theorem externalEvent_takes (s : State) {h n : Nat} (due : s.eventDue h = some n) (first : preemptFirst (s.hart h) = false)
    (note : s.noteDue h = false) : ∃ t : State, exec (.externalEvent h) s = .next t ∧ t = s.takeEvent h n ∧
      (t.hart h).trap.tcause = 0x15 ∧ (t.hart h).trap.tinfo = BitVec.ofNat 64 n := by
  have taken : exec (.externalEvent h) s = .next (s.takeEvent h n) := by
    simp [exec_externalEvent, execExternalEvent, due, first, note]
  obtain ⟨cause, info⟩ := Prod.mk.inj (causeOf_deliver (s.modPkg (fun p =>
    { p with events := sset 0 p.events n (sget 0 p.events n &&& ~~~0x4000) })) h (atLeastMode (s.hart h) (s.extTarget (s.hart h) n))
    0x15 0 n 0)
  exact ⟨_, taken, rfl, cause, info⟩

/-- A thread takes a MIGRATION-NOTIFY where one is due and PREEMPT is not before it (R192, R427). -/
theorem migrationNotify_takes (s : State) (h : Nat) :
    (preemptFirst (s.hart h) = true ∨ s.noteDue h = false → exec (.migrationNotify h) s = .next s) ∧
    (preemptFirst (s.hart h) = false → s.noteDue h = true → exec (.migrationNotify h) s = .next (s.takeNote h)) := by
  rw [exec_migrationNotify, execMigrationNotify]
  refine ⟨fun held => ?_, fun first due => ?_⟩
  · rw [if_neg (by rcases held with held | held <;> simp [held])]
  · rw [if_pos (by simp [first, due])]

/-- A service core that is restarted goes on where HALT stopped it (R199). -/
theorem serviceCoreRestart_continues (s : State) {k : Nat} (service : k < 4) : ∃ t : State, exec (.serviceCoreRestart k) s = .next t ∧
    (t.hart (128 + k)).sched.halted = false ∧ (t.hart (128 + k)).pc = (s.hart (128 + k)).pc ∧ t.mem = s.mem ∧
      ∀ h, h ≠ 128 + k → t.hart h = s.hart h := by
  rw [exec_serviceCoreRestart, execServiceCoreRestart, if_pos service]
  exact ⟨_, rfl, by simp, by simp, rfl, fun h other => by simp [Ne.symm other]⟩

/-! ### Writes of a hart's registers (R76, R77, R123, R126) -/

/-- A change of one hart changes it, no other, and no memory. -/
theorem modHart_kept (s : State) (h : Nat) (f : Hart → Hart) : (s.modHart h f).mem = s.mem ∧
    (s.modHart h f).hart h = f (s.hart h) ∧ ∀ g, g ≠ h → (s.modHart h f).hart g = s.hart g :=
  ⟨rfl, by simp, fun g other => by simp [Ne.symm other]⟩

/-- A write of %live narrows it and %exec; a hart without live lanes has exited (R76). -/
theorem liveWrite_narrows (s : State) (h : Nat) (value : Mask) : ∃ t : State, exec (.liveWrite h value) s = .next t ∧ t.mem = s.mem ∧
    (t.hart h).live = value &&& (s.hart h).live ∧ (t.hart h).exec = (s.hart h).exec &&& (value &&& (s.hart h).live) ∧
      ((t.hart h).live = 0 → (t.hart h).sched.exited = true) ∧ ∀ g, g ≠ h → t.hart g = s.hart g := by
  obtain ⟨mem, hart, others⟩ := modHart_kept s h (fun t => t.setLive value)
  refine ⟨_, rfl, mem, ?_, ?_, fun gone => ?_, others⟩
  · rw [hart, Hart.setLive]
  · rw [hart, Hart.setLive]
  · rw [hart, Hart.setLive] at gone ⊢
    rw [if_pos (by simpa using gone)]

/-- A write of %fpm changes it alone (R123). -/
theorem fpmWrite_stores (s : State) (h : Nat) (value : Word) : ∃ t : State, exec (.fpmWrite h value) s = .next t ∧ t.mem = s.mem ∧
    (∀ g, g ≠ h → t.hart g = s.hart g) ∧
      let low := value.toNat % 8
      t.hart h = { s.hart h with fpm := BitVec.ofNat 7 (if low = 0 ∨ low = 7 then value.toNat - low + 1 else value.toNat) } := by
  obtain ⟨mem, hart, others⟩ := modHart_kept s h (fun t => t.writeSr 0x012 value)
  refine ⟨_, rfl, mem, others, ?_⟩
  dsimp only
  rw [← fpmStored_eq]
  exact hart

/-- A write of %fflags changes them alone, once earlier instructions have set theirs (R126). -/
theorem fflagsAccess_stores (s : State) (h : Nat) (v : Word) (settled : s.flagsSettled h = true) :
    ∃ t : State, exec (.fflagsAccess h (some v)) s = .next t ∧ t.mem = s.mem ∧
      t.hart h = { s.hart h with fflags := v.setWidth 5 } ∧ ∀ g, g ≠ h → t.hart g = s.hart g := by
  rw [exec_fflagsAccess]
  simp only [execFflagsAccess]
  rw [if_pos settled]
  obtain ⟨mem, hart, others⟩ := modHart_kept s h (fun t => t.writeSr 0x013 v)
  exact ⟨_, rfl, mem, hart, others⟩

/-- A write of a special register that is unassigned or Ailith's own is ILLEGAL (R77). -/
theorem registerWrite_illegal (s : State) (h reg : Nat) (value : Word) (barred : srAssigned reg = false ∨ reg = 0x15 ∨ reg = 0x16) :
    exec (.registerWrite h reg value) s = .next (s.takeTrap h 1 0 (hostDie h + 8 * 16) 0) := by
  rw [exec_registerWrite, execRegisterWrite, if_pos (by rcases barred with b | b | b <;> simp [b])]

/-- A write of a special register above the hart's mode is PRIVILEGED (R6, R77). -/
theorem registerWrite_privileged (s : State) (h reg : Nat) (value : Word) (assigned : srAssigned reg = true) (hw : reg ≠ 0x15)
    (hw' : reg ≠ 0x16) (above : modeRank (s.hart h).mode < srRank reg ∨ (reg = 0x50 ∧ (s.hart h).mode = .user)) :
    exec (.registerWrite h reg value) s = .next (s.takeTrap h 0x16 0 reg 0) := by
  rw [exec_registerWrite, execRegisterWrite, if_neg (by simp [assigned, hw, hw']), if_pos (by simpa using above)]

/-- Any other write of a special register takes place (R77). -/
theorem registerWrite_writes (s : State) (h reg : Nat) (value : Word) (assigned : srAssigned reg = true) (hw : reg ≠ 0x15)
    (hw' : reg ≠ 0x16) (within : srRank reg ≤ modeRank (s.hart h).mode) (guest : ¬(reg = 0x50 ∧ (s.hart h).mode = .user)) :
    exec (.registerWrite h reg value) s = .next (s.writeSr h reg value) := by
  rw [exec_registerWrite, execRegisterWrite, if_neg (by simp [assigned, hw, hw']),
    if_neg (by simpa using ⟨within, fun kvdir user => guest ⟨kvdir, user⟩⟩)]

/-- What a write of a trap vector or of a saved pc stores (R77, R80). -/
theorem writeSr_vectors (s : State) (h : Nat) (v : Word) :
    ((s.writeSr h 0x100 v).hart h).sup.gtvec = v ∧ ((s.writeSr h 0x102 v).hart h).sup.gepc = v ∧
    ((s.writeSr h 0x200 v).hart h).sup.htvec = v ∧ ((s.writeSr h 0x300 v).hart h).sup.fwtvec = v := by
  refine ⟨?_, ?_, ?_, ?_⟩ <;>
    rw [writeSr_own s h v (by decide) (by decide) (by decide), hart_modHart, if_pos rfl, Hart.writeSr]

end Sys2Proof.Laws
end

section
/-! OBLIGATION O55. Events of the package and register writes from outside. -/
namespace Sys2Proof.Laws

open Machine

/-- Settles O55: each event of the package and each write of a hart's registers from outside, by the lemma that says what it does. -/
theorem packageEvents : Obligations.PackageEvents := by
  unfold Obligations.PackageEvents
  intro s
  dsimp only
  refine ⟨fun n => deviceLevelFault_core s, powerSample_again s, powerSample_first s, coolantFault_holds s,
    ⟨_, rfl, machineKept_modPkg s _, rfl, rfl⟩, fun link guest stopped => ?_, fun link guest => flitArrival_queues s guest,
    fun cal => calendarSlot_forwards cal s, fun port => linkDown_both port s,
    fun pkg => packageUnreachable_marks s, fun pkg other lost => ?_, fun clocks => sequencerReappoint_above s,
    refreshRateChange_rate s, fun n => ⟨_, rfl, machineKept_raiseEvent s n, raiseEvent_events s n⟩,
    eventDoorbell_raises s, eventConfigWrite_fields s, ckpt_starts s,
    fun idle => ?_, checkpointWrite_frames s, checkpointClose_record s,
    fun image => ⟨fun bad => ?_, fun good => ?_⟩, attestationRequest_nonce s,
    fun mode word value below => ?_, fun word value => ?_,
    migrationNotify_takes s, fun h n => externalEvent_takes s, fun k => serviceCoreRestart_continues s,
    fun h value => ?_, liveWrite_narrows s, fpmWrite_stores s, fun h => ⟨rfl, fflagsAccess_stores s h⟩,
    registerWrite_illegal s, registerWrite_privileged s, fun h reg value assigned hw hw' within guest => ?_,
    fun guest value => rfl⟩
  · rw [exec_flitArrival, execFlitArrival, if_neg (by simp [stopped])]
  · rw [exec_packageUnreachable, execPackageUnreachable, if_neg (by simpa using other), if_pos (by simpa using lost)]
  · rw [exec_checkpointWrite, execCheckpointWrite, if_pos (by simpa using idle)]
  · exact coldReset_rejected s (Bool.eq_false_iff.2 fun good => bad ((accepts_iff s image).1 good))
  · exact coldReset_accepted s ((accepts_iff s image).2 good)
  · rw [exec_systemBlockWrite, execSystemBlockWrite, if_neg (by simpa using below)]
  · exact systemBlockWrite_fw s word value
  · obtain ⟨mem, hart, others⟩ := modHart_kept s h (fun t => t.setExec value)
    exact ⟨_, rfl, mem, hart, others⟩
  · obtain ⟨-, -, mem⟩ := writeSr_kept s h reg value
    obtain ⟨gtvec, gepc, htvec, fwtvec⟩ := writeSr_vectors s h value
    refine ⟨_, registerWrite_writes s h reg value assigned hw hw' within guest, mem, fun g => writeSr_others s h reg value,
      writeSr_registers s h reg value, ?_, ?_, ?_, ?_, fun only => writeSr_readOnly s h value only⟩
    · rintro rfl; exact gtvec
    · rintro rfl; exact gepc
    · rintro rfl; exact htvec
    · rintro rfl; exact fwtvec

end Sys2Proof.Laws
end

section
/-! SUPPORT. The 96-bit word: its fields, the codes of types, forms and operands, both ways (R26, R27, R29, R34, R37, R45). -/
namespace Sys2Proof.Laws

open Machine

/-! ### Bytes (R3) -/

theorem ofBytes_toBytes (n v : Nat) : ofBytes (toBytes n v) = v % 256 ^ n := by
  induction n generalizing v with
  | zero => simp [toBytes, ofBytes, Nat.mod_one]
  | succ n ih =>
    rw [toBytes, ofBytes, ih, BitVec.toNat_ofNat, Nat.pow_succ' (m := 256), Nat.mod_mul]

/-! ### Fields of a word (R27) -/

/-- Every field within its width. -/
def fieldsFit (f : Fields) : Prop :=
  f.op < 2 ^ 10 ∧ f.sub < 2 ^ 4 ∧ f.g < 2 ^ 5 ∧ f.h < 2 ^ 8 ∧ f.t < 2 ^ 5 ∧ f.d < 2 ^ 20 ∧ f.a < 2 ^ 20 ∧ f.b < 2 ^ 20 ∧
  f.rm < 2 ^ 3 ∧ f.top < 2 ^ 1

theorem toWord_lt {f : Fields} (fit : fieldsFit f) : f.toWord < 2 ^ 96 := by
  unfold fieldsFit at fit
  unfold Fields.toWord
  omega

theorem ofWord_toWord {f : Fields} (fit : fieldsFit f) : Fields.ofWord f.toWord = f := by
  obtain ⟨op, sub, g, h, t, d, a, b, rm, top⟩ := f
  simp only [fieldsFit] at fit
  simp only [Fields.ofWord, Fields.toWord, bits, Fields.mk.injEq]
  omega

theorem toWord_ofWord {w : Nat} (word : w < 2 ^ 96) : (Fields.ofWord w).toWord = w := by
  simp only [Fields.ofWord, Fields.toWord, bits]
  omega

theorem bits_lt (n lo w : Nat) : bits n lo w < 2 ^ w := Nat.mod_lt _ (Nat.two_pow_pos w)

theorem fieldsFit_ofWord (w : Nat) : fieldsFit (Fields.ofWord w) :=
  ⟨bits_lt .., bits_lt .., bits_lt .., bits_lt .., bits_lt .., bits_lt .., bits_lt .., bits_lt .., bits_lt .., bits_lt ..⟩

/-! ### Types and forms (R37, R45) -/

@[simp] theorem tyOfCode_tyCode (t : Ty) : tyOfCode (tyCode t) = some t := by cases t <;> rfl

theorem tyCode_lt (t : Ty) : tyCode t < 2 ^ 5 := by cases t <;> decide

theorem tyCode_of_tyOfCode {c : Nat} {t : Ty} (code : tyOfCode c = some t) : tyCode t = c := by
  unfold tyOfCode at code
  split at code <;> cases code <;> rfl

theorem opc_lt (o : Op) : o.row.opc < 2 ^ 10 := by cases o <;> decide

theorem opc_eq_of_ofCode {opc sub : Nat} {o : Op} (code : Op.ofCode opc sub = some o) : o.row.opc = opc := by
  unfold Op.ofCode at code
  split at code
  · next ownr => split at code <;> cases code <;> exact ownr.symm
  · simpa using List.find?_some code

/-- The opcode names the form, but for the two rows of OWNR, which SUB tells apart. -/
theorem ofCode_opc {o : Op} {sub : Nat} (legal : sub ∈ o.row.subs) : Op.ofCode o.row.opc sub = some o := by
  cases o
  case ownrRequest =>
    obtain rfl : sub = 0 := List.mem_singleton.1 legal
    rfl
  case ownrRelease =>
    obtain rfl : sub = 1 := List.mem_singleton.1 legal
    rfl
  all_goals rfl

theorem opc_ne_mbr {o : Op} (row : o ≠ .mbr) : o.row.opc ≠ 0x144 := by
  cases o
  case mbr => exact absurd rfl row
  all_goals decide

/-! ### Operands (R29, R34) -/

/-- One bit as a number. -/
theorem b2n_bit (n i : Nat) : b2n (bit n i) = bits n i 1 := by
  have two := Nat.mod_two_eq_zero_or_one (n / 2 ^ i)
  simp only [b2n, bit, bits, Nat.testBit_eq_decide_div_mod_eq, Nat.pow_one, decide_eq_true_eq]
  split <;> omega

theorem b2n_le (e : Bool) : b2n e ≤ 1 := by cases e <;> decide

theorem bit_eq {n i : Nat} {e : Bool} (same : bits n i 1 = b2n e) : bit n i = e := by
  rw [← b2n_bit] at same
  revert same
  cases bit n i <;> cases e <;> decide

/-- The field of a register operand: its kind, E, modifier bits and register number, each where R29 has it. -/
theorem registerField {kind f : Nat} {r : BitVec 8} {e : Bool} {m : BitVec 7} (inField : kind < 16)
    (field : f = kind * 2 ^ 16 + b2n e * 2 ^ 15 + m.toNat * 2 ^ 8 + r.toNat) :
    bits f 16 4 = kind ∧ bit f 15 = e ∧ BitVec.ofNat 7 (bits f 8 7) = m ∧ BitVec.ofNat 8 f = r := by
  have le := b2n_le e
  refine ⟨by unfold bits; omega, bit_eq (by unfold bits; omega), ?_, ?_⟩
  · apply BitVec.eq_of_toNat_eq
    rw [BitVec.toNat_ofNat, bits]
    omega
  · apply BitVec.eq_of_toNat_eq
    rw [BitVec.toNat_ofNat]
    omega

/-- The field of a predicate register: its kind, E and register number, and 0 between them. -/
theorem predicateField {f : Nat} {r : BitVec 4} {e : Bool} (field : f = 3 * 2 ^ 16 + b2n e * 2 ^ 15 + r.toNat) :
    bits f 16 4 = 3 ∧ bit f 15 = e ∧ bits f 4 11 = 0 ∧ BitVec.ofNat 4 f = r := by
  have le := b2n_le e
  refine ⟨by unfold bits; omega, bit_eq (by unfold bits; omega), by unfold bits; omega, ?_⟩
  apply BitVec.eq_of_toNat_eq
  rw [BitVec.toNat_ofNat]
  omega

/-- The field of an operand that is a number: its kind, the number, and 0 between them. -/
theorem numberField {kind w f : Nat} {n : BitVec w} (inField : kind < 16) (narrow : w ≤ 16)
    (field : f = kind * 2 ^ 16 + n.toNat) :
    bits f 16 4 = kind ∧ bits f w (16 - w) = 0 ∧ BitVec.ofNat w f = n := by
  have split16 : kind * 2 ^ 16 = 2 ^ w * (2 ^ (16 - w) * kind) := by
    rw [← Nat.mul_assoc, ← Nat.pow_add, Nat.add_sub_cancel' narrow, Nat.mul_comm]
  have low : n.toNat < 2 ^ 16 := n.isLt.trans_le (Nat.pow_le_pow_right (by decide) narrow)
  refine ⟨by unfold bits; omega, ?_, ?_⟩
  · rw [bits, field, split16, Nat.mul_add_div (Nat.two_pow_pos w), Nat.div_eq_of_lt n.isLt, Nat.add_zero, Nat.mul_mod_right]
  · apply BitVec.eq_of_toNat_eq
    rw [BitVec.toNat_ofNat, field, split16, Nat.mul_add_mod, Nat.mod_eq_of_lt n.isLt]

theorem fieldOf_lt (o : Operand) : fieldOf o < 2 ^ 20 := by
  cases o with
  | s r e m => have := b2n_le e; simp only [fieldOf]; omega
  | v r e m => have := b2n_le e; simp only [fieldOf]; omega
  | k r e => have := b2n_le e; simp only [fieldOf]; omega
  | _ => simp only [fieldOf]; omega

/-- An operand field of an assigned kind, with the bits 0 that its kind wants 0 (R29). -/
def fieldLegal (f : Nat) : Prop := operandKindBad f = false ∧ operandRestBad f = false

/-- The field of an operand other than WIDE is legal and reads back as the operand. -/
theorem operandOf_fieldOf {o : Operand} (narrow : kindOf o ≠ .wide) : operandOf (fieldOf o) = o ∧ fieldLegal (fieldOf o) := by
  unfold fieldLegal operandOf operandKindBad operandRestBad
  cases o with
  | none => decide
  | wide i => exact absurd rfl narrow
  | s r e m =>
    obtain ⟨kind, he, hm, hr⟩ := registerField (f := fieldOf (.s r e m)) (by decide) rfl
    simp [kind, he, hm, hr]
  | v r e m =>
    obtain ⟨kind, he, hm, hr⟩ := registerField (f := fieldOf (.v r e m)) (by decide) rfl
    simp [kind, he, hm, hr]
  | k r e =>
    obtain ⟨kind, he, rest, hr⟩ := predicateField (f := fieldOf (.k r e)) rfl
    simp [kind, he, rest, hr]
  | sr n | imm n | acc n | chk n | bar n | tag n | spa n =>
    generalize field : fieldOf _ = f
    obtain ⟨kind, rest, number⟩ := numberField (n := n) (by decide) (by decide) field.symm
    simp [kind, rest, number]

/-- No bit of a legal operand field is dropped. -/
theorem fieldOf_operandOf {f : Nat} (field : f < 2 ^ 20) (legal : fieldLegal f) : fieldOf (operandOf f) = f := by
  obtain ⟨kindOk, restOk⟩ := legal
  have kinds : bits f 16 4 ≤ 10 := by simpa [operandKindBad, Nat.lt_succ_iff] using kindOk
  unfold operandRestBad at restOk
  unfold operandOf
  interval_cases kind : bits f 16 4 <;>
    simp only [fieldOf, b2n_bit, BitVec.toNat_ofNat, bne_eq_false_iff_eq] at restOk ⊢ <;> unfold bits at * <;> omega

end Sys2Proof.Laws
end

section
/-! SUPPORT. The decoder and the encoder: what each accepts, and that each undoes the other (R27, R34, R39, R43). -/
namespace Sys2Proof.Laws

open Machine

/-! ### Forms and instructions (R45) -/

theorem form_ofArgs {o : Op} (x : Args) (row : o ≠ .mbr) : Machine.Instr.form? (Machine.Instr.ofArgs o x) = some (o, x) := by
  cases o
  case mbr => exact absurd rfl row
  all_goals rfl

theorem ofArgs_of_form {i : Instr} {o : Op} {x : Args} (form : Machine.Instr.form? i = some (o, x)) :
    Machine.Instr.ofArgs o x = i ∧ o ≠ .mbr := by
  cases i <;> cases form <;> exact ⟨rfl, by decide⟩

theorem encode_of_form {i : Instr} {o : Op} {x : Args} (form : Machine.Instr.form? i = some (o, x)) :
    encode i = some (fieldsOfArgs o x).toWord := by
  unfold encode
  split
  · cases form
  · rw [form]; rfl

theorem wellFormed_of_form {i : Instr} {o : Op} {x : Args} (form : Machine.Instr.form? i = some (o, x)) :
    i.wellFormed = true ↔ checkArgs o x = none := by
  unfold Instr.wellFormed
  split
  · cases form
  · rw [form]; exact beq_iff_eq

theorem encodable_iff_encode (i : Instr) : i.encodable = true ↔ ∃ w, encode i = some w := by
  unfold Instr.encodable encode
  split
  · simp
  · simp [Option.isSome_iff_exists]

/-! ### Words of format M (R39) -/

theorem mbrWord_lt (x : MbrArgs) : mbrWord x < 2 ^ 96 := by
  unfold mbrWord; omega

theorem mbrOf_mbrWord (x : MbrArgs) : mbrOf (mbrWord x) = x := by
  obtain ⟨g, h, o0, o1, o2, o3⟩ := x
  simp only [mbrOf, mbrWord, MbrArgs.mk.injEq]
  refine ⟨?_, ?_, ?_, ?_, ?_, ?_⟩ <;>
    (apply BitVec.eq_of_toNat_eq; rw [BitVec.toNat_ofNat, bits]; omega)

/-- The fields that every MBR word has: its opcode, SUB 0, type code 0x1F and no negated guard (R39). -/
def isMbrWord (f : Fields) : Prop := f.op = 0x144 ∧ f.sub = 0 ∧ f.t = 0x1F ∧ f.g < 16

theorem isMbrWord_mbrWord (x : MbrArgs) : isMbrWord (Fields.ofWord (mbrWord x)) := by
  simp only [isMbrWord, Fields.ofWord, mbrWord, bits]
  omega

theorem mbrWord_mbrOf {w : Nat} (word : w < 2 ^ 96) (mbr : isMbrWord (Fields.ofWord w)) : mbrWord (mbrOf w) = w := by
  simp only [isMbrWord, Fields.ofWord, bits] at mbr
  simp only [mbrOf, mbrWord, bits, BitVec.toNat_ofNat]
  omega

/-! ### What the decoder accepts (R43) -/

theorem check_eq_none {f : Fields} {o : Op} : f.check o = none ↔
    f.top = 0 ∧ tyOfCode f.t ≠ none ∧ checkArgs o f.args = none ∧ fieldLegal f.d ∧
    (f.isWide = false → fieldLegal f.a ∧ fieldLegal f.b) := by
  unfold Fields.check fieldLegal
  constructor
  · intro checked
    dsimp only at checked
    split_ifs at checked <;> simp_all
  · rintro ⟨top, ty, args, ⟨dKind, dRest⟩, sources⟩
    cases wide : f.isWide <;> simp_all

/-- A word decodes to an MBR that passes its check, or to the form of its opcode whose checks its fields pass. -/
theorem decodeWord_eq_ok {w : Nat} {i : Instr} : decodeWord w = .ok i ↔
    (isMbrWord (Fields.ofWord w) ∧ checkMbr (mbrOf w) = none ∧ .mbr (mbrOf w) = i) ∨
    ((Fields.ofWord w).op ≠ 0x144 ∧ ∃ o, Op.ofCode (Fields.ofWord w).op (Fields.ofWord w).sub = some o ∧
      (Fields.ofWord w).check o = none ∧ Machine.Instr.ofArgs o (Fields.ofWord w).args = i) := by
  generalize field : Fields.ofWord w = f
  simp only [decodeWord, field, isMbrWord, beq_iff_eq, bne_iff_ne]
  by_cases mbr : f.op = 0x144
  · simp only [mbr, if_true, ne_eq, not_true_eq_false, false_and, or_false, true_and]
    split_ifs <;> simp_all
    split <;> simp_all
  · simp only [mbr, if_false, ne_eq, not_false_eq_true, true_and, false_and, false_or]
    by_cases top : f.top = 0
    · rw [if_neg (not_not_intro top)]
      cases Op.ofCode f.op f.sub with
      | none => simp
      | some o =>
        simp only [Option.some.injEq, exists_eq_left']
        cases f.check o <;> simp
    · simp [top, check_eq_none]

/-! ### Words of formats N and W (R27, R34) -/

theorem rows_narrow (o : Op) : Kind.wide ∉ o.row.d ∧ Kind.wide ∉ o.row.b := by cases o <;> decide

theorem kindFits_narrow {al : List Kind} {y : Operand} (row : Kind.wide ∉ al) (fits : kindFits al y = true) : kindOf y ≠ .wide := by
  intro wide
  cases y <;> cases wide
  cases al <;> simp_all [kindFits, kindOf]

/-- WIDE stands only in A, and then nothing stands in B (R29, R34). -/
theorem wide_only_a {o : Op} {x : Args} (checked : checkArgs o x = none) :
    kindOf x.d ≠ .wide ∧ kindOf x.b ≠ .wide ∧ (kindOf x.a = .wide → x.b = .none) := by
  have kinds : checkKinds o x = true := by
    unfold checkArgs at checked
    split_ifs at checked
    simp_all
  simp only [checkKinds, Bool.and_eq_true] at kinds
  obtain ⟨⟨⟨⟨d, -⟩, b⟩, -⟩, -⟩ := kinds
  obtain ⟨rowD, rowB⟩ := rows_narrow o
  refine ⟨kindFits_narrow rowD d, ?_, fun wide => by simpa [wide] using b⟩
  split at b
  · rw [beq_iff_eq.1 b]; exact Kind.noConfusion
  · exact kindFits_narrow rowB b

theorem fieldsFit_fieldsOfArgs (o : Op) (x : Args) : fieldsFit (fieldsOfArgs o x) := by
  refine ⟨opc_lt o, x.sub.isLt, ?_, x.h.isLt, tyCode_lt _, fieldOf_lt _, fieldOf_lt _, ?_, x.rm.isLt, Nat.zero_lt_two⟩
  · have le := b2n_le x.neg
    simp only [fieldsOfArgs]; omega
  · simp only [fieldsOfArgs]
    split
    · exact Nat.mod_lt _ (by decide)
    · exact fieldOf_lt _

theorem fieldsOfArgs_b {o : Op} {x : Args} (narrow : kindOf x.a ≠ .wide) : (fieldsOfArgs o x).b = fieldOf x.b := by
  cases a : x.a <;> simp_all [fieldsOfArgs, kindOf]

theorem kindOf_operandOf (f : Nat) : kindOf (operandOf f) ≠ .wide := by
  unfold operandOf
  split <;> exact Kind.noConfusion

theorem args_of_wide {f : Fields} (wide : f.isWide = true) :
    f.args.a = .wide (BitVec.ofNat 36 (bits f.a 0 16 * 2 ^ 20 + f.b)) ∧ f.args.b = .none := by
  simp only [Fields.args, wide, if_true, and_self]

theorem args_of_narrow {f : Fields} (narrow : f.isWide = false) : f.args.a = operandOf f.a ∧ f.args.b = operandOf f.b := by
  simp only [Fields.args, narrow, Bool.false_eq_true, if_false, and_self]

/-- A legal operand field is not that of WIDE, whose kind is reserved outside of A (R29, R34). -/
theorem isWide_of_legal {f : Fields} (legal : fieldLegal f.a) : f.isWide = false := by
  have bad := legal.1
  simp only [operandKindBad, decide_eq_false_iff_not] at bad
  simp only [Fields.isWide, beq_eq_false_iff_ne]
  omega

/-- A and B read back: WIDE with its immediate across both fields, or two operands in legal fields. -/
theorem sources_fieldsOfArgs {o : Op} {x : Args} (narrow : kindOf x.b ≠ .wide) (alone : kindOf x.a = .wide → x.b = .none) :
    (fieldsOfArgs o x).args.a = x.a ∧ (fieldsOfArgs o x).args.b = x.b ∧
    ((fieldsOfArgs o x).isWide = false → fieldLegal (fieldsOfArgs o x).a ∧ fieldLegal (fieldsOfArgs o x).b) := by
  by_cases wide : kindOf x.a = .wide
  · obtain ⟨i, immediate⟩ : ∃ i, x.a = .wide i := by cases a : x.a <;> simp_all [kindOf]
    have fieldA : (fieldsOfArgs o x).a = 15 * 2 ^ 16 + i.toNat / 2 ^ 20 := by simp only [fieldsOfArgs, immediate, fieldOf]
    have fieldB : (fieldsOfArgs o x).b = i.toNat % 2 ^ 20 := by simp only [fieldsOfArgs, immediate]
    have kind : (fieldsOfArgs o x).isWide = true := by
      rw [Fields.isWide, fieldA, beq_iff_eq, bits]
      omega
    obtain ⟨readA, readB⟩ := args_of_wide kind
    refine ⟨?_, readB.trans (alone wide).symm, fun no => absurd (no.symm.trans kind) Bool.false_ne_true⟩
    rw [readA, immediate, fieldA, fieldB]
    refine congrArg _ (BitVec.eq_of_toNat_eq ?_)
    rw [BitVec.toNat_ofNat, bits]
    omega
  · obtain ⟨a, legalA⟩ := operandOf_fieldOf wide
    obtain ⟨b, legalB⟩ := operandOf_fieldOf narrow
    have fieldB : (fieldsOfArgs o x).b = fieldOf x.b := fieldsOfArgs_b wide
    obtain ⟨readA, readB⟩ := args_of_narrow (isWide_of_legal (f := fieldsOfArgs o x) legalA)
    exact ⟨readA.trans a, by rw [readB, fieldB, b], fun _ => ⟨legalA, fieldB ▸ legalB⟩⟩

theorem ofNat_toNat_add {w k : Nat} (b : BitVec w) : BitVec.ofNat w (k * 2 ^ w + b.toNat) = b :=
  BitVec.eq_of_toNat_eq (by rw [BitVec.toNat_ofNat, Nat.mul_add_mod', Nat.mod_eq_of_lt b.isLt])

/-- The fields of an instruction whose checks pass read back as its operands, guard, type and variant. -/
theorem args_fieldsOfArgs {o : Op} {x : Args} (checked : checkArgs o x = none) : (fieldsOfArgs o x).args = x := by
  obtain ⟨d, b, alone⟩ := wide_only_a checked
  obtain ⟨readA, readB, -⟩ := sources_fieldsOfArgs (o := o) b alone
  have negated : bit (b2n x.neg * 16 + x.g.toNat) 4 = x.neg := bit_eq (by unfold bits; have := b2n_le x.neg; omega)
  have type : (tyOfCode (tyCode x.ty)).getD .none = x.ty := by rw [tyOfCode_tyCode]; rfl
  change Args.mk _ _ _ _ _ _ _ _ _ = Args.mk x.sub x.g x.neg x.h x.ty x.d x.a x.b x.rm
  rw [Args.mk.injEq]
  exact ⟨by simp [fieldsOfArgs], ofNat_toNat_add x.g, negated, by simp [fieldsOfArgs], type, (operandOf_fieldOf d).1, readA, readB,
    by simp [fieldsOfArgs]⟩

theorem check_fieldsOfArgs {o : Op} {x : Args} (checked : checkArgs o x = none) : (fieldsOfArgs o x).check o = none := by
  obtain ⟨d, b, alone⟩ := wide_only_a checked
  rw [check_eq_none, args_fieldsOfArgs checked]
  exact ⟨rfl, by simp [fieldsOfArgs], checked, (operandOf_fieldOf d).2, (sources_fieldsOfArgs b alone).2.2⟩

/-- No bit of the fields that a form's checks pass is dropped. -/
theorem fieldsOfArgs_args {o : Op} {f : Fields} (fit : fieldsFit f) (code : o.row.opc = f.op) (checked : f.check o = none) :
    fieldsOfArgs o f.args = f := by
  obtain ⟨top, assigned, -, legalD, sources⟩ := check_eq_none.1 checked
  obtain ⟨t, type⟩ := Option.ne_none_iff_exists'.1 assigned
  obtain ⟨-, sub, g, h, -, d, a, b, rm, -⟩ := fit
  have guard : b2n (bit f.g 4) * 16 + (BitVec.ofNat 4 f.g).toNat = f.g := by
    rw [b2n_bit, bits, BitVec.toNat_ofNat]; omega
  have typeBack : tyCode f.args.ty = f.t := by
    rw [← tyCode_of_tyOfCode type, Fields.args, type]; rfl
  have sourcesBack : fieldOf f.args.a = f.a ∧ (fieldsOfArgs o f.args).b = f.b := by
    cases wide : f.isWide with
    | true =>
      obtain ⟨readA, readB⟩ := args_of_wide wide
      have kind := beq_iff_eq.1 wide
      simp only [fieldsOfArgs, readA, fieldOf, BitVec.toNat_ofNat]
      unfold bits at *
      omega
    | false =>
      obtain ⟨readA, readB⟩ := args_of_narrow wide
      obtain ⟨legalA, legalB⟩ := sources wide
      rw [fieldsOfArgs_b (by rw [readA]; exact kindOf_operandOf _), readA, readB]
      exact ⟨fieldOf_operandOf a legalA, fieldOf_operandOf b legalB⟩
  change Fields.mk _ _ _ _ _ _ _ _ _ _ = Fields.mk f.op f.sub f.g f.h f.t f.d f.a f.b f.rm f.top
  rw [Fields.mk.injEq]
  exact ⟨code, Nat.mod_eq_of_lt sub, guard, Nat.mod_eq_of_lt h, typeBack, fieldOf_operandOf d legalD, sourcesBack.1, sourcesBack.2,
    Nat.mod_eq_of_lt rm, top.symm⟩

/-! ### Each undoes the other -/

theorem decodeWord_toWord {o : Op} {x : Args} (row : o ≠ .mbr) (checked : checkArgs o x = none) :
    decodeWord (fieldsOfArgs o x).toWord = .ok (Machine.Instr.ofArgs o x) := by
  have legal : x.sub.toNat ∈ o.row.subs := by
    unfold checkArgs checkSub at checked
    split_ifs at checked
    simp_all
  rw [decodeWord_eq_ok, ofWord_toWord (fieldsFit_fieldsOfArgs o x)]
  exact .inr ⟨opc_ne_mbr row, o, ofCode_opc legal, check_fieldsOfArgs checked, by rw [args_fieldsOfArgs checked]⟩

theorem decodeWord_mbrWord {x : MbrArgs} (checked : checkMbr x = none) : decodeWord (mbrWord x) = .ok (.mbr x) :=
  decodeWord_eq_ok.2 (.inl ⟨isMbrWord_mbrWord x, by rw [mbrOf_mbrWord]; exact checked, by rw [mbrOf_mbrWord]⟩)

/-- The word of a well-formed instruction decodes to it. -/
theorem decodeWord_encode {i : Instr} {w : Nat} (wf : i.wellFormed = true) (word : encode i = some w) :
    w < 2 ^ 96 ∧ decodeWord w = .ok i := by
  unfold encode at word
  split at word
  · next x =>
    cases word
    exact ⟨mbrWord_lt x, decodeWord_mbrWord (beq_iff_eq.1 wf)⟩
  · obtain ⟨⟨o, x⟩, form, rfl⟩ := Option.map_eq_some_iff.1 word
    obtain ⟨rfl, row⟩ := ofArgs_of_form form
    exact ⟨toWord_lt (fieldsFit_fieldsOfArgs o x), decodeWord_toWord row ((wellFormed_of_form form).1 wf)⟩

/-- A word that decodes is the word of the instruction, which is well formed. -/
theorem encode_decodeWord {i : Instr} {w : Nat} (word : w < 2 ^ 96) (decodes : decodeWord w = .ok i) :
    i.wellFormed = true ∧ encode i = some w := by
  rcases decodeWord_eq_ok.1 decodes with ⟨mbr, checked, rfl⟩ | ⟨opc, o, code, checked, rfl⟩
  · exact ⟨beq_iff_eq.2 checked, congrArg some (mbrWord_mbrOf word mbr)⟩
  · have row : o ≠ .mbr := by
      rintro rfl
      exact opc (opc_eq_of_ofCode code).symm
    have form := form_ofArgs (Fields.ofWord w).args row
    refine ⟨(wellFormed_of_form form).2 (check_eq_none.1 checked).2.2.1, ?_⟩
    rw [encode_of_form form, fieldsOfArgs_args (fieldsFit_ofWord w) (opc_eq_of_ofCode code) checked, toWord_ofWord word]

theorem decode_toBytes {w : Nat} {i : Instr} (word : w < 2 ^ 96) (decodes : decodeWord w = .ok i) (rest : List Byte) :
    decode (toBytes 12 w ++ rest) = .ok (i, rest) := by
  have twelve : (toBytes 12 w).length = 12 := length_toBytes 12 w
  have whole : ofBytes (toBytes 12 w) = w := by rw [ofBytes_toBytes, Nat.mod_eq_of_lt (word.trans_eq (by norm_num))]
  rw [decode, if_neg (by simp [twelve]), List.take_left' twelve, List.drop_left' twelve, whole, decodes]
  rfl

end Sys2Proof.Laws
end

section
/-! OBLIGATION O56. Decode and encode agree. -/
namespace Sys2Proof.Laws

/-- Settles O56: the fields of a word and the fields of an instruction each give back the other, slot by slot. -/
theorem decodeEncode : Obligations.DecodeEncode := by
  refine ⟨fun i w wf word => ?_, fun i w word decodes => encode_decodeWord word decodes, encodable_iff_encode⟩
  obtain ⟨fits, decodes⟩ := decodeWord_encode wf word
  exact ⟨fits, decodes, decode_toBytes fits decodes⟩

end Sys2Proof.Laws
end

section
/-! SUPPORT. Branches, calls and jumps: what a transfer of control and the capture of a loop body leave (R159, R160, R169, R170). -/
namespace Sys2Proof.Laws

open Machine Safety

/-! ### Only scalar registers, the pc and the issue state of the running hart -/

/-- Of a hart only scalar registers, the pc and the issue state differ. -/
def scalarsOnly (u u' : Hart) : Prop := u' = { u with s := u'.s, pc := u'.pc, sched := u'.sched }

theorem scalarsOnly_trans {u v w : Hart} (first : scalarsOnly u v) (second : scalarsOnly v w) : scalarsOnly u w := by
  unfold scalarsOnly at *
  rw [second, first]

theorem scalarsOnly_setS (t : Hart) (r : Nat) (v : Word) : scalarsOnly t (t.setS r v) := by
  unfold scalarsOnly Hart.setS Hart.putS
  split <;> rfl

theorem scalarsOnly_kept {u u' : Hart} (only : scalarsOnly u u') :
    onlyRegisters u u' ∧ u'.fflags = u.fflags ∧ vectorsKept u u' ∧ predicatesKept u u' := by
  refine ⟨?_, ?_, fun r l => ?_, fun r => ?_⟩
  · unfold onlyRegisters; rw [only]
  · rw [only]
  all_goals rw [only]; rfl

/-- Of the machine only the running hart differs, and of it only scalar registers, the pc and the issue state. -/
def movedOn (s t : State) : Prop := onlyRunning s t ∧ scalarsOnly s.now t.now

theorem movedOn_modNow {s t : State} {f : Hart → Hart} (moved : movedOn s t) (kept : scalarsOnly t.now (f t.now)) :
    movedOn s (t.modNow f) := by
  obtain ⟨⟨only, others⟩, running⟩ := moved
  have cur : t.cur = s.cur := by rw [only]
  refine ⟨⟨by rw [State.modNow, setHart_rest, only], fun h other => ?_⟩, ?_⟩
  · rw [hart_modNow, if_neg (by rw [cur]; exact Ne.symm other), others h other]
  · rw [modNow_now]
    exact scalarsOnly_trans running kept

theorem movedOn_unwait (s : State) : movedOn s s.unwait := movedOn_modNow ⟨⟨rfl, fun _ _ => rfl⟩, rfl⟩ rfl

/-- An outcome at an address, in which the scalar registers read as given and nothing else but the issue state of the running hart
differs. -/
def transfers (o : Out) (s : State) (target : Word) (regs : Nat → SReg) : Prop :=
  ∃ t, o = .next t ∧ movedOn s t ∧ t.now.pc = target ∧ ∀ r, t.now.getS r = regs r

theorem transfers_goto {s u : State} {a : Word} {regs : Nat → SReg} (moved : movedOn s u) (read : ∀ r, u.now.getS r = regs r) :
    transfers (u.goto a) s a regs :=
  ⟨_, rfl, movedOn_modNow moved rfl, by rw [modNow_now], fun r => by rw [modNow_now]; exact read r⟩

theorem transfers_done {s u : State} {pc : Word} {regs : Nat → SReg} (moved : movedOn s u) (at_ : u.now.pc = pc)
    (read : ∀ r, u.now.getS r = regs r) : transfers u.done s (pc + 12) regs :=
  ⟨_, rfl, movedOn_modNow moved rfl, by rw [modNow_now, advance_pc, at_], fun r => by rw [modNow_now, getS_advance, read]⟩

/-- Once its wait has ended, a hart that goes to an address has all registers as they were. -/
theorem unwait_goto (s : State) (a : Word) : transfers (s.unwait.goto a) s a s.now.getS :=
  transfers_goto (movedOn_unwait s) (unwait_getS s)

/-- Once its wait has ended, a hart that goes on past its instruction has all registers as they were. -/
theorem unwait_done (s : State) : transfers s.unwait.done s (s.now.pc + 12) s.now.getS :=
  transfers_done (movedOn_unwait s) (unwait_pc s) (unwait_getS s)

/-- What an outcome keeps that writes scalar registers and transfers control. -/
theorem transfers_kept {o : Out} {s : State} {a : Word} {regs : Nat → SReg} (ends : transfers o s a regs) :
    ∃ t : State, o = .next t ∧ onlyRunning s t ∧ onlyRegisters s.now t.now ∧ t.now.pc = a ∧ t.now.fflags = s.now.fflags ∧
      vectorsKept s.now t.now ∧ predicatesKept s.now t.now ∧ ∀ r, t.now.getS r = regs r := by
  obtain ⟨t, next, ⟨only, scalars⟩, pc, read⟩ := ends
  obtain ⟨registers, flags, vectors, predicates⟩ := scalarsOnly_kept scalars
  exact ⟨t, next, only, registers, pc, flags, vectors, predicates, read⟩

/-! ### Branches without a split (R159, R160, R172) -/

section
variable {x : Args} {s : State}

theorem br_goes (now : ready .br x s = true) : transfers (exec (.br x) s) s (branchTo s.now.pc (offsetOf x)) s.now.getS := by
  rw [exec_br, execBr, issue_of_ready _ now, unwait_pc]
  exact unwait_goto s _

theorem call_goes (now : ready .call x s = true) : transfers (exec (.call x) s) s (branchTo s.now.pc (offsetOf x)) (fun r =>
    if r = regOf x.d ∧ r ≠ 0 then ⟨.full, s.now.pc + 12⟩ else s.now.getS r) := by
  rw [exec_call, execCall, issue_of_ready _ now, unwait_pc]
  exact transfers_goto (movedOn_modNow (movedOn_unwait s) (scalarsOnly_setS _ _ _))
    (fun r => by simp only [modNow_now, getS_setS, unwait_getS, eq_comm])

/-- A jump to an aligned address goes there (R160). -/
theorem jump_aligned {a : Word} (aligned : a.toNat % 4 = 0) : s.jump a = s.goto a := by
  simp [State.jump, aligned]

theorem ret_goes (now : ready .ret x s = true) (aligned : (s.now.getS (regOf x.a)).v.toNat % 4 = 0) :
    transfers (exec (.ret x) s) s (s.now.getS (regOf x.a)).v s.now.getS := by
  rw [exec_ret, execRet, issue_of_ready _ now, unwait_getS, jump_aligned aligned]
  exact unwait_goto s _

theorem jmpi_goes (now : ready .jmpi x s = true) (aligned : (s.now.getS (regOf x.a)).v.toNat % 4 = 0) :
    transfers (exec (.jmpi x) s) s (s.now.getS (regOf x.a)).v s.now.getS := by
  rw [exec_jmpi, execJmpi, issue_of_ready _ now, unwait_getS, jump_aligned aligned]
  exact unwait_goto s _

theorem brz_goes (now : ready .brz x s = true) (noLane : s.now.readMask x.a &&& s.now.exec = 0) :
    transfers (exec (.brz x) s) s (branchTo s.now.pc (immInt x.b)) s.now.getS := by
  rw [exec_brz, execBrz, issue_of_ready _ now, unwait_pc, unwait_readMask, unwait_exec, if_pos (beq_iff_eq.2 noLane)]
  exact unwait_goto s _

theorem brz_passes (now : ready .brz x s = true) (someLane : s.now.readMask x.a &&& s.now.exec ≠ 0) :
    transfers (exec (.brz x) s) s (s.now.pc + 12) s.now.getS := by
  rw [exec_brz, execBrz, issue_of_ready _ now, unwait_readMask, unwait_exec, if_neg (by simpa using someLane)]
  exact unwait_done s

theorem nop_passes (now : ready .nop x s = true) : transfers (exec (.nop x) s) s (s.now.pc + 12) s.now.getS := by
  rw [exec_nop, execNop, issue_of_ready _ now]
  exact unwait_done s

theorem yield_passes (now : ready .yield x s = true) : transfers (exec (.yield x) s) s (s.now.pc + 12) s.now.getS := by
  rw [exec_yield, execYield, issue_of_ready _ now]
  refine transfers_done (movedOn_modNow (movedOn_unwait s) rfl) ?_ (fun r => ?_)
  · rw [modNow_now]; exact unwait_pc s
  · rw [modNow_now]; exact unwait_getS s r

end

/-! ### Counted loops (R169, R170) -/

/-- Of a hart only the issue state differs. -/
def schedOnly (u u' : Hart) : Prop := u' = { u with sched := u'.sched }

theorem schedOnly_trans {u v w : Hart} (first : schedOnly u v) (second : schedOnly v w) : schedOnly u w := by
  unfold schedOnly at *
  rw [second, first]

theorem scalarsOnly_of_sched {u u' : Hart} (only : schedOnly u u') : scalarsOnly u u' := by
  unfold scalarsOnly
  rw [only]

/-- Of the machine the memory is the same, the same hart runs, and of it only the issue state differs. -/
def issueStateOnly (s t : State) : Prop := t.mem = s.mem ∧ t.cur = s.cur ∧ schedOnly s.now t.now

theorem issueStateOnly_modHart {s t : State} (h : Nat) {f : Hart → Hart} (kept : ∀ u, schedOnly u (f u))
    (same : issueStateOnly s t) : issueStateOnly s (t.modHart h f) := by
  obtain ⟨mem, cur, now⟩ := same
  refine ⟨mem, cur, schedOnly_trans now ?_⟩
  have read : (t.modHart h f).now = if h = t.cur then f (t.hart h) else t.now := hart_modHart t h t.cur f
  rw [read]
  split
  · next here => rw [here]; exact kept t.now
  · rfl

theorem issueStateOnly_modNow {s t : State} {f : Hart → Hart} (kept : ∀ u, schedOnly u (f u)) (same : issueStateOnly s t) :
    issueStateOnly s (t.modNow f) := issueStateOnly_modHart t.cur kept same

theorem issueStateOnly_foldl {α : Type} {f : State → α → State} {s t : State} (l : List α)
    (kept : ∀ u a, issueStateOnly s u → issueStateOnly s (f u a)) (same : issueStateOnly s t) : issueStateOnly s (l.foldl f t) := by
  induction l generalizing t with
  | nil => exact same
  | cons a r ih => exact ih (kept t a same)

/-- The capture of a loop body changes what pipes issue from, and nothing else of the running hart or of memory (R170). -/
theorem capture_issueStateOnly (s : State) (target pc : Nat) : issueStateOnly s (s.capture target pc) := by
  have self : issueStateOnly s s := ⟨rfl, rfl, rfl⟩
  unfold State.capture
  dsimp only
  split
  · exact self
  split
  · exact issueStateOnly_modNow (fun u => rfl) self
  · refine issueStateOnly_modNow (fun u => rfl) (issueStateOnly_foldl _ (fun t h same => ?_) self)
    refine issueStateOnly_modHart h (fun u => ?_) same
    split <;> rfl

/-- LOOP counts its register down; the one that reaches 0 goes on, and one that is taken goes back and captures its body (R169). -/
theorem loop_counts {x : Args} {s : State} (now : ready .loop x s = true) :
    ∃ t, exec (.loop x) s = .next t ∧ t.mem = s.mem ∧ scalarsOnly s.now t.now ∧
      t.now.pc = (if (s.now.getS (regOf x.d)).v - 1 = 0 then s.now.pc + 12 else branchTo s.now.pc (immInt x.b)) ∧
      ∀ r, t.now.getS r = if r = regOf x.d ∧ r ≠ 0 then ⟨.full, (s.now.getS (regOf x.d)).v - 1⟩ else s.now.getS r := by
  let d := (s.now.getS (regOf x.d)).v - 1
  let u := s.unwait.modNow (fun t => t.setS (regOf x.d) d)
  have counted : movedOn s u := movedOn_modNow (movedOn_unwait s) (scalarsOnly_setS _ _ _)
  have pc : u.now.pc = s.now.pc := by
    rw [modNow_now, generalOnly_pc (generalOnly_setS _ _ (generalOnly_rfl _)), unwait_pc]
  have read : ∀ r, u.now.getS r = if r = regOf x.d ∧ r ≠ 0 then ⟨.full, d⟩ else s.now.getS r := fun r => by
    simp only [u, modNow_now, getS_setS, unwait_getS, eq_comm]
  rw [exec_loop, execLoop, issue_of_ready _ now]
  simp only [unwait_getS, unwait_pc, bne_iff_ne, ite_not]
  by_cases last : d = 0
  · rw [if_pos last, if_pos last]
    obtain ⟨t, next, ⟨⟨only, -⟩, scalars⟩, past, registers⟩ := transfers_done counted pc read
    exact ⟨t, next, by rw [only], scalars, past, registers⟩
  · rw [if_neg last, if_neg last]
    obtain ⟨v, next, ⟨⟨only, -⟩, scalars⟩, target, registers⟩ :=
      transfers_goto (a := branchTo s.now.pc (immInt x.b)) counted read
    obtain ⟨mem, -, sched⟩ := capture_issueStateOnly v (branchTo s.now.pc (immInt x.b)).toNat s.now.pc.toNat
    refine ⟨_, by rw [next], by rw [mem, only], scalarsOnly_trans scalars (scalarsOnly_of_sched sched), ?_, fun r => ?_⟩
    · rw [sched, target]
    · rw [sched]; exact registers r

end Sys2Proof.Laws
end

section
/-! OBLIGATION O12. Branches, calls and jumps. -/
namespace Sys2Proof.Laws

open Machine Safety

/-- Settles O12: each form ends at its target with nothing but the scalar registers and the issue state of the team changed. -/
theorem branchesAndCalls : Obligations.BranchesAndCalls := by
  intro x s
  refine ⟨fun now => transfers_kept (br_goes now), fun now taken => transfers_kept ?_, fun now untaken => transfers_kept ?_,
    fun now noLane => transfers_kept (brz_goes now noLane), fun now someLane => transfers_kept (brz_passes now someLane),
    fun now => transfers_kept (call_goes now), fun now aligned => transfers_kept (ret_goes now aligned),
    fun now aligned => transfers_kept (jmpi_goes now aligned), fun now => transfers_kept (nop_passes now),
    fun now => transfers_kept (yield_passes now), fun now => ?_⟩
  · rw [exec_brc, execBrc, issue_of_ready _ now, unwait_pc, if_pos]
    · exact unwait_goto s _
    · revert taken
      simp only [unwait_src]
      rcases x.sub.toNat with _ | _ | _ | _ | _ | n <;> simp
  · rw [exec_brc, execBrc, issue_of_ready _ now, if_neg]
    · exact unwait_done s
    · revert untaken
      simp only [unwait_src]
      rcases x.sub.toNat with _ | _ | _ | _ | _ | n <;> simp
  · obtain ⟨t, next, mem, scalars, pc, read⟩ := loop_counts now
    obtain ⟨registers, flags, vectors, predicates⟩ := scalarsOnly_kept scalars
    exact ⟨t, next, fun a => by rw [State.byte, mem]; rfl, registers, pc, vectors, predicates, flags, read⟩

end Sys2Proof.Laws
end

section
/-! SUPPORT. What the checks at issue answer where they find something: traps, waits and forms that do not act (R35, R43, R67, R70). -/
namespace Sys2Proof.Laws

open Machine Safety

theorem issue_of_trap {o : Op} {x : Args} {s : State} {c i : Nat} {m : Mask} (f : State → Out) (found : precheck o x s = .trap c i m) :
    issue o x s f = .next (s.takeTrap s.cur c 0 i m) := by
  rw [issue, found]; rfl

theorem issue_of_skip {o : Op} {x : Args} {s : State} (f : State → Out) (found : precheck o x s = .skip) :
    issue o x s f = .next (s.unwait.modNow Hart.advance) := by
  rw [issue, found]; rfl

/-- A form held at issue only waits: its hart's registers and pc and all memory are as before (R70). -/
theorem issue_of_wait {o : Op} {x : Args} {s : State} {w : Wait} (f : State → Out) (found : precheck o x s = .wait w) :
    ∃ t : State, issue o x s f = .next t ∧ t.now.pc = s.now.pc ∧ t.now.sched.wait = w ∧ scalarsKept s.now t.now ∧
      vectorsKept s.now t.now ∧ predicatesKept s.now t.now ∧ memoryKept s t := by
  have held : issue o x s f = s.block w := by rw [issue, found]
  refine ⟨_, held, ?_, ?_, fun r => ?_, fun r l => ?_, fun r => ?_, fun a => rfl⟩ <;> rw [modNow_now] <;> rfl

/-! ### The order of the checks (R43) -/

/-- The hart's stores are in its store buffer, the decode checks pass, and the die may run the form (checks 3 to 9 of R43, R248). -/
def decodes (o : Op) (x : Args) (s : State) : Prop :=
  s.now.sb.length ≤ 64 ∧ checkArgs o x = none ∧ (isHostThread s.cur = false ∨ hostBarred o x = false)

/-- The mode too may run the form and access its special registers (check 10 of R43). -/
def permitted (o : Op) (x : Args) (s : State) : Prop :=
  decodes o x s ∧ modeRank o.row.mode ≤ modeRank s.now.mode ∧ srDenied s.now x = none

section
variable {o : Op} {x : Args} {s : State}

theorem precheck_illFormed {c : Nat} (room : s.now.sb.length ≤ 64) (broken : checkArgs o x = some c) :
    precheck o x s = .trap 1 (hostDie s.cur + c * 16) 0 := by
  rw [precheck, if_neg (by omega), broken]

theorem precheck_barred (room : s.now.sb.length ≤ 64) (formed : checkArgs o x = none) (host : isHostThread s.cur = true)
    (barred : hostBarred o x = true) : precheck o x s = .trap 1 (1 + 9 * 16) 0 := by
  rw [precheck, if_neg (by omega), formed]
  simp only [host, barred, hostDie, b2n, Bool.and_self, if_true]

theorem precheck_privileged (can : decodes o x s) (below : modeRank s.now.mode < modeRank o.row.mode) :
    precheck o x s = .trap 0x16 0 0 := by
  obtain ⟨room, formed, die⟩ := can
  rw [precheck, if_neg (by omega), formed]
  dsimp only
  rw [if_neg (by rcases die with h | h <;> simp [h]), if_pos below]

theorem precheck_denied {n : Nat} (can : decodes o x s) (within : modeRank o.row.mode ≤ modeRank s.now.mode)
    (denied : srDenied s.now x = some n) : precheck o x s = .trap 0x16 n 0 := by
  obtain ⟨room, formed, die⟩ := can
  rw [precheck, if_neg (by omega), formed]
  dsimp only
  rw [if_neg (by rcases die with h | h <;> simp [h]), if_neg (by omega), denied]

/-- Past the checks of R43: an EMPTY guard answers first, then whether the form acts, then its allotments, its sources and its
destinations, each in its order (R35, R67, R70, R71, R127). -/
theorem precheck_permitted (may : permitted o x s) : precheck o x s =
    if x.g != 0 && (s.now.getK x.g.toNat).empty && o != .sel then guardCheck s o x
    else if !acts s.now o x then .skip
    else ((allotCheck s ((usesOf o x).map (Use.named o x))).or ((emptyCheck s o x (usesOf o x)).or
      ((poisonCheck s o x (usesOf o x)).or (destCheck s o x (usesOf o x))))).getD (if flagsWait s o x then .wait .form else .go) := by
  obtain ⟨⟨room, formed, die⟩, within, granted⟩ := may
  rw [precheck, if_neg (by omega), formed]
  dsimp only
  rw [if_neg (by rcases die with h | h <;> simp [h]), if_neg (by omega), granted]
  dsimp only
  cases allotCheck s ((usesOf o x).map (Use.named o x)) with
  | some p => rfl
  | none =>
    cases emptyCheck s o x (usesOf o x) with
    | some p => rfl
    | none =>
      cases poisonCheck s o x (usesOf o x) with
      | some p => rfl
      | none => cases destCheck s o x (usesOf o x) <;> rfl

/-- An EMPTY guard says not which lanes are members; SEL alone reads its guard as a source (R35, R97). -/
theorem precheck_emptyGuard (may : permitted o x s) (guarded : x.g ≠ 0) (empty : (s.now.getK x.g.toNat).empty = true) (sel : o ≠ .sel) :
    precheck o x s = guardCheck s o x := by
  rw [precheck_permitted may, if_pos]
  simp only [bne_iff_ne.2 guarded, empty, bne_iff_ne.2 sel, Bool.and_self]

/-- The guard lets a form go on: it has none, or one that is FULL, or it is SEL (R35). -/
def guardRead (o : Op) (x : Args) (s : State) : Prop := x.g = 0 ∨ (s.now.getK x.g.toNat).empty = false ∨ o = .sel

theorem not_emptyGuard (guard : guardRead o x s) : ¬(x.g != 0 && (s.now.getK x.g.toNat).empty && o != .sel) = true := by
  rcases guard with h | h | h <;> simp [h]

theorem precheck_idle (may : permitted o x s) (guard : guardRead o x s) (idle : acts s.now o x = false) : precheck o x s = .skip := by
  rw [precheck_permitted may, if_neg (not_emptyGuard guard), idle]
  rfl

theorem precheck_unallotted (may : permitted o x s) (guard : guardRead o x s) (active : acts s.now o x = true) {p : Pre}
    (beyond : allotCheck s ((usesOf o x).map (Use.named o x)) = some p) : precheck o x s = p := by
  rw [precheck_permitted may, if_neg (not_emptyGuard guard), active, beyond]
  rfl

end

/-! ### Allotments (R67) -/

theorem allotCheck_of_find {o : Op} {x : Args} {s : State} {us : List Use} {u : Use}
    (first : us.find? (fun u => !allotted s.now (s.kernelOf s.cur) (u.named o x)) = some u) :
    allotCheck s (us.map (Use.named o x)) = some (.trap 0x17 (operandReport s.cur u.slot u.op) 0) := by
  induction us with
  | nil => cases first
  | cons v r ih =>
    rw [List.map_cons, allotCheck]
    cases within : allotted s.now (s.kernelOf s.cur) (v.named o x) with
    | true =>
      rw [List.find?_cons_of_neg (by simp [within])] at first
      rw [if_pos rfl, ih first]
    | false =>
      rw [List.find?_cons_of_pos (by simp [within])] at first
      cases first
      rw [if_neg Bool.false_ne_true]
      unfold Use.named
      split <;> rfl

/-! ### EMPTY sources (R70) -/

/-- An EMPTY source holds the form or traps: it is read and EMPTY in a relevant lane, and no future that the form takes as it is. -/
def emptySource (s : State) (o : Op) (x : Args) (u : Use) : Bool :=
  u.rd && !futureExempt o u s.now && lanesIn s.now u (relevant s o x u) RegSt.isEmpty != 0

/-- What an EMPTY source answers: A and B with E = 1 trap, any other waits. -/
def emptyAnswer (s : State) (o : Op) (x : Args) (u : Use) : Pre :=
  if u.slot != 0 && u.slot != 1 && eOf u.op then
    .trap 2 (operandReport s.cur u.slot u.op) (lanesIn s.now u (relevant s o x u) RegSt.isEmpty)
  else .wait (waitOn s.now (usesOf o x))

/-- The first EMPTY source answers for all of them. -/
theorem emptyCheck_eq (s : State) (o : Op) (x : Args) (us : List Use) :
    emptyCheck s o x us = ((us.filter (emptySource s o x)).head?).map (emptyAnswer s o x) := by
  induction us with
  | nil => rfl
  | cons u r ih =>
    rw [emptyCheck, List.filter_cons]
    change (if emptySource s o x u = true then _ else _) = _
    split
    · simp only [List.head?_cons, Option.map_some, emptyAnswer]
      split <;> rfl
    · exact ih

/-- The sources besides V ones that an EMPTY guard leaves to check, those of them that are EMPTY. -/
def emptyScalars (s : State) (o : Op) (x : Args) : List Use :=
  ((usesOf o x).filter (fun u => kindOf u.op != .v)).filter (emptySource s o x)

theorem guardCheck_eq (s : State) (o : Op) (x : Args) :
    guardCheck s o x = ((emptyScalars s o x).head?.map (emptyAnswer s o x)).getD (.wait (waitOn s.now (usesOf o x))) := by
  rw [guardCheck, emptyCheck_eq, emptyScalars]

theorem guardCheck_waits {s : State} {o : Op} {x : Args}
    (waits : ∀ u ∈ emptyScalars s o x, eOf u.op = false ∨ u.slot = 0 ∨ u.slot = 1) :
    guardCheck s o x = .wait (waitOn s.now (usesOf o x)) := by
  rw [guardCheck_eq]
  cases first : (emptyScalars s o x).head? with
  | none => rfl
  | some u =>
    rw [Option.map_some, Option.getD_some, emptyAnswer, if_neg]
    rcases waits u (List.mem_of_head? first) with h | h | h <;> simp [h]

theorem guardCheck_traps {s : State} {o : Op} {x : Args} {u : Use} (first : (emptyScalars s o x).head? = some u)
    (traps : eOf u.op = true) (slot : u.slot = 2 ∨ u.slot = 3) : guardCheck s o x =
      .trap 2 (operandReport s.cur u.slot u.op) (lanesIn s.now u (relevant s o x u) RegSt.isEmpty) := by
  rw [guardCheck_eq, first, Option.map_some, Option.getD_some, emptyAnswer, if_pos]
  rcases slot with h | h <;> simp [h, traps]

end Sys2Proof.Laws
end

section
/-! OBLIGATION O16. What comes before an effect. -/
namespace Sys2Proof.Laws

open Machine Safety

/-- Settles O16: each clause is one answer of the checks at issue, in their order, and what the form does on that answer. -/
theorem issueChecks : Obligations.IssueChecks := by
  intro o x s f room
  have may : checkArgs o x = none → (isHostThread s.cur = false ∨ hostBarred o x = false) →
      modeRank o.row.mode ≤ modeRank s.now.mode → srDenied s.now x = none → permitted o x s :=
    fun formed die within granted => ⟨⟨room, formed, die⟩, within, granted⟩
  refine ⟨fun c broken => issue_of_trap f (precheck_illFormed room broken),
    fun formed host barred => issue_of_trap f (precheck_barred room formed host barred),
    fun formed die below => issue_of_trap f (precheck_privileged ⟨room, formed, die⟩ below),
    fun formed die within n denied => issue_of_trap f (precheck_denied ⟨room, formed, die⟩ within denied),
    fun formed die within granted => ⟨fun guarded empty sel => ?_,
      fun guard idle => issue_of_skip f (precheck_idle (may formed die within granted) guard idle),
      fun guard active u first => issue_of_trap f (precheck_unallotted (may formed die within granted) guard active
        (allotCheck_of_find first))⟩⟩
  have answer := precheck_emptyGuard (may formed die within granted) guarded empty sel
  exact ⟨fun waits => issue_of_wait f (answer.trans (guardCheck_waits waits)),
    fun u first traps slot => issue_of_trap f (answer.trans (guardCheck_traps first traps slot))⟩

end Sys2Proof.Laws
end

section
/-! SUPPORT. Accesses at addresses that are not multiples of their size: ALIGNMENT before any other check of R191 (R243). -/
namespace Sys2Proof.Laws

open Machine Safety

/-! ### Memory forms at issue (R279) -/

@[simp] theorem unwait_acqPending (s : State) (h : Nat) : s.unwait.acqPending h = s.acqPending h := by
  have kept : (s.unwait.hart h).sb = (s.hart h).sb ∧ (s.unwait.hart h).ctx = (s.hart h).ctx := by
    by_cases running : h = s.cur
    · rw [running, show s.unwait.hart s.cur = s.unwait.now from rfl, unwait_now]; exact ⟨rfl, rfl⟩
    · rw [unwait_hart s h running]; exact ⟨rfl, rfl⟩
  simp only [State.acqPending, State.tagOf, kept, unwait_mem, unwait_hub]

@[simp] theorem unwait_addrOf (s : State) (o : Op) (x : Args) (size l : Nat) :
    s.unwait.addrOf o x size l = s.addrOf o x size l := by
  simp only [State.addrOf, unwait_getS, unwait_getV, unwait_src]

@[simp] theorem unwait_laneAddrs (s : State) (o : Op) (x : Args) (size : Nat) :
    s.unwait.laneAddrs o x size = s.laneAddrs o x size := by
  simp only [State.laneAddrs, unwait_W, unwait_members, unwait_addrOf]

/-- A memory form that issues has its own effect. -/
theorem memIssue_of_memReady {o : Op} {x : Args} {s : State} (f : State → Out) (issues : memReady o x s = true) :
    memIssue o x s f = f s.unwait := by
  simp only [memReady, Bool.and_eq_true, Bool.not_eq_true'] at issues
  obtain ⟨now, acquired⟩ := issues
  rw [memIssue, issue_of_ready _ now, unwait_cur, unwait_acqPending, acquired]
  rfl

/-! ### The checks of misaligned lanes (R191, R243) -/

theorem checkLane_misaligned (s : State) {w : Want} (many : Bool) (l : Nat) {a : Nat} (off : a % w.size ≠ 0) :
    s.checkLane w many l a = (.bad 7 a w.size, s) := by
  unfold State.checkLane
  exact if_pos (bne_iff_ne.2 off)

theorem foldl_checkLane_misaligned (s : State) {w : Want} (many : Bool) {ls : List (Nat × Nat)} (off : ∀ p ∈ ls, p.2 % w.size ≠ 0)
    (found : List (Nat × LaneCheck)) :
    ls.foldl (fun (acc : List (Nat × LaneCheck) × State) p =>
      ((acc.1 ++ [(p.1, (acc.2.checkLane w many p.1 p.2).1)], (acc.2.checkLane w many p.1 p.2).2))) (found, s) =
    (found ++ ls.map (fun p => (p.1, .bad 7 p.2 w.size)), s) := by
  induction ls generalizing found with
  | nil => simp
  | cons p r ih =>
    rw [List.foldl_cons, checkLane_misaligned s many p.1 (off p (by simp)), ih (fun q hq => off q (by simp [hq]))]
    simp

/-- Of elements with equal keys the first is the least. -/
theorem leastBy_first {α : Type} {f : α → Nat} {k : Nat} {a : α} {l : List α} (same : ∀ b ∈ a :: l, f b = k) :
    leastBy f (a :: l) = some a := by
  induction l generalizing a with
  | nil => rfl
  | cons b r ih =>
    rw [leastBy, ih (fun c hc => same c (by simp_all))]
    exact if_pos (by rw [same a (by simp), same b (by simp)])

/-- Where every lane is misaligned, the form ends in ALIGNMENT at the first lane's address, with all lanes in %tmask (R189, R191). -/
theorem checkAll_misaligned (s : State) {w : Want} {l a : Nat} {rest : List (Nat × Nat)}
    (off : ∀ p ∈ (l, a) :: rest, p.2 % w.size ≠ 0) :
    s.checkAll w ((l, a) :: rest) = .out (s.raise 7 a w.size (maskOf (l :: rest.map Prod.fst))) := by
  unfold State.checkAll
  dsimp only
  rw [foldl_checkLane_misaligned s _ off]
  simp only [List.nil_append, List.filterMap_map, Function.comp_def, List.filterMap_eq_map']
  have alignment : ∀ q ∈ ((l, a) :: rest).map (fun p => (p.1, 7, p.2, w.size)), q.2.1 = 7 := by
    intro q mem
    obtain ⟨p, -, rfl⟩ := List.mem_map.1 mem
    rfl
  rw [List.map_cons] at alignment ⊢
  rw [leastBy_first (k := 0) fun q mem => by rw [alignment q mem]; rfl]
  dsimp only
  rw [List.filter_eq_self.2 fun q mem => beq_iff_eq.2 (alignment q mem)]
  simp [Function.comp_def]

/-! ### What ends in ALIGNMENT (R160, R243) -/

theorem jump_misaligned {s : State} {a : Word} (off : a.toNat % 4 ≠ 0) : s.jump a = .next (s.takeTrap s.cur 7 a.toNat 4 1) := by
  rw [State.jump, if_pos (bne_iff_ne.2 off), State.raise]

/-- ALIGNMENT with the first lane's address, the size and every lane, where a memory form issues and all its lanes are misaligned. -/
def trapsMisaligned (o : Op) (i : Instr) (x : Args) (s : State) : Prop :=
  memReady o x s = true → ∀ l a rest, s.laneAddrs o x (accessSize o x) = (l, a) :: rest →
    (∀ p ∈ (l, a) :: rest, p.2 % accessSize o x ≠ 0) →
    exec i s = .next (s.unwait.takeTrap s.cur 7 a (accessSize o x) (maskOf (l :: rest.map Prod.fst)))

/-- A memory form that ends as the checks of its lanes say traps where they are misaligned. -/
theorem trapsMisaligned_of_checks {i : Instr} {o : Op} {x : Args} {s : State} {w : Want} {f : State → Out}
    (effect : exec i s = memIssue o x s f) (size : w.size = accessSize o x)
    (ends : ∀ out, s.unwait.checkAll w (s.unwait.laneAddrs o x (accessSize o x)) = .out out → f s.unwait = out) :
    trapsMisaligned o i x s := by
  intro issues l a rest lanes off
  rw [effect, memIssue_of_memReady _ issues]
  apply ends
  rw [← size] at off
  rw [unwait_laneAddrs, lanes, checkAll_misaligned s.unwait off, size]
  rfl

theorem atomicForm_trapsMisaligned {i : Instr} {o : Op} {x : Args} {s : State} {f : State → List LaneRef → Nat → Out}
    (effect : exec i s = atomicForm o x f s) : trapsMisaligned o i x s :=
  trapsMisaligned_of_checks (w := ⟨0, accessSize o x, .atomic, true, true, .atomic⟩) effect rfl fun out stops => by
    dsimp only; rw [stops]

end Sys2Proof.Laws
end

section
/-! OBLIGATION O29. Misaligned accesses raise ALIGNMENT. -/
namespace Sys2Proof.Laws

open Machine Safety

/-- Settles O29: the checks of misaligned lanes answer ALIGNMENT before any of them accesses, and a jump checks its target alone. -/
theorem misalignedAccess : Obligations.MisalignedAccess := by
  intro x s
  have checked := @trapsMisaligned_of_checks
  refine ⟨checked (w := ⟨x.sub.toNat % 4, accessSize .ld x, .load, true, false, .read⟩) (exec_ld x s) rfl fun _ stops => ?_,
    checked (w := ⟨x.sub.toNat % 4, accessSize .st x, .store, false, true, .plainStore⟩) (exec_st x s) rfl fun _ stops => ?_,
    checked (w := ⟨0, accessSize .lds x, .load, true, false, .read⟩) (exec_lds x s) rfl fun _ stops => ?_,
    checked (w := ⟨0, accessSize .sts x, .store, false, true, .plainStore⟩) (exec_sts x s) rfl fun _ stops => ?_,
    checked (w := ⟨0, accessSize .ldp x, .load, true, false, .atomic⟩) (exec_ldp x s) rfl fun _ stops => ?_,
    atomicForm_trapsMisaligned (exec_amo x s), atomicForm_trapsMisaligned (exec_cas x s),
    atomicForm_trapsMisaligned (exec_redu x s), fun off => ⟨fun now => ?ret, fun now => ?jmpi⟩⟩
  case ret => rw [exec_ret, execRet, issue_of_ready _ now, unwait_getS, jump_misaligned off, unwait_cur]
  case jmpi => rw [exec_jmpi, execJmpi, issue_of_ready _ now, unwait_getS, jump_misaligned off, unwait_cur]
  all_goals dsimp only; rw [stops]

end Sys2Proof.Laws
end

section
/-! SUPPORT. The lanes that a guard selects (R35), and the issue of a hart's next instruction (R26, R43). -/
namespace Sys2Proof.Laws

open Machine Safety

/-! ### The member set (R35) -/

theorem laneIn_and (m n : Mask) (l : Nat) : laneIn (m &&& n) l = (laneIn m l && laneIn n l) := BitVec.getLsbD_and

theorem laneIn_not (m : Mask) {l : Nat} (inMask : l < 1024) : laneIn (~~~m) l = !laneIn m l := by
  rw [laneIn, BitVec.getLsbD_not, decide_eq_true inMask, Bool.true_and, laneIn]

/-- A lane of the team is a guard lane as its guard bit says, or as it does not under NEG; unguarded, the bit is 1. -/
theorem laneIn_guardLanes {t : Hart} {x : Args} {l : Nat} (inTeam : l < t.W) (width : t.W ≤ 1024) :
    laneIn (t.guardLanes x) l = ((x.g == 0 || laneIn (t.getK x.g.toNat).v l) != x.neg) := by
  have all : laneIn (allLanes t.W) l = true := by rw [laneIn_allLanes t.W l width, decide_eq_true inTeam]
  unfold Hart.guardLanes
  cases x.neg <;> cases x.g == 0 <;>
    simp only [Bool.false_eq_true, if_false, if_true, laneIn_and, laneIn_not _ (inTeam.trans_le width), all, Bool.true_and] <;> simp

/-! ### One step (R26, R28, R43) -/

section
variable {s s1 : State} {w : Nat}

theorem issueNow_runs {i : Instr} (fetched : s.fetchNext s.cur = (.word w, s1)) (decodes : decodeWord w = .ok i) :
    s.issueNow = counted i s1 (exec i s1) := by
  rw [State.issueNow, fetched]
  dsimp only
  rw [decodes]

theorem issueNow_illegal {c : Nat} (fetched : s.fetchNext s.cur = (.word w, s1)) (fails : decodeWord w = .error c) :
    s.issueNow = s1.illegalWord w c := by
  rw [State.issueNow, fetched]
  dsimp only
  rw [fails]

theorem issueNow_faults {c a i : Nat} (fetched : s.fetchNext s.cur = (.trap c a i, s1)) : s.issueNow = s1.raise c a i 1 := by
  rw [State.issueNow, fetched]

theorem issueNow_holds (fetched : s.fetchNext s.cur = (.hold, s1)) : s.issueNow = s1.block .refill := by
  rw [State.issueNow, fetched]

end

end Sys2Proof.Laws
end

section
/-! OBLIGATIONS O2, O59 and O60. The member set, what a step runs, and words written out from the encoding. -/
namespace Sys2Proof.Laws

open Machine Safety

/-- Settles O2: %exec and the guard lanes are intersected, and of each lane of the team the guard lanes hold its bit, negated with NEG. -/
theorem memberSet : Obligations.MemberSet := by
  intro t x l inTeam width
  rw [Hart.members, laneIn_and, laneIn_guardLanes inTeam width, Bool.and_eq_true]
  refine and_congr_right fun _ => ?_
  rw [← beq_iff_eq (a := x.g), ← Bool.or_eq_true]
  cases x.g == 0 || laneIn (t.getK x.g.toNat).v l <;> cases x.neg <;> decide

/-- Settles O59: a step runs the row that stands next, or what the fetch at the pc and the decoder answer. -/
theorem stepRunsDecoded : Obligations.StepRunsDecoded := by
  intro s s1
  refine ⟨fun turn => ?_, fun e turn => by rw [step, turn], fun turn => by rw [step, turn]; rfl⟩
  have issues : ∀ {out : Out}, s.setOut.issueNow = out → step s = settled out := fun issued => by rw [step, turn, ← issued]
  refine ⟨fun w i fetched decodes => ?_, fun w c fetched fails => issues (issueNow_illegal (s := s.setOut) fetched fails),
    fun c a i fetched => issues (issueNow_faults (s := s.setOut) fetched), fun fetched => issues (issueNow_holds (s := s.setOut) fetched)⟩
  have runs := issues (issueNow_runs (s := s.setOut) fetched decodes)
  exact ⟨runs, fun t next => by rw [runs, next]; rfl⟩

/-- Settles O60: the decoder, run on each word. -/
theorem decodeWords : Obligations.DecodeWords := by
  unfold Obligations.DecodeWords
  decide

end Sys2Proof.Laws
end

section
/-! SUPPORT. The values of classes 0 and 1 at the width of a type: saturation, division, bits, counts and fields (R86, R92 to R94,
R102 to R106). -/
namespace Sys2Proof.Laws

open Machine Safety

/-- A ready form of the shared shape completes with the values that its function gives each lane. -/
theorem lanewise_gives {i : Instr} {o : Op} {x : Args} {f : State → Nat → Int} {s : State} {y : Nat → Int}
    (now : ready o x s = true) (effect : exec i s = lanewise o x f s) (notSel : o ≠ .sel) (value : ∀ l, f s.unwait l = y l) :
    completesWith i x s (memberLanes s x) (fun l => extended x.ty (y l)) :=
  lanewise_completes now effect notSel (funext fun l => by rw [value])

/-! ### Values of a type (R86) -/

theorem wrap_lt (w : Nat) (y : Int) : wrap w y < 2 ^ w := by
  have positive : (0 : Int) < 2 ^ w := by positivity
  rw [wrap, Int.toNat_lt (Int.emod_nonneg y positive.ne')]
  exact_mod_cast Int.emod_lt_of_pos y positive

/-- The value of an operand has the width of its type. -/
theorem src_lt (s : State) (t : Ty) (o : Operand) (l : Nat) : s.src t o l < 2 ^ tyBits t := by
  have positive := Nat.two_pow_pos (tyBits t)
  cases o with
  | s | v | sr => exact Nat.mod_lt _ positive
  | imm | wide => exact wrap_lt _ _
  | _ => exact positive

theorem toSigned_emod (w n : Nat) : toSigned w n % 2 ^ w = (n : Int) % 2 ^ w := by
  unfold toSigned
  dsimp only
  split <;> simp

theorem interp_emod (t : Ty) (n : Nat) : interp t n % 2 ^ tyBits t = (n : Int) % 2 ^ tyBits t := by
  unfold interp
  split
  · exact toSigned_emod _ n
  · simp

/-- The interpretation of a value leaves the pattern of that value in a register. -/
theorem extended_interp (t : Ty) (n : Nat) : extended t (interp t n) = extended t n := by
  simp only [extended, wrap, interp_emod]

theorem extended_ite_interp (t : Ty) (c : Prop) [Decidable c] (m n : Nat) :
    extended t (if c then interp t m else interp t n) = extended t (if c then m else n : Nat) := by
  split <;> exact extended_interp ..

/-- An immediate reduced to 32 bits is the immediate sign-extended to them. -/
theorem signExtend_toNat (i : BitVec 16) : (BitVec.signExtend 32 i).toNat = wrap 32 (immInt (.imm i)) := by
  rw [BitVec.signExtend, BitVec.toNat_ofInt]; rfl

/-! ### Integer arithmetic (R88, R92 to R94) -/

theorem pairOf_fst (s : State) (o : Op) (x : Args) (l : Nat) :
    (s.pairOf o x l).1 = if twoOperand o x = true then s.srcD x l else s.srcA x l := by
  unfold State.pairOf; split <;> rfl

theorem pairOf_snd (s : State) (o : Op) (x : Args) (l : Nat) :
    (s.pairOf o x l).2 = if twoOperand o x = true then s.srcA x l else s.srcB x l := by
  unfold State.pairOf; split <;> rfl

/-- The least and the greatest value of a type lie in their order. -/
theorem range_le (w : Nat) (signed : Bool) :
    (if signed = true then -(2 ^ (w - 1)) else 0 : Int) ≤ if signed = true then 2 ^ (w - 1) - 1 else 2 ^ w - 1 := by
  have half : (0 : Int) < 2 ^ (w - 1) := by positivity
  have full : (0 : Int) < 2 ^ w := by positivity
  split <;> omega

/-- SAT replaces a value outside the range of the type by the end of the range beyond which it lies. -/
theorem satIf_eq (x : Args) (y : Int) :
    let lo : Int := if tySigned x.ty = true then -(2 ^ (tyBits x.ty - 1)) else 0
    let hi : Int := if tySigned x.ty = true then 2 ^ (tyBits x.ty - 1) - 1 else 2 ^ tyBits x.ty - 1
    satIf x y = if x.sub = 1 then (if hi < y then hi else if y < lo then lo else y) else y := by
  intro lo hi
  have ordered : lo ≤ hi := range_le (tyBits x.ty) (tySigned x.ty)
  unfold satIf
  by_cases saturates : x.sub = 1
  · rw [if_pos (beq_iff_eq.2 saturates), if_pos saturates]
    change min (max y lo) hi = _
    omega
  · rw [if_neg (by simpa using saturates), if_neg saturates]

theorem divRem_fst (t : Ty) (a b : Int) :
    (divRem t a b).1 = if b = 0 then (if tySigned t = true then -1 else 2 ^ tyBits t - 1) else a.tdiv b := by
  unfold divRem; split <;> rfl

theorem divRem_snd (t : Ty) (a b : Int) : (divRem t a b).2 = if b = 0 then a else a - b * a.tdiv b := by
  unfold divRem
  split
  · rfl
  · exact Int.tmod_def a b

/-! ### Bits and counts (R102, R104) -/

theorem unwait_bitPair_fst (s : State) (o : Op) (x : Args) (l : Nat) :
    (s.unwait.bitPair o x l).1 = if twoOperand o x = true then s.src x.ty x.d l else s.src x.ty x.a l := by
  unfold State.bitPair; split <;> exact unwait_src ..

theorem unwait_bitPair_snd (s : State) (o : Op) (x : Args) (l : Nat) :
    (s.unwait.bitPair o x l).2 = if twoOperand o x = true then s.src x.ty x.a l else s.src x.ty x.b l := by
  unfold State.bitPair; split <;> exact unwait_src ..

@[simp] theorem unwait_bitsA (s : State) (x : Args) (l : Nat) : s.unwait.bitsA x l = s.src x.ty x.a l := unwait_src ..
@[simp] theorem unwait_bitsB (s : State) (x : Args) (l : Nat) : s.unwait.bitsB x l = s.src x.ty x.b l := unwait_src ..

theorem notBits_of_lt {w n : Nat} (small : n < 2 ^ w) : notBits w n = 2 ^ w - 1 - n := by
  rw [notBits, Nat.mod_eq_of_lt small]

/-- The highest set bit of a value stands just below its leading zeros. -/
theorem leadingZeros_spec {w n : Nat} (small : n < 2 ^ w) :
    leadingZeros w n ≤ w ∧ n < 2 ^ (w - leadingZeros w n) ∧ (leadingZeros w n < w → 2 ^ (w - leadingZeros w n - 1) ≤ n) := by
  unfold leadingZeros
  split
  · next zero => simp [zero]
  · next nonzero =>
    have top : n.log2 < w := (Nat.log2_lt nonzero).2 small
    have below : w - (w - 1 - log2 n) = n.log2 + 1 := by unfold log2; omega
    rw [below]
    exact ⟨by omega, Nat.lt_log2_self, fun _ => Nat.log2_self_le nonzero⟩

/-- The lowest set bit of a value stands just above its trailing zeros. -/
theorem trailingZeros_spec (w n : Nat) :
    trailingZeros w n ≤ w ∧ (∀ i < trailingZeros w n, n.testBit i = false) ∧
      (trailingZeros w n < w → n.testBit (trailingZeros w n) = true) := by
  unfold trailingZeros
  cases found : (List.range w).find? (fun i => bit n i) with
  | none =>
    have clear := List.find?_range_eq_none.1 found
    simp only [bit, Bool.not_eq_true'] at clear
    simpa using clear
  | some k =>
    obtain ⟨set, inRange, clear⟩ := List.find?_range_eq_some.1 found
    simp only [bit, Bool.not_eq_true'] at set clear
    exact ⟨(List.mem_range.1 inRange).le, clear, fun _ => set⟩

/-! ### Digits (R104, R106) -/

theorem foldl_range_add (g : Nat → Nat) (n : Nat) : (List.range n).foldl (fun a i => a + g i) 0 = ∑ i ∈ Finset.range n, g i := by
  induction n with
  | zero => rfl
  | succ n ih => rw [List.range_succ, List.foldl_append, ih, Finset.sum_range_succ]; rfl

/-- A digit of the number that digits spell. -/
theorem digit_of_sum {base n i : Nat} {g : Nat → Nat} (digits : ∀ i, g i < base) (inRange : i < n) :
    (∑ j ∈ Finset.range n, g j * base ^ j) / base ^ i % base = g i := by
  induction n generalizing g i with
  | zero => omega
  | succ n ih =>
    have positive : 0 < base := (Nat.zero_le _).trans_lt (digits 0)
    have lowest : ∑ j ∈ Finset.range (n + 1), g j * base ^ j = g 0 + base * ∑ j ∈ Finset.range n, g (j + 1) * base ^ j := by
      rw [Finset.sum_range_succ', Finset.mul_sum, pow_zero, mul_one, add_comm]
      exact congrArg _ (Finset.sum_congr rfl fun j _ => by ring)
    rw [lowest]
    cases i with
    | zero => rw [pow_zero, Nat.div_one, Nat.add_mul_mod_self_left, Nat.mod_eq_of_lt (digits 0)]
    | succ i =>
      rw [pow_succ', ← Nat.div_div_eq_div_mul, Nat.add_mul_div_left _ _ positive, Nat.div_eq_of_lt (digits 0), zero_add]
      exact ih (fun j => digits (j + 1)) (by omega)

theorem reverseBits_eq_sum (w n : Nat) : reverseBits w n = ∑ j ∈ Finset.range w, b2n (n.testBit (w - 1 - j)) * 2 ^ j := by
  rw [reverseBits, foldl_range_add, ← Finset.sum_range_reflect]
  refine Finset.sum_congr rfl fun j mem => ?_
  have inRange := Finset.mem_range.1 mem
  rw [bit, show w - 1 - (w - 1 - j) = j by omega]

theorem testBit_reverseBits {w i : Nat} (n : Nat) (inRange : i < w) : (reverseBits w n).testBit i = n.testBit (w - 1 - i) := by
  have bit_lt : ∀ j, b2n (n.testBit (w - 1 - j)) < 2 := fun j => by unfold b2n; split <;> omega
  have digit := digit_of_sum bit_lt inRange
  rw [Nat.testBit_eq_decide_div_mod_eq, reverseBits_eq_sum, digit]
  cases n.testBit (w - 1 - i) <;> rfl

/-! ### Fields and bytes (R105, R106) -/

/-- The control word of BFX and BFI: the position in its low byte, the length above it, at most the width of the type. -/
theorem control_fields (ctl : Nat) : bits ctl 0 8 = ctl % 256 ∧ bits ctl 8 8 = ctl / 256 % 256 :=
  ⟨by rw [bits, pow_zero, Nat.div_one]; rfl, rfl⟩

theorem extractField_eq (t : Ty) (a ctl : Nat) :
    let len := min (ctl / 256 % 256) (tyBits t)
    let f : Int := interp t a / 2 ^ (ctl % 256) % 2 ^ len
    extractField t a ctl = if tySigned t = true ∧ 0 < len ∧ 2 ^ (len - 1) ≤ f then f - 2 ^ len else f := by
  obtain ⟨position, length⟩ := control_fields ctl
  intro len f
  unfold extractField
  rw [position, length]
  exact if_congr (by simp [and_assoc, len, f]) rfl rfl

theorem insertField_eq (w d a ctl : Nat) :
    let mk := (2 ^ min (ctl / 256 % 256) w - 1) * 2 ^ (ctl % 256) % 2 ^ w
    insertField w d a ctl = (d &&& (2 ^ w - 1 - mk)) ||| ((a * 2 ^ (ctl % 256)) &&& mk) := by
  obtain ⟨position, length⟩ := control_fields ctl
  intro mk
  unfold insertField
  rw [position, length, ← notBits_of_lt (Nat.mod_lt _ (Nat.two_pow_pos w))]

/-- The byte that a selector of PRMB names, or 0. -/
theorem permuteBytes_digit {w i : Nat} (a sel : Nat) (inRange : i < w / 8) :
    permuteBytes w a sel / 256 ^ i % 256 =
      if sel.testBit (4 * i + 3) then 0 else a / 256 ^ (sel / 16 ^ i % 8 % (w / 8)) % 256 := by
  have bytes : ∀ i : Nat, 2 ^ (8 * i) = 256 ^ i := pow_mul 2 8
  have zeroes : ∀ i, bit (bits sel (4 * i) 4) 3 = sel.testBit (4 * i + 3) := fun i => by
    rw [bit, bits, Nat.testBit_mod_two_pow, Nat.testBit_div_two_pow, add_comm]; rfl
  have names : ∀ i, bits sel (4 * i) 4 % 8 = sel / 16 ^ i % 8 := fun i => by
    rw [bits, show 2 ^ (4 * i) = 16 ^ i from pow_mul 2 4 i, Nat.mod_mod_of_dvd _ (by decide)]
  have byte : ∀ k, bits a (8 * k) 8 = a / 256 ^ k % 256 := fun k => by rw [bits, bytes]; rfl
  have sum : permuteBytes w a sel = ∑ i ∈ Finset.range (w / 8),
      (if sel.testBit (4 * i + 3) then 0 else a / 256 ^ (sel / 16 ^ i % 8 % (w / 8)) % 256) * 256 ^ i := by
    rw [permuteBytes, foldl_range_add]
    exact Finset.sum_congr rfl fun i _ => by rw [zeroes, names, byte, bytes]
  rw [sum]
  exact digit_of_sum (g := fun i => if sel.testBit (4 * i + 3) then 0 else a / 256 ^ (sel / 16 ^ i % 8 % (w / 8)) % 256)
    (fun i => by split <;> omega) inRange

end Sys2Proof.Laws
end

section
/-! OBLIGATIONS O1, O3 and O4. The forms of classes 0 and 1 that compute a value for each lane. -/
namespace Sys2Proof.Laws

open Machine Safety

/-- Settles O1: each form has the shared shape, and its function gives each lane the value stated. -/
theorem integerArithmetic : Obligations.IntegerArithmetic := by
  intro x s w a b d p q lo hi sat gives
  have saturated : ∀ y, satIf x y = sat y := satIf_eq x
  have first : ∀ o l, (s.unwait.pairOf o x l).1 = p o l := fun o l => by rw [unwait_pairOf, pairOf_fst]; rfl
  have second : ∀ o l, (s.unwait.pairOf o x l).2 = q o l := fun o l => by rw [unwait_pairOf, pairOf_snd]; rfl
  have srcA : ∀ l, s.unwait.srcA x l = a l := unwait_srcA s x
  have srcB : ∀ l, s.unwait.srcB x l = b l := unwait_srcB s x
  have srcD : ∀ l, s.unwait.srcD x l = d l := unwait_srcD s x
  refine ⟨fun now => lanewise_gives now (exec_add x s) (by decide) fun l => ?add,
    fun now => lanewise_gives now (exec_sub x s) (by decide) fun l => ?sub,
    fun now => lanewise_gives now (exec_mul x s) (by decide) fun l => ?mul,
    fun now => lanewise_gives now (exec_mad x s) (by decide) fun l => ?mad,
    fun now => lanewise_gives now (exec_mulh x s) (by decide) fun l => ?mulh,
    fun now => lanewise_gives now (exec_div x s) (by decide) fun l => ?div,
    fun now => lanewise_gives now (exec_rem x s) (by decide) fun l => ?rem,
    fun now => lanewise_gives now (exec_min x s) (by decide) fun l => ?min,
    fun now => lanewise_gives now (exec_max x s) (by decide) fun l => ?max,
    fun now => lanewise_gives now (exec_abs x s) (by decide) fun l => ?abs,
    fun now => lanewise_gives now (exec_lea x s) (by decide) fun l => ?lea⟩
  case add => dsimp only; rw [saturated, first, second]
  case sub => rw [saturated, srcA, srcB]
  case mul => rw [saturated, srcA, srcB]
  case mad => rw [saturated, srcA, srcB, srcD]
  case mulh => rw [srcA, srcB]
  case div => rw [divRem_fst, srcA, srcB]
  case rem => rw [divRem_snd, srcA, srcB]
  case min => rw [srcA, srcB, min_def]
  case max => rw [srcA, srcB, max_def]
  case abs =>
    have magnitude : ((a l).natAbs : Int) = if a l < 0 then -a l else a l := by omega
    rw [saturated, srcA, magnitude]
  case lea => dsimp only; rw [first, second]

/-- Settles O3: each form has the shared shape, and what it moves keeps its pattern at the width of the type. -/
theorem selectAndMove : Obligations.SelectAndMove := by
  intro x s a b g gives
  refine ⟨fun now => sel_completes now (exec_sel x s) (funext fun l => ?sel),
    fun now => lanewise_completes now (exec_mov x s) (by decide) (funext fun l => ?mov),
    fun now => lanewise_completes now (exec_movw x s) (by decide) (funext fun l => ?movw),
    fun now => lanewise_gives now (exec_movh x s) (by decide) fun l => ?movh⟩
  case sel =>
    dsimp only
    rw [unwait_src, unwait_src, unwait_exec, unwait_guard, extended_ite_interp]
    refine congrArg (fun n : Nat => extended x.ty n) (if_congr ?_ rfl rfl)
    by_cases scalar : kindOf x.d = .s
    · rw [if_pos scalar, if_pos (beq_iff_eq.2 scalar), bne_iff_ne]
    · rw [if_neg scalar, if_neg (by simpa using scalar)]
  case mov => rw [unwait_srcA]; exact (extended_interp ..).symm
  case movw => rw [unwait_srcA]; exact (extended_interp ..).symm
  case movh =>
    rw [unwait_src]
    cases x.a with
    | imm i => dsimp only; rw [signExtend_toNat]
    | wide i => rfl
    | _ => rfl

/-- Settles O4: each form has the shared shape, and its function gives each lane the bits stated. -/
theorem logicAndShift : Obligations.LogicAndShift := by
  intro x s w a b d p q pos len mk gives
  have first : ∀ o l, (s.unwait.bitPair o x l).1 = p o l := fun o l => unwait_bitPair_fst s o x l
  have second : ∀ o l, (s.unwait.bitPair o x l).2 = q o l := fun o l => unwait_bitPair_snd s o x l
  have bitsA : ∀ l, s.unwait.bitsA x l = a l := unwait_bitsA s x
  have bitsB : ∀ l, s.unwait.bitsB x l = b l := unwait_bitsB s x
  have smallA : ∀ l, a l < 2 ^ w := src_lt s x.ty x.a
  have smallQ : ∀ o l, q o l < 2 ^ w := fun o l => by simp only [q]; split <;> exact src_lt ..
  refine ⟨fun now => lanewise_gives now (exec_and x s) (by decide) fun l => ?and,
    fun now => lanewise_gives now (exec_or x s) (by decide) fun l => ?or,
    fun now => lanewise_gives now (exec_xor x s) (by decide) fun l => ?xor,
    fun now => lanewise_gives now (exec_andn x s) (by decide) fun l => ?andn,
    fun now => lanewise_gives now (exec_not x s) (by decide) fun l => ?not,
    fun now => lanewise_gives now (exec_shl x s) (by decide) fun l => ?shl,
    fun now => lanewise_gives now (exec_shr x s) (by decide) fun l => ?shr,
    fun now => lanewise_gives now (exec_sra x s) (by decide) fun l => ?sra,
    fun now => lanewise_gives now (exec_rol x s) (by decide) fun l => ?rol,
    fun now => ⟨fun l => leadingZeros w (a l), fun l => leadingZeros_spec (smallA l),
      lanewise_gives now (exec_clz x s) (by decide) fun l => ?clz⟩,
    fun now => ⟨fun l => trailingZeros w (a l), fun l => trailingZeros_spec w (a l),
      lanewise_gives now (exec_ctz x s) (by decide) fun l => ?ctz⟩,
    fun now => lanewise_gives now (exec_popc x s) (by decide) fun l => ?popc,
    fun now => ⟨fun l => reverseBits w (a l), fun l i => testBit_reverseBits (a l),
      lanewise_gives now (exec_brev x s) (by decide) fun l => ?brev⟩,
    fun now => lanewise_gives now (exec_bfx x s) (by decide) fun l => ?bfx,
    fun now => lanewise_gives now (exec_bfi x s) (by decide) fun l => ?bfi,
    fun now => ⟨fun l => permuteBytes w (a l) (b l), fun l i => permuteBytes_digit (a l) (b l),
      lanewise_gives now (exec_prmb x s) (by decide) fun l => ?prmb⟩⟩
  case and => dsimp only; rw [first, second]
  case or => dsimp only; rw [first, second]
  case xor => dsimp only; rw [first, second]
  case andn => dsimp only; rw [first, second, notBits_of_lt (smallQ _ l)]
  case not => rw [bitsA, notBits_of_lt (smallA l)]
  case shl => dsimp only; rw [bitsA, bitsB]; push_cast; rfl
  case shr => dsimp only; rw [bitsA, bitsB]; push_cast; rfl
  case sra => rw [bitsA, bitsB]
  case rol => dsimp only; rw [bitsA, bitsB]
  case clz => rw [bitsA]
  case ctz => rw [bitsA]
  case popc => rw [bitsA]; rfl
  case brev => rw [bitsA]
  case bfx => rw [bitsA, bitsB]; exact extractField_eq ..
  case bfi => rw [bitsA, bitsB, unwait_src, insertField_eq]
  case prmb => rw [bitsA, bitsB]

end Sys2Proof.Laws
end

section
/-! SUPPORT. Compares: the members' bits merged into a predicate register, or one truth value in a scalar one (R96, R141). -/
namespace Sys2Proof.Laws

open Machine Safety

theorem laneIn_or (m n : Mask) (l : Nat) : laneIn (m ||| n) l = (laneIn m l || laneIn n l) := BitVec.getLsbD_or

/-- Each member's bit written into a mask, every other bit kept. -/
theorem laneIn_merge {W l : Nat} (old m : Mask) (res : Nat → Bool) (inTeam : l < W) (width : W ≤ 1024) :
    laneIn ((old &&& ~~~m) ||| maskOf ((lanesOf W m).filter res)) l = if laneIn m l = true then res l else laneIn old l := by
  have inMask : l < 1024 := inTeam.trans_le width
  rw [laneIn_or, laneIn_and, laneIn_not m inMask, laneIn_maskOf _ l inMask]
  cases member : laneIn m l <;> simp [mem_lanesOf, member, inTeam]

/-- What a compare leaves in a predicate register: the members' truth values, every other bit as it was. -/
def mergedBit (s : State) (x : Args) (r : Nat) (truth : Nat → Bool) (l : Nat) : Bool :=
  if laneIn (s.now.members x) l = true then truth l else laneIn (s.now.getK r).v l

/-! ### CMP (R96) -/

/-- The truth value that CMP computes in a lane. -/
def cmpTruth (s : State) (x : Args) (l : Nat) : Bool := cc6 x.sub.toNat (s.srcA x l) (s.srcB x l)

section
variable {x : Args} {s : State}

theorem cmp_writes_mask {r : BitVec 4} {e : Bool} (now : ready .cmp x s = true) (isK : x.d = .k r e) :
    completesMask (.cmp x) s r.toNat 0 (mergedBit s x r.toNat (cmpTruth s x)) := by
  refine completesMask_setK _ ?_ (fun l inTeam width => laneIn_merge _ _ (cmpTruth s x) inTeam width)
  rw [exec_cmp, execCmp, issue_of_ready _ now, raiseFlags_zero]
  simp only [isK, unwait_srcA, unwait_srcB, unwait_members, unwait_getK, unwait_W, unwait_cur]
  rfl

theorem cmp_writes_scalar {r : BitVec 8} {e : Bool} {m : BitVec 7} (now : ready .cmp x s = true) (isS : x.d = .s r e m) :
    completesWith (.cmp x) x s [0] (fun _ => if cmpTruth s x 0 = true then 1 else 0) := by
  have effect : exec (.cmp x) s =
      .next (s.unwait.setHart s.cur ((s.unwait.now.setS r.toNat (if cmpTruth s x 0 = true then 1 else 0)).raiseFlags 0).advance) := by
    rw [exec_cmp, execCmp, issue_of_ready _ now, raiseFlags_zero]
    simp only [isS, unwait_srcA, unwait_srcB, unwait_cur]
    rfl
  obtain ⟨t, steps, flags, result⟩ := completesScalar_setS (ty := x.ty) isS effect
  exact ⟨t, steps, flags.trans BitVec.or_zero, result⟩

/-! ### FCMP (R141) -/

/-- The truth value that FCMP computes in a lane, and the flags it sets. -/
def fcmpTruth (s : State) (x : Args) (l : Nat) : Bool × Flags :=
  let value := fun o => (fmtOf x.ty).value ((fmtOf x.ty).flushIn (envOf s.now.fpm x.rm.toNat) (s.fpSrc x.ty o l))
  cc8 x.sub.toNat (value x.a) (value x.b)

theorem unwait_fcmpTruth (s : State) (x : Args) : fcmpTruth s.unwait x = fcmpTruth s x := by
  funext l
  simp only [fcmpTruth, unwait_fpm, unwait_fpSrc]

/-- The results of FCMP: of each lane that it computes its truth value as a number, with the flags. -/
def fcmpResults (s : State) (x : Args) : List (Nat × Res) :=
  (formLanes s.now x).map (fun l => (l, (b2n (fcmpTruth s x l).1, (fcmpTruth s x l).2)))

/-- The lanes of the results that are 1 are those of true truth values. -/
theorem lanes_of_ones (s : State) (x : Args) :
    ((fcmpResults s x).filter (fun p => p.2.1 == 1)).map Prod.fst = (formLanes s.now x).filter (fun l => (fcmpTruth s x l).1) := by
  have one : ∀ c, (b2n c == 1) = c := by decide
  simp [fcmpResults, List.filter_map, Function.comp_def, one]

theorem unwait_fcmpResults (s : State) (x : Args) : fcmpResults s.unwait x = fcmpResults s x := by
  rw [fcmpResults, unwait_fcmpTruth, unwait_formLanes, fcmpResults]

theorem fcmp_writes_mask {r : BitVec 4} {e : Bool} (now : ready .fcmp x s = true) (isK : x.d = .k r e) :
    completesMask (.fcmp x) s r.toNat (flagsOf (memberLanes s x) (fun l => (0, (fcmpTruth s x l).2)))
      (mergedBit s x r.toNat (fun l => (fcmpTruth s x l).1)) := by
  have lanes : formLanes s.now x = memberLanes s x := by
    rw [formLanes, if_pos (by simp [perLane, isK, isMaskOp]), memberLanes]
  have flags : orFlags (fcmpResults s x) = flagsOf (memberLanes s x) (fun l => (0, (fcmpTruth s x l).2)) := by
    rw [fcmpResults, lanes, flagsOf_eq]; rfl
  have ones := lanes_of_ones s x
  rw [lanes] at ones
  rw [← flags]
  refine completesMask_setK _ ?_ (fun l inTeam width => laneIn_merge _ _ (fun l => (fcmpTruth s x l).1) inTeam width)
  rw [← memberLanes, ← ones, ← unwait_fcmpResults, ← unwait_getK, ← unwait_members, exec_fcmp, execFcmp, issue_of_ready _ now]
  simp only [isK]
  rfl

theorem fcmp_writes_scalar {r : BitVec 8} {e : Bool} {m : BitVec 7} (now : ready .fcmp x s = true) (isS : x.d = .s r e m) :
    ∃ t : State, registerStep (.fcmp x) s t ∧ t.now.fflags = s.now.fflags ||| (fcmpTruth s x 0).2 ∧
      resultIn x.ty x.d [0] (fun _ => if (fcmpTruth s x 0).1 = true then 1 else 0) s.now t.now := by
  obtain ⟨scalarA, scalarB⟩ : kindOf x.a ≠ .v ∧ kindOf x.b ≠ .v := by
    have kinds := kindRule_of_ready now
    simpa [kindRule, isS, kindOf] using kinds
  have once : formLanes s.now x = [0] := formLanes_scalar _ _ (by rw [isS]; rfl) scalarA scalarB
  have result : fcmpResults s x = [(0, (b2n (fcmpTruth s x 0).1, (fcmpTruth s x 0).2))] := by rw [fcmpResults, once]; rfl
  have flags : orFlags (fcmpResults s x) = (fcmpTruth s x 0).2 := by rw [result]; exact BitVec.zero_or
  have truth : BitVec.ofNat 64 (((fcmpResults s x).head?.map (fun p => p.2.1)).getD 0) =
      if (fcmpTruth s x 0).1 = true then 1 else 0 := by
    rw [result]
    cases (fcmpTruth s x 0).1 <;> rfl
  refine completesScalar_setS isS ?_
  rw [← truth, ← flags, ← unwait_fcmpResults, exec_fcmp, execFcmp, issue_of_ready _ now]
  simp only [isS]
  rfl

end

end Sys2Proof.Laws
end

section
/-! OBLIGATION O5. Compares. -/
namespace Sys2Proof.Laws

open Machine Safety

/-- Settles O5: with a K destination the members' bits are merged into the register, with an S one lane 0's bit is written. -/
theorem compares : Obligations.Compares := by
  intro x s a b cc f value fc merged
  have condition : cmpTruth s x = cc := by
    funext l
    change cc6 x.sub.toNat (a l) (b l) = cc l
    simp only [cc]
    rcases x.sub.toNat with _ | _ | _ | _ | _ | n
    case succ.zero => exact (decide_not (p := a l = b l)).symm
    all_goals rfl
  exact ⟨fun now r e isK => condition ▸ cmp_writes_mask now isK, fun now r e m isS => condition ▸ cmp_writes_scalar now isS,
    fun now r e isK => fcmp_writes_mask now isK, fun now r e m isS => fcmp_writes_scalar now isS⟩

end Sys2Proof.Laws
end

section
/-! SUPPORT. A table written twice at one key, and with it a hart rewritten twice. -/
namespace Sys2Proof.Laws

open Machine

theorem sdrop_sdrop {α : Type} (m : Sparse α) (k : Nat) : sdrop (sdrop m k) k = sdrop m k := by
  induction m with
  | nil => rfl
  | cons p r ih =>
    by_cases here : p.1 = k <;> simp [sdrop, here, ih]

/-- Taking out a key undoes the entry put for it. -/
theorem sdrop_sput {α : Type} (m : Sparse α) (k : Nat) (v : α) : sdrop (sput m k v) k = sdrop m k := by
  induction m with
  | nil => simp [sput, sdrop]
  | cons p r ih =>
    by_cases before : k < p.1
    · simp [sput, sdrop, before]
    · simp [sput, sdrop, before, ih]

/-- Of two writes of one key the later stands alone, whatever the table. -/
theorem sset_sset {α : Type} [DecidableEq α] (d : α) (m : Sparse α) (k : Nat) (v w : α) :
    sset d (sset d m k v) k w = sset d m k w := by
  have erased : sdrop (sset d m k v) k = sdrop m k := by
    unfold sset
    split
    · exact sdrop_sdrop m k
    · rw [sdrop_sput, sdrop_sdrop]
  rw [sset, erased, sset]

theorem setHart_setHart (s : State) (h : Nat) (t u : Hart) : (s.setHart h t).setHart h u = s.setHart h u := by
  simp only [State.setHart, sset_sset]

/-- A change of the running hart after another is one change. -/
theorem modNow_modHart (s : State) (f g : Hart → Hart) : (s.modHart s.cur f).modNow g = s.modNow (fun t => g (f t)) := by
  simp only [State.modNow, State.modHart, State.now, setHart_cur, setHart_setHart, hart_setHart, if_true]

end Sys2Proof.Laws
end

section
/-! SUPPORT. SRR and SRW: what a write of a special register changes, by the place where the register stands (R77, R78, R80, R197). -/
namespace Sys2Proof.Laws

open Machine Safety

/-! ### Where a special register stands -/

/-- The word that SRW writes: its source at 64 bits (R86). -/
def srwWord (s : State) (x : Args) : Word := BitVec.ofNat 64 (s.scalar x.a)

/-- The lowest bits of a word, as a mask leaves them. -/
theorem and_lowOnes (v : Word) (k : Nat) : v &&& BitVec.ofNat 64 (2 ^ k - 1) = BitVec.ofNat 64 (v.toNat % 2 ^ k) := by
  refine BitVec.eq_of_getLsbD_eq fun i inWord => ?_
  rw [BitVec.getLsbD_and, BitVec.getLsbD_ofNat, BitVec.getLsbD_ofNat, Nat.testBit_two_pow_sub_one, Nat.testBit_mod_two_pow,
    BitVec.testBit_toNat]
  simp only [inWord, decide_true, Bool.true_and, Bool.and_comm]

/-- The tags that a write of %tagmap clears are the crew's (R78). -/
theorem writeSr_tagmap_crew {s : State} {h : Nat} {c : Crew} (v : Word) (member : s.crewOf h = some c) :
    s.writeSr h 0x14 v = s.modCrew c.key (fun k => k.clearTags v.toNat) := by
  unfold State.writeSr
  simp only [member, beq_self_eq_true, if_true]

theorem writeSr_tagmap_alone {s : State} {h : Nat} (v : Word) (alone : s.crewOf h = none) : s.writeSr h 0x14 v = s := by
  unfold State.writeSr
  simp only [alone, beq_self_eq_true, if_true]

theorem writeSr_tracker (s : State) (h : Nat) {n : Nat} (v : Word) (tracker : n < 8) :
    s.writeSr h (0x20 + n) v = s.setAmax h n (v.setWidth 32) := by
  unfold State.writeSr
  rw [if_neg (by simp; omega), if_pos (by simp; omega), Nat.add_sub_cancel_left]

theorem writeSr_kvdir (s : State) (h : Nat) (v : Word) :
    s.writeSr h 0x50 v = s.modHub (fun u => { u with kvdir := sset 0 u.kvdir (s.hart h).guest v }) := rfl

/-! ### SRR -/

/-- The running hart with a word in a scalar destination. -/
def withScalar (t : Hart) (d : Operand) (v : Word) : Hart := if kindOf d == .s then t.setS (regOf d) v else t

theorem generalOnly_withScalar {u t : Hart} (d : Operand) (v : Word) (h : generalOnly u t) : generalOnly u (withScalar t d v) := by
  unfold withScalar
  split
  · exact generalOnly_setS _ _ h
  · exact h

theorem getS_withScalar (t : Hart) (d : Operand) (v : Word) (r : Nat) :
    (withScalar t d v).getS r = if kindOf d = .s ∧ r = regOf d ∧ r ≠ 0 then ⟨.full, v⟩ else t.getS r := by
  unfold withScalar
  split
  · next scalar => simp only [getS_setS, beq_iff_eq.1 scalar, true_and, eq_comm]
  · next other => rw [if_neg (fun h => other (beq_iff_eq.2 h.1))]

theorem getV_withScalar (t : Hart) (d : Operand) (v : Word) (r l : Nat) : (withScalar t d v).getV r l = t.getV r l := by
  unfold withScalar
  split
  · exact getV_setS ..
  · rfl

theorem getK_withScalar (t : Hart) (d : Operand) (v : Word) (r : Nat) : (withScalar t d v).getK r = t.getK r := by
  unfold withScalar
  split
  · exact getK_setS ..
  · rfl

section
variable {x : Args} {s : State}

theorem srr_effect (now : ready .srr x s = true) : exec (.srr x) s =
    .next (s.unwait.setHart s.cur (withScalar s.unwait.now x.d (s.readSr s.cur (srOf x.a))).advance) := by
  rw [exec_srr, execSrr, issue_of_ready _ now, unwait_cur, unwait_readSr]
  exact congrArg Host.Outcome.next (modNow_modHart s.unwait (fun t => withScalar t x.d (s.readSr s.cur (srOf x.a))) Hart.advance)

/-! ### SRW -/

/-- The registers that only hardware writes (R77). -/
def hardwareSr (n : Nat) : Bool := n == 0x15 || n == 0x16

theorem srw_effect {n : BitVec 10} {u : State} (now : ready .srw x s = true) (soft : hardwareSr n.toNat = false)
    (within : n.toNat = 0x50 → s.now.mode ≠ .user) (writes : s.unwait.writeSr s.cur n.toNat (srwWord s x) = u)
    (named : x.d = .sr n) : exec (.srw x) s = .next (u.modNow Hart.advance) := by
  have number : srOf x.d = n.toNat := by rw [named, srOf]
  have permitted : (n.toNat == 0x50 && s.now.mode == .user) = false := by simpa using within
  rw [exec_srw, execSrw, number, ← hardwareSr, soft, Bool.and_assoc _ (n.toNat == 0x50), permitted, if_neg (by simp),
    if_neg (by simp), issue_of_ready _ now, State.scalar, unwait_src, unwait_cur, ← writes]
  rfl

/-- A register whose write changes the running hart's record alone. -/
theorem srw_gives {n : BitVec 10} {f : Hart → Hart} (now : ready .srw x s = true) (soft : hardwareSr n.toNat = false)
    (kvdir : n.toNat ≠ 0x50) (writes : s.unwait.writeSr s.cur n.toNat (srwWord s x) = s.unwait.modHart s.cur f) (named : x.d = .sr n) :
    exec (.srw x) s = .next (s.unwait.modNow (fun t => (f t).advance)) := by
  rw [srw_effect now soft (fun same => absurd same kvdir) writes named]
  exact congrArg Host.Outcome.next (modNow_modHart s.unwait f Hart.advance)

/-- The registers that a write finds in the record of a hart. -/
def standsInHart (n : Nat) : Bool := !hardwareSr n && n != 0x14 && n != 0x50 && (n < 0x20 || 0x27 < n)

/-- A register of the hart's own record takes its word there (R77, R78). -/
theorem srw_own {n : BitVec 10} {f : Hart → Hart} (now : ready .srw x s = true) (own : standsInHart n.toNat = true)
    (writes : ∀ t : Hart, t.writeSr n.toNat (srwWord s x) = f t) (named : x.d = .sr n) :
    exec (.srw x) s = .next (s.unwait.modNow (fun t => (f t).advance)) := by
  simp only [standsInHart, Bool.and_eq_true, Bool.not_eq_true', bne_iff_ne, Bool.or_eq_true, decide_eq_true_eq] at own
  obtain ⟨⟨⟨soft, tags⟩, kvdir⟩, trackers⟩ := own
  exact srw_gives now soft kvdir (by rw [writeSr_own _ _ _ tags trackers kvdir, funext writes]) named

/-- A register that is only read ignores the word (R78). -/
theorem srw_readOnly {n : BitVec 10} (now : ready .srw x s = true) (only : n.toNat ∈ readOnlySrs) (named : x.d = .sr n) :
    exec (.srw x) s = .next (s.unwait.modNow Hart.advance) := by
  have neither : ∀ m ∈ readOnlySrs, hardwareSr m = false ∧ m ≠ 0x50 := by decide
  obtain ⟨soft, kvdir⟩ := neither _ only
  exact srw_gives now soft kvdir (writeSr_readOnly _ _ _ only) named

/-- A register that only hardware writes is ILLEGAL as a destination (R77). -/
theorem srw_hardware (formed : checkArgs .srw x = none) (hardware : srOf x.d = 0x15 ∨ srOf x.d = 0x16) :
    exec (.srw x) s = .next (s.takeTrap s.cur 1 0 (hostDie s.cur + 8 * 16) 0) := by
  rw [exec_srw, execSrw, if_pos (by simpa [formed] using hardware)]
  rfl

/-- A USER write of %kvdir is PRIVILEGED (R6). -/
theorem srw_kvdir_user (formed : checkArgs .srw x = none) (kvdir : srOf x.d = 0x50) (user : s.now.mode = .user) :
    exec (.srw x) s = .next (s.takeTrap s.cur 0x16 0 0x050 0) := by
  rw [exec_srw, execSrw, if_neg (by simp [kvdir]), if_pos (by simp [formed, kvdir, user])]
  rfl

end

end Sys2Proof.Laws
end

section
/-! OBLIGATION O22. Special registers. -/
namespace Sys2Proof.Laws

open Machine Safety

/-- Settles O22: SRR by the one scalar it writes, SRW by where the register named stands. -/
theorem specialRegisters : Obligations.SpecialRegisters := by
  intro x s a gives
  refine ⟨fun now => ?srr, fun now => ?srw, fun named user formed => ?user, fun named formed => ?hardware⟩
  case srr =>
    have general := generalOnly_withScalar x.d (s.readSr s.cur (srOf x.a)) (generalOnly_rfl s.unwait.now)
    refine ⟨_, registerStep_plain (srr_effect now) general, ?_, fun r l => ?_, fun r => ?_, fun r => ?_⟩ <;>
      rw [now_unwait_setHart]
    · exact (generalOnly_fflags general).trans (unwait_fflags s)
    · rw [getV_advance, getV_withScalar, unwait_getV]
    · rw [getK_advance, getK_withScalar, unwait_getK]
    · rw [getS_advance, getS_withScalar, unwait_getS]
  case srw =>
    refine ⟨srw_own now rfl fun t => ?fpm, srw_own now rfl fun t => ?fflags, srw_own now rfl fun t => ?tvec,
      srw_own now rfl fun t => ?tstatus, srw_own now rfl fun t => rfl, srw_own now rfl fun t => ?gdeleg,
      srw_own now rfl fun t => rfl, srw_own now rfl fun t => rfl, srw_own now rfl fun t => rfl, srw_own now rfl fun t => rfl,
      srw_own now rfl fun t => ?hdeleg, srw_own now rfl fun t => rfl, srw_own now rfl fun t => rfl,
      srw_own now rfl fun t => rfl, srw_own now rfl fun t => rfl, srw_own now rfl fun t => rfl,
      fun n named only => ?readOnly, fun named => ?tagmap, fun n tracker named => ?trackers, fun named within => ?kvdir⟩
    case fpm =>
      have stored : t.writeSr 0x12 (srwWord s x) = { t with fpm := fpmStored a.toNat } := rfl
      exact stored.trans (by rw [fpmStored_eq, apply_ite (BitVec.ofNat 7)])
    case fflags => rfl
    case tvec => exact congrArg (fun v => { t with trap := { t.trap with tvec := v } }) (and_lowOnes a 21)
    case tstatus => exact congrArg (fun v => { t with trap := { t.trap with tstatus := v } }) (and_lowOnes a 4)
    case gdeleg => rfl
    case hdeleg => rfl
    case readOnly => exact srw_readOnly now (List.mem_map_of_mem (f := BitVec.toNat) only) named
    case tagmap =>
      have issues := fun u => srw_effect (n := 0x14) (u := u) now rfl (by simp)
      cases crew : s.crewOf s.cur with
      | some c => exact issues _ (writeSr_tagmap_crew _ ((unwait_crewOf ..).trans crew)) named
      | none => exact issues _ (writeSr_tagmap_alone _ ((unwait_crewOf ..).trans crew)) named
    case trackers =>
      have number : (BitVec.ofNat 10 (0x20 + n)).toNat = 0x20 + n := by rw [BitVec.toNat_ofNat]; omega
      have soft : hardwareSr (0x20 + n) = false := by simp [hardwareSr]; omega
      exact srw_effect now (by rwa [number]) (by omega) (by rw [number]; exact writeSr_tracker _ _ _ tracker) named
    case kvdir => exact srw_effect now rfl (fun _ => within) (by rw [← unwait_guest]; exact writeSr_kvdir ..) named
  case user => exact srw_kvdir_user formed (by rw [named]; rfl) user
  case hardware => exact srw_hardware formed (named.imp (fun named => by rw [named]; rfl) (fun named => by rw [named]; rfl))

end Sys2Proof.Laws
end

section
/-! SUPPORT. A cell that takes two finite contributions holds the same in either order (R117, R118). -/
namespace Sys2Proof.Laws

open Machine

/-- R118: NAN absorbs, opposite infinities make NAN, FINITE leaves the other. -/
theorem combineTag_right_comm : ∀ a b c : BitVec 2, combineTag (combineTag a b) c = combineTag (combineTag a c) b := by decide

/-- A contribution of 2^63 or more in magnitude reaches the tag alone. -/
theorem take_large (c : Cell) {m e : Int} (large : magAtLeast m e 63 = true) :
    c.take m e = { c with tag := combineTag c.tag (if m < 0 then 2 else 1) } := if_pos large

/-- A smaller one reaches the sum alone. -/
theorem take_small (c : Cell) {m e : Int} (small : ¬magAtLeast m e 63 = true) :
    c.take m e = { c with x := c.x + BitVec.ofInt 128 (toFixed m e) } := if_neg small

theorem take_right_comm (c : Cell) (m e m' e' : Int) : (c.take m e).take m' e' = (c.take m' e').take m e := by
  by_cases first : magAtLeast m e 63 = true <;> by_cases second : magAtLeast m' e' 63 = true
  · simp only [take_large _ first, take_large _ second, combineTag_right_comm]
  · rw [take_large _ first, take_small _ second, take_small _ second, take_large _ first]
  · rw [take_small _ first, take_large _ second, take_large _ second, take_small _ first]
  · rw [take_small _ first, take_small _ second, take_small _ second, take_small _ first, add_right_comm]

end Sys2Proof.Laws
end

section
/-! OBLIGATION O35. The order of accumulation. -/
namespace Sys2Proof.Laws

open Machine

/-- Settles O35: two neighbours may change places, so any two orders end in the same cell. -/
theorem accumulationOrder : Obligations.AccumulationOrder := by
  intro c l l' same
  exact same.foldl_eq' (fun p _ q _ k => take_right_comm k p.1 p.2 q.1 q.2) c

end Sys2Proof.Laws
end

section
/-! SUPPORT. The forms of class 2: each element of a result is what the operation of its rule gives of the flushed elements (R124, R136,
R137). -/
namespace Sys2Proof.Laws

open Machine Safety

/-- An element of a source of class 2 after FTZIN (R124, R137). -/
def flushedElem (s : State) (x : Args) (o : Operand) (l i : Nat) : Nat :=
  (fmtOf x.ty).flushIn (envOf s.now.fpm x.rm.toNat) (elemAt x.ty (s.fpSrc x.ty o l) i)

/-- The kind rule of classes 0 to 2 refuses a vector source beside a scalar D (R85). -/
theorem scalarSources {o : Op} {x : Args}
    (rule : kindRule o x = !(kindOf x.d == .s && (kindOf x.a == .v || kindOf x.b == .v))) (accepted : kindRule o x = true)
    (scalar : kindOf x.d = .s) : kindOf x.a ≠ .v ∧ kindOf x.b ≠ .v := by
  simpa [rule, scalar] using accepted

/-- A ready form of class 2 completes with the operation `f` of its flushed elements. -/
theorem fpOp_gives {i : Instr} {o : Op} {x : Args} {s : State} {f : Fmt → Env → Nat → Nat → Nat → Res} {y : Nat → Nat → Res}
    (now : ready o x s = true) (effect : exec i s = fpOp o x f s)
    (rule : kindRule o x = !(kindOf x.d == .s && (kindOf x.a == .v || kindOf x.b == .v)))
    (value : ∀ l i, f (fmtOf x.ty) (envOf s.now.fpm x.rm.toNat) (flushedElem s x x.a l i) (flushedElem s x x.b l i)
      (flushedElem s x x.d l i) = y l i) :
    completesFlags i x.ty x.d s (formLanes s.now x) (fun l => byElem x.ty (y l)) := by
  refine fpForm_completes now effect (scalarSources rule) (funext fun l => ?_)
  simp only [unwait_fpSrc]
  exact congrArg (byElem x.ty) (funext fun i => (value l i).symm)

theorem bits_zero (n w : Nat) : bits n 0 w = n % 2 ^ w := by rw [bits, pow_zero, Nat.div_one]

/-- The pattern of a code under the opposite of a sign. -/
theorem signed_not (f : Fmt) (sign : Bool) (code : Nat) :
    f.signed (!sign) code = code + if sign = true then 0 else 2 ^ (f.eb + f.mb) := by
  cases sign <;> simp [Fmt.signed, b2n, add_comm]

end Sys2Proof.Laws
end

section
/-! OBLIGATION O6. Floating-point arithmetic. -/
namespace Sys2Proof.Laws

open Machine Safety

/-- Settles O6: each form but FSCL has the shape of class 2 with the operation stated, and FSCL that of a form which sets flags. -/
theorem floatArithmetic : Obligations.FloatArithmetic := by
  intro x s f env src a b d gives
  refine ⟨fun now => fpOp_gives now (exec_fadd x s) rfl fun _ _ => rfl,
    fun now => fpOp_gives now (exec_fsub x s) rfl fun _ _ => rfl,
    fun now => fpOp_gives now (exec_fmul x s) rfl fun _ _ => rfl,
    fun now => fpOp_gives now (exec_ffma x s) rfl fun _ _ => rfl,
    fun now => fpOp_gives now (exec_fdiv x s) rfl fun _ _ => rfl,
    fun now => fpOp_gives now (exec_fsqrt x s) rfl fun _ _ => rfl,
    fun now => fpOp_gives now (exec_fmin x s) rfl fun _ _ => rfl,
    fun now => fpOp_gives now (exec_fmax x s) rfl fun _ _ => rfl,
    fun now => fpOp_gives now (exec_fabs x s) rfl fun l i => ?fabs,
    fun now => fpOp_gives now (exec_fneg x s) rfl fun l i => ?fneg,
    fun now => fpOp_gives now (exec_fclass x s) rfl fun _ _ => rfl,
    fun now => fpOp_gives now (exec_frnd x s) rfl fun _ _ => rfl,
    fun now => fpForm_completes now (exec_fscl x s) (scalarSources rfl) (funext fun l => ?fscl)⟩
  case fabs => rw [bits_zero]; rfl
  case fneg => rw [bits_zero, signed_not]; rfl
  case fscl => rw [unwait_fpSrc, unwait_src]

end Sys2Proof.Laws
end

section
/-! SUPPORT. The forms whose results come later: what they leave at issue (R69, R135, R145, R179). -/
namespace Sys2Proof.Laws

open Machine Safety

/-! ### The forms -/

/-- A ready special function completes at issue and leaves its results, rounded to nearest even whatever %fpm says, to a reply. -/
theorem special_gives {i : Instr} {o : Op} {g : Fun} {x : Args} {s : State} (now : ready o x s = true)
    (effect : exec i s = specialForm o g x s) :
    let env := (envOf s.now.fpm x.rm.toNat).nearest
    exec i s = .next ((s.unwait.later x.ty x.d ((formLanes s.now x).map (fun l =>
      (l, (fmtOf x.ty).special env g ((fmtOf x.ty).flushIn env (s.fpSrc x.ty x.a l)))))).modNow Hart.advance) := by
  intro env
  rw [effect, specialForm, issue_of_ready _ now]
  simp only [unwait_formLanes, unwait_fpm, unwait_fpSrc]
  rfl

theorem unwait_scalar (s : State) (o : Operand) : s.unwait.scalar o = s.scalar o := unwait_src ..

/-- A ready VTOS completes at issue and leaves the value of the lane that B names to a reply. -/
theorem vtos_gives {x : Args} {s : State} (now : ready .vtos x s = true) :
    exec (.vtos x) s = .next ((s.unwait.later x.ty x.d
      [(0, (if s.scalar x.b < s.now.W ∧ laneIn s.now.live (s.scalar x.b) = true
        then s.src x.ty x.a (s.scalar x.b) else 0, 0))]).modNow Hart.advance) := by
  rw [exec_vtos, execVtos, issue_of_ready _ now, ite_and]
  simp only [unwait_scalar, State.liveSrc, unwait_src, unwait_W, unwait_live]
  rfl

/-! ### A scalar register that awaits its result -/

/-- The reply that brings a scalar register its result. -/
def scalarReply (s : State) (ty : Ty) (q : BitVec 8) (y : Res) : Reply :=
  { id := s.nextId, hart := s.cur, regs := [(false, q.toNat, 0, extended ty (interp ty y.1), false)], flags := y.2, stamp := 0,
    order := 0, scope := 0, counts := none, group := 0, ok := true, dem := false, special := true, tile := none }

section
variable (s : State) (ty : Ty) (q : BitVec 8) (e : Bool) (m : BitVec 7) (y : Res)

/-- Of the running hart the register alone differs: it is EMPTY (R69). -/
theorem later_scalar_now : (s.later ty (.s q e m) [(0, y)]).now = s.now.putS q.toNat ⟨.empty, 0⟩ :=
  modNow_now { s with nextId := s.nextId + 1 } (fun t => t.putS q.toNat ⟨.empty, 0⟩)

/-- Of the memory system the replies under way alone differ: one more stands last. -/
theorem later_scalar_mem :
    (s.later ty (.s q e m) [(0, y)]).mem = { s.mem with replies := s.mem.replies ++ [scalarReply s ty q y] } := by
  have flags : orFlags [(0, y)] = y.2 := BitVec.zero_or
  rw [scalarReply, ← flags]
  rfl

end

end Sys2Proof.Laws
end

section
/-! OBLIGATION O8. Special functions and VTOS. -/
namespace Sys2Proof.Laws

open Machine Safety

/-- Settles O8: each form leaves its results to a reply, and a scalar register that awaits one is all that differs in the hart. -/
theorem longLatencyForms : Obligations.LongLatencyForms := by
  refine ⟨fun x s => ?forms, fun s ty q e m y => ?scalar⟩
  case forms =>
    exact ⟨fun now => special_gives now (exec_frcp x s), fun now => special_gives now (exec_frsq x s),
      fun now => special_gives now (exec_fexp2 x s), fun now => special_gives now (exec_flog2 x s),
      fun now => special_gives now (exec_fsin x s), fun now => special_gives now (exec_fcos x s),
      fun now => special_gives now (exec_ftanh x s), vtos_gives⟩
  case scalar =>
    have emptied := later_scalar_now s ty q e m y
    have replied := later_scalar_mem s ty q e m y
    have general : generalOnly s.now (s.later ty (.s q e m) [(0, y)]).now := emptied ▸ generalOnly_putS _ _ (generalOnly_rfl _)
    refine ⟨fun a => by simp only [State.byte, replied], generalOnly_pc general, generalOnly_fflags general, fun r => ?_,
      fun r l => ?_, fun r => ?_, scalarReply s ty q y, congrArg MemSys.replies replied, rfl, rfl, rfl, rfl⟩
    · rw [emptied, getS_putS]
      exact if_congr (and_congr_left' eq_comm) rfl rfl
    · rw [emptied, getV_putS]
    · rw [emptied, getK_putS]

end Sys2Proof.Laws
end

section
/-! OBLIGATION O7, refuted. CVTP under a subnormal scale byte with FTZIN set: the byte is a source on which FTZIN acts (R124; log entry
63), and the statement takes it as it stands. -/
namespace Sys2Proof.Laws

open Machine Safety

/-- A host thread whose registers are FULL and 0, with FTZIN set in %fpm. -/
def flushingThread : State := { State.reset.setHart 0 { loadHart .user 1 0 with fpm := 8 } with cur := 0, turn := .hart }

/-- CVTP.P2F16.PACK.RNE v2, v4, 0x01: the scale byte is the least subnormal, 2^-9. -/
def subnormalScalePack : Args := ⟨0, 0, false, 0, .p2f16, .v 2 false 0, .v 4 false 0, .imm 1, 1⟩

/-- The flags that stand in the running hart after a step. -/
def nextFlags : Out → Option Flags
  | .next t => some t.now.fflags
  | _ => none

theorem subnormalScalePack_ready : ready .cvtp subnormalScalePack flushingThread = true := by decide +kernel

theorem subnormalScalePack_lanes : memberLanes flushingThread subnormalScalePack = [0] := by decide +kernel

theorem flushingThread_fflags : flushingThread.now.fflags = 0 := by decide +kernel

/-- The flushed scale is 0, and 0 / 0 sets NV (R150). -/
theorem subnormalScalePack_sets : nextFlags (exec (.cvtp subnormalScalePack) flushingThread) = some fNV := by decide +kernel

/-- An element of CVTP's PACK under its scale byte as it stands. -/
def unflushedPack (x : Args) (s : State) (l i : Nat) : Res :=
  packOne (envOf s.now.fpm x.rm.toNat) x.ty (scaleOf (if x.b = .none then 0x38 else s.src .b32 x.b l % 256))
    (s.now.getV (regOf x.a + i) l).v.toNat

/-- The scale as it stands is 2^-9, and 0 / 2^-9 is exact. -/
theorem unflushedPack_sets_none : flagsOf (List.range (packCount subnormalScalePack.ty))
    (unflushedPack subnormalScalePack flushingThread 0) = 0 := by decide +kernel

/-- Refutes O7: CVTP of zeros under the scale byte 0x01 with FTZIN set raises NV, where the statement has it set no flag. -/
theorem not_conversions : ¬ Obligations.Conversions := by
  intro holds
  obtain ⟨-, pack, -⟩ := holds subnormalScalePack flushingThread
  obtain ⟨y, ⟨t, ⟨effect, -⟩, flags, -⟩, elements⟩ := pack subnormalScalePack_ready rfl
  have stated : flagsOf (memberLanes flushingThread subnormalScalePack) y = 0 := by
    rw [subnormalScalePack_lanes]
    have first : (y 0).2 = 0 := (elements 0).2.trans unflushedPack_sets_none
    exact BitVec.zero_or.trans first
  have sets : t.now.fflags = fNV := by
    have after := subnormalScalePack_sets
    rw [effect] at after
    exact Option.some.inj after
  rw [stated, sets, flushingThread_fflags] at flags
  exact absurd flags (by decide)

end Sys2Proof.Laws
end

section
/-! SUPPORT. Forms that write a mask or a count of lanes (R168, R173). -/
namespace Sys2Proof.Laws

open Machine Safety

section
variable {i : Instr} {o : Op} {x : Args} {s : State}

/-- A ready form of the shared shape of the mask forms writes the mask that it computes of the hart once its wait has ended. -/
theorem maskForm_gives {f : Hart → Mask} {m : Mask} (now : ready o x s = true) (effect : exec i s = maskForm o x f s)
    (value : f s.unwait.now = m) : exec i s = .next (s.unwait.modNow (fun t => (t.writeMask x.d m).advance)) := by
  rw [effect, maskForm, issue_of_ready _ now, ← value]
  rfl

/-- A ready form of the shared shape of the counts writes its number to a scalar register. -/
theorem maskCountForm_gives {f : Hart → Word} {y : Word} (now : ready o x s = true) (effect : exec i s = maskCountForm o x f s)
    (value : f s.unwait.now = y) : exec i s = .next (s.unwait.modNow (fun t => (t.setS (regOf x.d) y).advance)) := by
  rw [effect, maskCountForm, issue_of_ready _ now, ← value]
  rfl

end

/-- The hart that KMOV leaves before its pc moves on: mask to mask, a word of a mask to a scalar register, or a scalar register into a
word of a mask, with nothing written from or to a word beyond the last (R173). -/
def kmovResult (x : Args) (s : State) (t : Hart) : Hart :=
  if isMaskOp x.d = true ∧ isMaskOp x.a = true then t.writeMask x.d (s.now.readMask x.a)
  else if isMaskOp x.a = true then
    t.setS (regOf x.d) (if s.scalar x.b < (s.now.W + 63) / 64 then BitVec.ofNat 64 (maskWord (s.now.readMask x.a) (s.scalar x.b)) else 0)
  else if s.scalar x.b < (s.now.W + 63) / 64 then
    t.writeMask x.d (putMaskWord s.now.W (s.now.readMask x.d) (s.scalar x.b) (s.scalar x.a))
  else t

theorem kmov_gives {x : Args} {s : State} (now : ready .kmov x s = true) :
    exec (.kmov x) s = .next (s.unwait.modNow (fun t => (kmovResult x s t).advance)) := by
  rw [exec_kmov, execKmov, issue_of_ready _ now]
  simp only [unwait_scalar, unwait_W, unwait_readMask, Bool.and_eq_true]
  rfl

theorem exec_gives {x : Args} {s : State} (now : ready .exec x s = true) :
    exec (.exec x) s = .next (s.unwait.modNow (fun t =>
      ((t.setExec (t.exec &&& s.now.readMask x.a)).writeMask x.d s.now.exec).advance)) := by
  rw [exec_exec, execExec, issue_of_ready _ now, ← unwait_readMask, ← unwait_exec]
  rfl

theorem execr_gives {x : Args} {s : State} (now : ready .execr x s = true) :
    exec (.execr x) s = .next (s.unwait.modNow (fun t => (t.setExec (s.now.readMask x.a)).advance)) := by
  rw [exec_execr, execExecr, issue_of_ready _ now, ← unwait_readMask]
  rfl

end Sys2Proof.Laws
end

section
/-! OBLIGATION O10. Mask forms. -/
namespace Sys2Proof.Laws

open Machine Safety

/-- Settles O10: each form writes its mask or its number to D, and the pc moves on. -/
theorem maskForms : Obligations.MaskForms := by
  intro x s a b all i gives
  refine ⟨fun now => maskForm_gives now (exec_kand x s) ?kand, fun now => maskForm_gives now (exec_kor x s) ?kor,
    fun now => maskForm_gives now (exec_kxor x s) ?kxor, fun now => maskForm_gives now (exec_knot x s) ?knot, kmov_gives,
    fun now => maskCountForm_gives now (exec_kpop x s) ?kpop, fun now => maskCountForm_gives now (exec_kffs x s) ?kffs,
    exec_gives, execr_gives⟩
  case kffs =>
    rw [unwait_W, unwait_readMask]
    cases lanesOf s.now.W (s.now.readMask x.a) <;> rfl
  all_goals simp only [unwait_readMask, unwait_W, a, b, all]

end Sys2Proof.Laws
end

section
/-! SUPPORT. The cross-lane forms: shuffles, reductions and scans, votes, transposes and selections (R176 to R181). -/
namespace Sys2Proof.Laws

open Machine Safety

/-! ### Reductions and scans (R178) -/

/-- In a rising list as many elements stand below an element as stand before it. -/
theorem countBelow_getElem {ls : List Nat} (rising : ls.Pairwise (· < ·)) (i : Nat) (inList : i < ls.length) :
    (ls.filter (fun j => j < ls[i])).length = i := by
  induction ls generalizing i with
  | nil => cases inList
  | cons a r ih =>
    obtain ⟨least, rest⟩ := List.pairwise_cons.1 rising
    cases i with
    | zero => simpa using fun j mem => (least j mem).le
    | succ i =>
      have inRest : i < r.length := by simpa using inList
      simp [least _ (List.getElem_mem inRest), ih rest i inRest]

theorem lanesOf_rising (W : Nat) (m : Mask) : (lanesOf W m).Pairwise (· < ·) := List.pairwise_lt_range.filter _

/-- The flags of one result given to every lane of a list are its flags. -/
theorem flagsOf_const {ls : List Nat} (some_ : ls ≠ []) (y : Res) : flagsOf ls (fun _ => y) = y.2 := by
  have again : ∀ r : List Nat, r.foldl (fun f _ => f ||| y.2) y.2 = y.2 := fun r => List.foldl_fixed' (fun _ => BitVec.or_self) r
  have first : (0 : Flags) ||| y.2 = y.2 := BitVec.zero_or
  cases ls with
  | nil => exact absurd rfl some_
  | cons a r => rw [flagsOf, List.foldl_cons, first, again]

section
variable {x : Args} {s : State}

theorem unwait_redValues (env : Env) : s.unwait.redValues env x = s.redValues env x := by
  simp only [State.redValues, unwait_W, unwait_members, unwait_src]

/-- The value that a reduction gives (R178). -/
def redResult (s : State) (x : Args) : Res :=
  redTree (envOf s.now.fpm 0) x.ty (x.sub.toNat % 8) (s.redValues (envOf s.now.fpm 0) x)

/-- The lanes that LRED writes: its members, or one value to a scalar register. -/
def redLanes (s : State) (x : Args) : List Nat := if kindOf x.d = .v then memberLanes s x else [0]

/-- LRED of some members writes the value of its tree, with the flags of its steps, to D. -/
theorem lred_writes (now : ready .lred x s = true) (some_ : memberLanes s x ≠ []) :
    exec (.lred x) s = .next (s.unwait.setHart s.cur ((s.unwait.now.wrAll x.ty x.d
      ((redLanes s x).map (fun l => (l, redResult s x)))).raiseFlags (redResult s x).2).advance) := by
  have lanes : ((match x.d with | .v .. => (memberLanes s x).map (fun l => (l, redResult s x)) | _ => [(0, redResult s x)]) :
      List (Nat × Res)) = (redLanes s x).map (fun l => (l, redResult s x)) := by
    rw [redLanes]
    cases x.d <;> rfl
  rw [← lanes, exec_lred, execLred, issue_of_ready _ now]
  dsimp only
  rw [unwait_W, unwait_members, ← memberLanes, unwait_redValues, unwait_fpm, if_neg (by simpa using some_)]
  rfl

theorem lred_completes (now : ready .lred x s = true) (acts_ : memberLanes s x ≠ [] ∨ kindOf x.d = .v) :
    completesFlags (.lred x) x.ty x.d s (redLanes s x) (fun _ => redResult s x) := by
  have scalar : kindOf x.d = .s → redLanes s x = [0] := fun isS => by rw [redLanes, if_neg (by simp [isS])]
  by_cases none_ : memberLanes s x = []
  · have empty : redLanes s x = [] := by rw [redLanes, if_pos (acts_.resolve_left (· none_)), none_]
    refine completes_flags (fl := 0) ?_ (by rw [empty]; rfl) scalar
    rw [empty, raiseFlags_zero, exec_lred, execLred, issue_of_ready _ now]
    dsimp only
    rw [unwait_W, unwait_members, ← memberLanes, none_]
    cases x.d <;> rfl
  · refine completes_flags (lred_writes now none_) (flagsOf_const ?_ _).symm scalar
    rw [redLanes]
    split
    · exact none_
    · exact List.cons_ne_nil _ _

/-- The value that a scan gives in a lane: the reduction of the members below it, with it where the scan is inclusive (R178). -/
def scanResult (s : State) (x : Args) (l : Nat) : Res :=
  let before := ((memberLanes s x).filter (fun j => j < l)).length
  redTree (envOf s.now.fpm 0) x.ty (x.sub.toNat % 8)
    ((s.redValues (envOf s.now.fpm 0) x).take (if x.sub.toNat < 8 then before + 1 else before))

/-- The results that SCAN computes by the places of the members are those of the lanes. -/
theorem scan_by_place (s : State) (x : Args) :
    (List.range (memberLanes s x).length).map (fun i => ((memberLanes s x)[i]?.getD 0,
      redTree (envOf s.now.fpm 0) x.ty (x.sub.toNat % 8)
        ((s.redValues (envOf s.now.fpm 0) x).take (i + if x.sub.toNat ≥ 8 then 0 else 1)))) =
    (memberLanes s x).map (fun l => (l, scanResult s x l)) := by
  refine List.ext_getElem (by simp) fun i inRange inMap => ?_
  have inLanes : i < (memberLanes s x).length := by simpa using inMap
  have below := countBelow_getElem (ls := memberLanes s x) (lanesOf_rising _ _) i inLanes
  have count : i + (if x.sub.toNat ≥ 8 then 0 else 1) = if x.sub.toNat < 8 then i + 1 else i := by split <;> split <;> omega
  simp only [List.getElem_map, List.getElem_range, List.getElem?_eq_getElem inLanes, Option.getD_some, scanResult,
    below, count]

theorem scan_completes (now : ready .scan x s = true) :
    completesFlags (.scan x) x.ty x.d s (memberLanes s x) (scanResult s x) := by
  have vector : kindOf x.d = .v := by
    have fits := kindFits_d_of_ready now
    revert fits
    cases x.d <;> simp [Op.row, kindFits, kindOf]
  refine completes_flags ?_ (flagsOf_eq _ _) (fun scalar => by rw [vector] at scalar; cases scalar)
  rw [← scan_by_place, exec_scan, execScan, issue_of_ready _ now]
  simp only [unwait_W, unwait_members, unwait_redValues, unwait_fpm]
  rfl

end

/-! ### VOTE (R177) -/

section
variable {x : Args} {s : State}

/-- The members for which the predicate of a VOTE holds. -/
def voters (s : State) (x : Args) : Mask :=
  match x.a with
  | .v r _ _ => maskOf ((memberLanes s x).filter (fun l => (s.now.getV r.toNat l).v != 0))
  | o => s.now.readMask o &&& s.now.members x

theorem unwait_voters : voters s.unwait x = voters s x := by
  simp only [voters, memberLanes, unwait_W, unwait_members, unwait_getV, unwait_readMask]

/-- The answer of a VOTE of the voters p among the members m: all, any, or all alike (R177). -/
def voteAnswer (x : Args) (p m : Mask) : Bool :=
  match x.sub.toNat with
  | 0 => p == m
  | 1 => p != 0
  | _ => p == m || p == 0

theorem voteAnswer_iff (x : Args) (p m : Mask) :
    voteAnswer x p m = true ↔ if x.sub = 0 then p = m else if x.sub = 1 then p ≠ 0 else p = m ∨ p = 0 := by
  have all : x.sub = 0 ↔ x.sub.toNat = 0 := BitVec.toNat_inj.symm
  have any : x.sub = 1 ↔ x.sub.toNat = 1 := BitVec.toNat_inj.symm
  rw [voteAnswer, if_congr all rfl (if_congr any rfl rfl)]
  rcases x.sub.toNat with _ | _ | n <;> simp

/-- The hart that a VOTE leaves before its pc moves on: the voters themselves, or the answer in the members of a mask or as a number. -/
def voteResult (x : Args) (p m : Mask) (t : Hart) : Hart :=
  if x.sub == 3 then
    match x.d with
    | .s d _ _ => t.setS d.toNat (BitVec.ofNat 64 (maskWord p 0))
    | d => t.writeMask d p
  else
    match x.d with
    | .s d _ _ => t.setS d.toNat (if voteAnswer x p m then 1 else 0)
    | d => t.writeMask d (if voteAnswer x p m then t.readMask d ||| m else t.readMask d &&& ~~~m)

theorem vote_gives (now : ready .vote x s = true) : exec (.vote x) s =
    .next (s.unwait.setHart s.cur (voteResult x (voters s x) (s.now.members x) s.unwait.now).advance) := by
  rw [← unwait_voters, ← unwait_members, exec_vote, execVote, issue_of_ready _ now]
  rfl

theorem vote_writes_scalar (now : ready .vote x s = true) (isS : kindOf x.d = .s) :
    completesWith (.vote x) x s [0] (fun _ => if x.sub = 3 then BitVec.ofNat 64 (maskWord (voters s x) 0)
      else if voteAnswer x (voters s x) (s.now.members x) then 1 else 0) := by
  obtain ⟨r, e, m, named⟩ : ∃ r e m, x.d = .s r e m := by
    revert isS
    cases x.d <;> simp [kindOf]
  have result : ∀ t : Hart, voteResult x (voters s x) (s.now.members x) t = t.setS r.toNat
      (if x.sub = 3 then BitVec.ofNat 64 (maskWord (voters s x) 0)
        else if voteAnswer x (voters s x) (s.now.members x) then 1 else 0) := fun t => by
    rw [voteResult, named]
    exact (apply_ite (t.setS r.toNat) ..).symm.trans (congrArg (t.setS r.toNat) (if_congr beq_iff_eq rfl rfl))
  have effect := vote_gives now
  rw [result, ← raiseFlags_zero (Hart.setS _ _ _)] at effect
  obtain ⟨t, steps, flags, written⟩ := completesScalar_setS (ty := x.ty) named effect
  exact ⟨t, steps, flags.trans BitVec.or_zero, written⟩

theorem vote_writes_mask (now : ready .vote x s = true) (isMask : isMaskOp x.d = true) :
    exec (.vote x) s = .next (s.unwait.modNow (fun t => (t.writeMask x.d
      (if x.sub = 3 then voters s x
       else if voteAnswer x (voters s x) (s.now.members x) then t.readMask x.d ||| s.now.members x
       else t.readMask x.d &&& ~~~s.now.members x)).advance)) := by
  have result : ∀ t : Hart, voteResult x (voters s x) (s.now.members x) t = t.writeMask x.d (if x.sub = 3 then voters s x
      else if voteAnswer x (voters s x) (s.now.members x) then t.readMask x.d ||| s.now.members x
      else t.readMask x.d &&& ~~~s.now.members x) := fun t => by
    rw [apply_ite (t.writeMask x.d), voteResult, if_congr beq_iff_eq]
    all_goals
      split
      · next scalar => rw [scalar] at isMask; cases isMask
      · rfl
  rw [vote_gives now, result]
  rfl

end

/-! ### SHFL and TOPK (R176, R181) -/

section
variable {x : Args} {s : State}

theorem shfl_completes (now : ready .shfl x s = true) :
    completesWith (.shfl x) x s (memberLanes s x) (fun l =>
      let j := shflSource s.now.W x.sub.toNat l (s.src .b32 x.b l)
      extended x.ty (if laneIn s.now.live j = true then s.src x.ty x.a j else 0)) := by
  refine lanewise_completes now (exec_shfl x s) (by decide) (funext fun l => ?_)
  simp only [State.liveSrc, State.shflB, unwait_src, unwait_W, unwait_live, Nat.cast_ite, Nat.cast_zero]

/-- The members whose values TOPK ranks, each with its value. -/
def ranked (s : State) (x : Args) : List (Nat × Nat) := (memberLanes s x).map (fun l => (l, s.src x.ty x.a l))

/-- The mask that TOPK writes: the members that fewer than B values come before (R181). -/
def topMask (s : State) (x : Args) : Mask :=
  maskOf (((ranked s x).filter (fun p => topRank x.ty (ranked s x) p.1 p.2 < s.scalar x.b)).map Prod.fst)

theorem mem_ranked {p : Nat × Nat} : p ∈ ranked s x ↔ p.1 ∈ memberLanes s x ∧ p.2 = s.src x.ty x.a p.1 := by
  obtain ⟨l, v⟩ := p
  simp only [ranked, List.mem_map, Prod.mk.injEq, eq_comm]
  grind

theorem laneIn_topMask {l : Nat} (inMask : l < 1024) : laneIn (topMask s x) l = true ↔
    l ∈ memberLanes s x ∧ topRank x.ty (ranked s x) l (s.src x.ty x.a l) < s.scalar x.b := by
  rw [topMask, laneIn_maskOf _ l inMask]
  simp [mem_ranked]

theorem topk_gives (now : ready .topk x s = true) :
    exec (.topk x) s = .next (s.unwait.modNow (fun t => (t.writeMask x.d (topMask s x)).advance)) := by
  rw [exec_topk, execTopk, issue_of_ready _ now]
  simp only [unwait_W, unwait_members, unwait_src, unwait_scalar]
  rfl

end

/-! ### GTRN (R180) -/

/-- Registers r to r + n - 1 of some lanes, written with values by lane and by place. -/
def putColumns (t : Hart) (r n : Nat) (ls : List Nat) (y : Nat → Nat → VLane) : Hart :=
  ls.foldl (fun u l => (List.range n).foldl (fun w i => w.putV (r + i) l (y l i)) u) t

theorem generalOnly_putColumns (t : Hart) (r n : Nat) (ls : List Nat) (y : Nat → Nat → VLane) :
    generalOnly t (putColumns t r n ls y) :=
  generalOnly_foldl _ _ (fun _ _ kept => generalOnly_foldl _ _ (fun _ _ kept => generalOnly_putV _ _ _ kept) kept) (generalOnly_rfl t)

/-- An observation of a hart that no write of a vector lane changes. -/
theorem putColumns_keeps {α : Type} (obs : Hart → α) (kept : ∀ t r l v, obs (t.putV r l v) = obs t) (t : Hart) (r n : Nat)
    (ls : List Nat) (y : Nat → Nat → VLane) : obs (putColumns t r n ls y) = obs t := by
  have column : ∀ (l : Nat) (is : List Nat) (u : Hart), obs (is.foldl (fun w i => w.putV (r + i) l (y l i)) u) = obs u := by
    intro l is
    induction is with
    | nil => exact fun u => rfl
    | cons i is ih => exact fun u => (ih _).trans (kept ..)
  unfold putColumns
  induction ls generalizing t with
  | nil => rfl
  | cons l ls ih => exact (ih _).trans (column ..)

/-- A lane read after a column of registers was written in a lane. -/
theorem getV_foldl_putV (t : Hart) (r n l : Nat) (y : Nat → VLane) (q j : Nat) :
    ((List.range n).foldl (fun w i => w.putV (r + i) l (y i)) t).getV q j =
      if r ≤ q ∧ q < r + n ∧ j = l then y (q - r) else t.getV q j := by
  induction n with
  | zero => rw [if_neg (by omega)]; rfl
  | succ n ih =>
    rw [List.range_succ, List.foldl_append, List.foldl_cons, List.foldl_nil, getV_putV, ih]
    by_cases last : r + n = q ∧ l = j
    · obtain ⟨rfl, rfl⟩ := last
      rw [if_pos ⟨rfl, rfl⟩, if_pos (by omega), Nat.add_sub_cancel_left]
    · rw [if_neg last]
      exact if_congr (by omega) rfl rfl

theorem getV_putColumns (t : Hart) (r n : Nat) (ls : List Nat) (y : Nat → Nat → VLane) (q j : Nat) :
    (putColumns t r n ls y).getV q j = if r ≤ q ∧ q < r + n ∧ j ∈ ls then y j (q - r) else t.getV q j := by
  unfold putColumns
  induction ls generalizing t with
  | nil => simp
  | cons l ls ih =>
    rw [List.foldl_cons, ih, getV_foldl_putV]
    simp only [List.mem_cons]
    grind

section
variable {x : Args} {s : State}

/-- What register i of a group holds in a lane after GTRN: its part of the lane's row (R180). -/
def gtrnValue (s : State) (x : Args) (l i : Nat) : VLane :=
  let w := tyBits x.ty
  let n := 256 / w
  ⟨.full, BitVec.ofNat 32 (sumN ((List.range (32 / w)).map (fun k =>
    gtrnElem s.now (regOf x.d) w (l - l % n + (i * (32 / w) + k)) (l % n) * 2 ^ (w * k))))⟩

/-- The lanes that GTRN writes: the live lanes of the words with a member. -/
def gtrnLanes (s : State) (x : Args) : List Nat := lanesOf s.now.W (processed s.now.W (s.now.members x) &&& s.now.live)

theorem gtrn_gives (now : ready .gtrn x s = true) (converged : unconverged s.now (s.now.members x) = 0) :
    exec (.gtrn x) s = .next (s.unwait.setHart s.cur
      (putColumns s.unwait.now (regOf x.d) 8 (gtrnLanes s x) (gtrnValue s x)).advance) := by
  have converged' : unconverged s.unwait.now (s.unwait.now.members x) = 0 := by
    rw [← converged, unwait_members, unconverged, unwait_W, unwait_live, unconverged]
  have elem : ∀ d e l c, gtrnElem s.unwait.now d e l c = gtrnElem s.now d e l c := fun d e l c => by
    simp only [gtrnElem, unwait_live, unwait_getV]
  rw [exec_gtrn, execGtrn, issue_of_ready _ now]
  dsimp only
  rw [converged', if_neg (by simp)]
  simp only [elem, unwait_W, unwait_members, unwait_live]
  rfl

end

end Sys2Proof.Laws
end

section
/-! OBLIGATION O9. Cross-lane forms. -/
namespace Sys2Proof.Laws

open Machine Safety

/-- Settles O9: shuffles and reductions write D, votes and selections a mask or a number, and GTRN the registers of its group. -/
theorem laneExchange : Obligations.LaneExchange := by
  intro x s m env ls
  refine ⟨shfl_completes, lred_completes, scan_completes, fun now => ?vote, fun now => ?topk, fun now converged => ?gtrn⟩
  case vote =>
    intro pred yes
    have voted : voters s x = pred := by
      simp only [voters, pred]
      cases x.a <;> simp only [ne_eq, decide_not] <;> rfl
    have answer : voteAnswer x pred (s.now.members x) = true ↔ yes := voteAnswer_iff x pred m
    refine ⟨fun isS => ?_, fun isMask => ?_⟩
    · have written := vote_writes_scalar now isS
      simp only [voted, answer] at written
      exact written
    · have written := vote_writes_mask now isMask
      simp only [voted, answer] at written
      exact written
  case topk =>
    exact ⟨topMask s x, fun l inTeam width => laneIn_topMask (inTeam.trans_le width), topk_gives now⟩
  case gtrn =>
    have general := generalOnly_putColumns s.unwait.now (regOf x.d) 8 (gtrnLanes s x) (gtrnValue s x)
    refine ⟨_, registerStep_plain (gtrn_gives now converged) general, fun r => ?_, fun r => ?_, ?_, fun r l other => ?_,
      fun l i inTeam inGroup inWord => ?_⟩ <;> rw [now_unwait_setHart]
    · rw [getS_advance, putColumns_keeps (fun t => t.getS r) (fun _ _ _ _ => rfl), unwait_getS]
    · rw [getK_advance, putColumns_keeps (fun t => t.getK r) (fun _ _ _ _ => rfl), unwait_getK]
    · exact (generalOnly_fflags general).trans (unwait_fflags s)
    · rw [getV_advance, getV_putColumns, if_neg, unwait_getV]
      exact fun written => other ⟨written.1, written.2.1, (mem_lanesOf ..).1 written.2.2⟩
    · rw [getV_advance, getV_putColumns, if_pos ⟨by omega, by omega, (mem_lanesOf ..).2 ⟨inTeam, inWord⟩⟩, Nat.add_sub_cancel_left]
      rfl

end Sys2Proof.Laws
end

section
/-! SUPPORT. The split stack where no entry moves to memory: BRD, MBR and EXIT (R163, R164, R166). -/
namespace Sys2Proof.Laws

open Machine Safety

theorem onlyRunning_modNow {s t : State} (f : Hart → Hart) (only : onlyRunning s t) : onlyRunning s (t.modNow f) := by
  obtain ⟨rest, others⟩ := only
  have cur : t.cur = s.cur := by rw [rest]
  refine ⟨by rw [State.modNow, setHart_rest, rest], fun h other => ?_⟩
  rw [hart_modNow, if_neg (by rw [cur]; exact other.symm), others h other]

/-- Two changes of the running hart are one change. -/
theorem modNow_modNow (s : State) (f g : Hart → Hart) : (s.modNow f).modNow g = s.modNow (fun t => g (f t)) := modNow_modHart s f g

/-- Of a hart only %exec, %live, the pc, the entries in the pipe and the issue state differ. -/
def pathOnly (u u' : Hart) : Prop :=
  u' = { u with exec := u'.exec, live := u'.live, pc := u'.pc, stack := u'.stack, sched := u'.sched }

theorem pathOnly_trans {u v w : Hart} (first : pathOnly u v) (second : pathOnly v w) : pathOnly u w := by
  unfold pathOnly at *
  rw [second, first]

theorem pathOnly_kept {u u' : Hart} (only : pathOnly u u') :
    u'.spilled = u.spilled ∧ scalarsKept u u' ∧ vectorsKept u u' ∧ predicatesKept u u' := by
  rw [only]
  exact ⟨rfl, fun _ => rfl, fun _ _ => rfl, fun _ => rfl⟩

theorem pathOnly_unwait (s : State) : pathOnly s.now s.unwait.now := by
  rw [unwait_now]
  rfl

/-- The machine on a path with a mask and a stack: nothing but the running hart differs, and of it %live is the same. -/
def onPath (s u : State) (m : Mask) (st : List SEntry) : Prop :=
  onlyRunning s u ∧ pathOnly s.now u.now ∧ u.now.exec = m ∧ u.now.stack = st ∧ u.now.live = s.now.live

theorem onPath_unwait (s : State) : onPath s s.unwait s.now.exec s.now.stack := by
  obtain ⟨only, -⟩ := movedOn_unwait s
  exact ⟨only, pathOnly_unwait s, unwait_exec s, unwait_stack s, unwait_live s⟩

section
variable {s u : State} {m : Mask} {st : List SEntry}

theorem onPath_modNow {f : Hart → Hart} (path : onPath s u m st) (kept : pathOnly u.now (f u.now))
    (live : (f u.now).live = u.now.live) : onPath s (u.modNow f) (f u.now).exec (f u.now).stack := by
  obtain ⟨only, before, -, -, lived⟩ := path
  rw [onPath, modNow_now]
  exact ⟨onlyRunning_modNow _ only, pathOnly_trans before kept, rfl, rfl, live.trans lived⟩

theorem onPath_push (es : List SEntry) (path : onPath s u m st) :
    onPath s (u.modNow (fun t => { t with stack := es.reverse ++ t.stack })) m (es.reverse ++ st) := by
  obtain ⟨-, -, rfl, rfl, -⟩ := id path
  exact onPath_modNow path rfl rfl

theorem onPath_exec (n : Mask) (path : onPath s u m st) : onPath s (u.modNow (fun t => { t with exec := n })) n st := by
  obtain ⟨-, -, -, rfl, -⟩ := id path
  exact onPath_modNow path rfl rfl

/-- An outcome on a path with a mask, at an address and with a stack. -/
def steers (o : Out) (s : State) (m : Mask) (pc : Word) (st : List SEntry) : Prop :=
  ∃ u, o = .next u ∧ onPath s u m st ∧ u.now.pc = pc

theorem steers_goto (a : Word) (path : onPath s u m st) : steers (u.goto a) s m a st := by
  obtain ⟨-, -, rfl, rfl, -⟩ := id path
  exact ⟨_, rfl, onPath_modNow path rfl rfl, by rw [modNow_now]⟩

theorem steers_done {pc : Word} (path : onPath s u m st) (at_ : u.now.pc = pc) : steers u.done s m (pc + 12) st := by
  obtain ⟨-, -, rfl, rfl, -⟩ := id path
  exact ⟨_, rfl, onPath_modNow path rfl rfl, by rw [modNow_now, advance_pc, at_]⟩

/-- What an outcome on a path leaves. -/
theorem steers_kept {o : Out} {pc : Word} (ends : steers o s m pc st) :
    ∃ u : State, o = .next u ∧ onlyRunning s u ∧ u.now.exec = m ∧ u.now.pc = pc ∧ u.now.stack = st ∧ u.now.live = s.now.live ∧
      u.now.spilled = s.now.spilled ∧ scalarsKept s.now u.now ∧ vectorsKept s.now u.now ∧ predicatesKept s.now u.now := by
  obtain ⟨u, next, ⟨only, kept, exec, stack, live⟩, at_⟩ := ends
  exact ⟨u, next, only, exec, at_, stack, live, pathOnly_kept kept⟩

/-! ### Pushes (R162, R163) -/

/-- No entry leaves a pipe that holds at most 16. -/
theorem spill_none {h : Nat} (fits : (s.hart h).stack.length ≤ 16) (fuel : Nat) : s.spill h fuel = .ok s := by
  cases fuel with
  | zero => rfl
  | succ n =>
    unfold State.spill
    exact if_pos fits

/-- A push of entries that stay resident is all that happens before the form goes on. -/
theorem pushing_resident {es : List SEntry} (f : State → Out) (fits : s.now.stack.length + es.length ≤ 16)
    (limit : s.now.depth + es.length ≤ s.now.place.sslimit) :
    pushing s es f = f (s.modNow (fun t => { t with stack := es.reverse ++ t.stack })) := by
  have resident : ((s.modNow (fun t => { t with stack := es.reverse ++ t.stack })).hart s.cur).stack.length ≤ 16 := by
    rw [hart_modNow, if_pos rfl]
    simpa [add_comm] using fits
  unfold pushing
  dsimp only
  rw [if_neg (by omega), spill_none resident]

/-- Once its wait has ended and its entries have been pushed, which stay resident, a form goes on on the same path. -/
theorem steers_pushing {es : List SEntry} {f : State → Out} {pc : Word} {m' : Mask} {st' : List SEntry}
    (room : s.now.stack.length + es.length ≤ 16 ∧ s.now.depth + es.length ≤ s.now.place.sslimit)
    (goes : ∀ u, onPath s u s.now.exec (es.reverse ++ s.now.stack) → u.now.pc = s.now.pc → steers (f u) s m' pc st') :
    steers (pushing s.unwait es f) s m' pc st' := by
  obtain ⟨fits, limit⟩ := room
  rw [pushing_resident f (by rwa [unwait_stack]) (by rwa [unwait_depth, unwait_place])]
  exact goes _ (onPath_push es (onPath_unwait s)) (by rw [modNow_now]; exact unwait_pc s)

end

/-! ### BRD (R163) -/

section
variable {x : Args} {s : State}

/-- The lanes of %exec that take the branch of a BRD. -/
def brdTakes (s : State) (x : Args) : Mask := s.now.exec &&& s.now.guardLanes x &&& s.now.readMask x.a

/-- The lanes of %exec that do not. -/
def brdStays (s : State) (x : Args) : Mask := s.now.exec &&& ~~~brdTakes s x

/-- The entry of the reconvergence point that BRD and MBR push. -/
def reconvergence (s : State) : SEntry := ⟨false, 0, s.now.exec⟩

/-- BRD once its checks are over, by the lanes that take the branch. -/
theorem brd_issued (now : ready .brd x s = true) : exec (.brd x) s =
    if brdTakes s x ≠ 0 ∧ brdStays s x ≠ 0 then
      pushing s.unwait [reconvergence s, ⟨true, branchTo s.now.pc (immInt x.b), brdTakes s x⟩]
        (fun u => .next (u.modNow (fun t => { t with exec := brdStays s x }.advance)))
    else if brdTakes s x ≠ 0 then pushing s.unwait [reconvergence s] (fun u => u.goto (branchTo s.now.pc (immInt x.b)))
    else pushing s.unwait [reconvergence s] State.done := by
  rw [exec_brd, execBrd, issue_of_ready _ now]
  simp only [unwait_exec, unwait_guard, unwait_readMask, unwait_pc, Bool.and_eq_true, bne_iff_ne]
  rfl

theorem brd_splits (now : ready .brd x s = true) (some_ : brdTakes s x ≠ 0) (others : brdStays s x ≠ 0)
    (room : s.now.stack.length + 2 ≤ 16 ∧ s.now.depth + 2 ≤ s.now.place.sslimit) :
    steers (exec (.brd x) s) s (brdStays s x) (s.now.pc + 12)
      (⟨true, branchTo s.now.pc (immInt x.b), brdTakes s x⟩ :: reconvergence s :: s.now.stack) := by
  rw [brd_issued now, if_pos ⟨some_, others⟩]
  refine steers_pushing room fun u path at_ => ?_
  have onward := steers_done (pc := s.now.pc) (onPath_exec (brdStays s x) path) (by rw [modNow_now]; exact at_)
  rw [State.done, modNow_modNow] at onward
  exact onward

theorem brd_branches (now : ready .brd x s = true) (some_ : brdTakes s x ≠ 0) (all : brdStays s x = 0)
    (room : s.now.stack.length + 1 ≤ 16 ∧ s.now.depth + 1 ≤ s.now.place.sslimit) :
    steers (exec (.brd x) s) s s.now.exec (branchTo s.now.pc (immInt x.b)) (reconvergence s :: s.now.stack) := by
  rw [brd_issued now, if_neg (fun split => split.2 all), if_pos some_]
  exact steers_pushing room fun u path _ => steers_goto _ path

theorem brd_passes (now : ready .brd x s = true) (none_ : brdTakes s x = 0)
    (room : s.now.stack.length + 1 ≤ 16 ∧ s.now.depth + 1 ≤ s.now.place.sslimit) :
    steers (exec (.brd x) s) s s.now.exec (s.now.pc + 12) (reconvergence s :: s.now.stack) := by
  rw [brd_issued now, if_neg (fun split => split.1 none_), if_neg (fun some_ => some_ none_)]
  exact steers_pushing room fun u path at_ => steers_done path at_

end

/-! ### MBR (R164) -/

section
variable {x : MbrArgs} {s : State} {m : Mask} {a : Word} {others : List (Mask × Word)}

/-- MBR once its checks are over: the entries of the groups but the first are pushed above the reconvergence entry. -/
theorem mbr_issued (checked : checkMbr x = none) (buffered : s.now.sb.length ≤ 64)
    (full : ∀ i, i < 4 → ([x.o0, x.o1, x.o2, x.o3][i]?.getD 0) ≠ 0 → (s.now.getK (x.g.toNat + i)).empty = false)
    (groups : mbrGroups s.now x = (m, a) :: others) : exec (.mbr x) s =
      pushing s.unwait (reconvergence s :: others.reverse.map (fun g => ⟨true, g.2, g.1⟩))
        (fun u => (u.modNow (fun t => { t with exec := m })).goto a) := by
  have noneEmpty : (List.range 4).any (fun i =>
      ([x.o0, x.o1, x.o2, x.o3][i]?.getD 0) != 0 && (s.now.getK (x.g.toNat + i)).empty) = false := by
    simp only [List.any_eq_false, List.mem_range, Bool.and_eq_true, bne_iff_ne, not_and, Bool.not_eq_true]
    exact full
  rw [exec_mbr, execMbr, checked]
  dsimp only
  rw [if_neg (by omega), noneEmpty, if_neg (by decide), groups]
  rfl

theorem mbr_steers (checked : checkMbr x = none) (buffered : s.now.sb.length ≤ 64)
    (full : ∀ i, i < 4 → ([x.o0, x.o1, x.o2, x.o3][i]?.getD 0) ≠ 0 → (s.now.getK (x.g.toNat + i)).empty = false)
    (groups : mbrGroups s.now x = (m, a) :: others)
    (room : s.now.stack.length + (others.length + 1) ≤ 16 ∧ s.now.depth + (others.length + 1) ≤ s.now.place.sslimit) :
    steers (exec (.mbr x) s) s m a (others.map (fun g => ⟨true, g.2, g.1⟩) ++ reconvergence s :: s.now.stack) := by
  rw [mbr_issued checked buffered full groups]
  refine steers_pushing (by simpa using room) fun u path _ => ?_
  rw [List.reverse_cons, ← List.map_reverse, List.reverse_reverse, List.append_assoc, List.singleton_append] at path
  exact steers_goto a (onPath_exec m path)

end

/-! ### EXIT (R166) -/

/-- A team that is left no live lane has exited (R76). -/
theorem setLive_exited {t : Hart} {m : Mask} (none_ : m &&& t.live = 0) : (t.setLive m).sched.exited = true := by
  simp [Hart.setLive, none_]

/-- An EXIT that leaves the team nothing live, or a lane to go on with, or no entry to resume, only takes its members out. -/
theorem exit_issued {x : Args} {s : State} (now : ready .exit x s = true)
    (stays : s.now.live &&& ~~~s.now.members x &&& s.now.live = 0 ∨
      s.now.exec &&& (s.now.live &&& ~~~s.now.members x &&& s.now.live) ≠ 0 ∨ s.now.depth = 0) :
    exec (.exit x) s = (s.unwait.modNow (fun t => t.setLive (t.live &&& ~~~t.members x))).done := by
  have same : ¬((s.unwait.now.setLive (s.unwait.now.live &&& ~~~s.unwait.now.members x)).live ≠ 0 ∧
      (s.unwait.now.setLive (s.unwait.now.live &&& ~~~s.unwait.now.members x)).exec = 0 ∧ s.unwait.now.depth ≠ 0) := by
    simp only [Hart.setLive, unwait_live, unwait_members, unwait_exec, unwait_depth]
    tauto
  rw [exec_exit, execExit, issue_of_ready _ now]
  dsimp only
  rw [if_neg]
  simp only [modNow_now, Bool.and_eq_true, bne_iff_ne, beq_iff_eq, and_assoc]
  exact same

end Sys2Proof.Laws
end

section
/-! OBLIGATIONS O14 and O15. MBR and EXIT. -/
namespace Sys2Proof.Laws

open Machine Safety

/-- Settles O14: the other groups are pushed in their order above the reconvergence entry, and the first goes on. -/
theorem multiBranch : Obligations.MultiBranch := by
  intro x s checked buffered full m a others groups fits limit
  obtain ⟨u, next, only, exec, pc, stack, -, -, registers⟩ :=
    steers_kept (mbr_steers checked buffered full groups ⟨fits, limit⟩)
  exact ⟨u, next, only, exec, pc, stack, registers⟩

/-- Settles O15: the members leave %live, and with it %exec. -/
theorem exits : Obligations.Exits := by
  intro x s now gone live stays
  have issued := exit_issued now stays
  obtain ⟨only, -⟩ := movedOn_unwait s
  have left : (s.unwait.now.live &&& ~~~s.unwait.now.members x) &&& s.unwait.now.live = live := by
    rw [unwait_live, unwait_members]
  have kept : pathOnly s.now (s.unwait.now.setLive (s.unwait.now.live &&& ~~~s.unwait.now.members x)).advance :=
    pathOnly_trans (pathOnly_unwait s) rfl
  obtain ⟨-, registers⟩ := pathOnly_kept kept
  refine ⟨_, issued, onlyRunning_modNow _ (onlyRunning_modNow _ only), ?_, ?_, ?_, fun none_ => ?_, ?_⟩ <;>
    rw [modNow_now, modNow_now]
  · exact left
  · rw [← unwait_exec, ← left]; rfl
  · rw [← unwait_pc]; rfl
  · exact setLive_exited (left.trans none_)
  · exact registers

end Sys2Proof.Laws
end

section
/-! SUPPORT. What homes and changes of ownership leave: no core, no hart and no translation cache (R429, R450 to R461, R487). -/
namespace Sys2Proof.Laws

open Machine

/-- What no home touches: the choice of the hart, the harts, the cores and the translation caches. -/
@[irreducible] def coreSide (s : State) : Nat × Sparse Hart × Sparse Core × Sparse (List Trans) :=
  (s.cur, s.harts, s.cores, s.mem.tlbs)

theorem coreSide_iff {s t : State} : coreSide t = coreSide s ↔
    t.cur = s.cur ∧ t.harts = s.harts ∧ t.cores = s.cores ∧ t.mem.tlbs = s.mem.tlbs := by
  simp only [coreSide, Prod.mk.injEq]

theorem coreSide_of {s t : State} (cur : t.cur = s.cur) (harts : t.harts = s.harts) (cores : t.cores = s.cores)
    (tlbs : t.mem.tlbs = s.mem.tlbs) : coreSide t = coreSide s := coreSide_iff.2 ⟨cur, harts, cores, tlbs⟩

theorem foldl_coreSide {α : Type} {f : State → α → State} (kept : ∀ s a, coreSide (f s a) = coreSide s) (l : List α) (s : State) :
    coreSide (l.foldl f s) = coreSide s := foldl_keeps coreSide kept l s

@[simp] theorem coreSide_modHub (s : State) (f : HubSys → HubSys) : coreSide (s.modHub f) = coreSide s := coreSide_of rfl rfl rfl rfl
@[simp] theorem coreSide_modHome (s : State) (h : Nat) (f : HomeSt → HomeSt) : coreSide (s.modHome h f) = coreSide s :=
  coreSide_of rfl rfl rfl rfl
@[simp] theorem coreSide_modFrame (s : State) (n : Nat) (f : FrameRec → FrameRec) : coreSide (s.modFrame n f) = coreSide s :=
  coreSide_of rfl rfl rfl rfl
@[simp] theorem coreSide_send (s : State) (m : Msg) : coreSide (s.send m) = coreSide s := coreSide_of rfl rfl rfl rfl
@[simp] theorem coreSide_bumpBy (s : State) (key n : Nat) : coreSide (s.bumpBy key n) = coreSide s := coreSide_modHub ..
@[simp] theorem coreSide_bump (s : State) (key : Nat) : coreSide (s.bump key) = coreSide s := coreSide_bumpBy ..
@[simp] theorem coreSide_raiseEvent (s : State) (n : Nat) : coreSide (s.raiseEvent n) = coreSide s := coreSide_of rfl rfl rfl rfl
@[simp] theorem coreSide_dropCells (s : State) (f n : Nat) : coreSide (s.dropCells f n) = coreSide s := coreSide_of rfl rfl rfl rfl
@[simp] theorem coreSide_probe (s : State) (agents : Nat → Bool) (line n : Nat) (keep : Bool) :
    coreSide (s.probe agents line n keep) = coreSide s := coreSide_of rfl rfl rfl rfl
@[simp] theorem coreSide_cohPoke (s : State) (by_ : Nat) (l : List (Nat × Byte)) (ps : List Nat) :
    coreSide (s.cohPoke by_ l ps) = coreSide s := coreSide_of rfl rfl rfl rfl

theorem coreSide_mergePartial (s : State) (p : Partial) : coreSide (s.mergePartial p) = coreSide s :=
  obs_ite coreSide (coreSide_bump ..) (coreSide_cohPoke ..)

@[simp] theorem coreSide_mergeLines (s : State) (line n : Nat) : coreSide (s.mergeLines line n) = coreSide s :=
  (coreSide_of (by rfl) (by rfl) (by rfl) (by rfl)).trans
    (foldl_coreSide coreSide_mergePartial (s.mem.partials.filter (fun p => line ≤ p.pa / 128 && p.pa / 128 < line + n)) s)

@[simp] theorem coreSide_endKeeping (s : State) : coreSide s.endKeeping = coreSide s :=
  foldl_coreSide (fun st f => coreSide_dropCells st f 1) _ s

/-! ### Directories -/

theorem coreSide_probePeers (s : State) (h : Nat) (p : PeerEntry) (asker : Option Nat) :
    coreSide (s.probePeers h p asker) = coreSide s := by
  have sent : ∀ (f : Nat → Msg) (ks : List Nat), coreSide (ks.foldl (fun st k => st.send (f k)) s) = coreSide s :=
    fun f ks => foldl_coreSide (fun st k => coreSide_send st (f k)) ks s
  exact obs_ite coreSide (sent ..) ((coreSide_cohPoke ..).trans (sent ..))

@[simp] theorem coreSide_recallPeers (s : State) (h line n : Nat) (reader : Bool) :
    coreSide (s.recallPeers h line n reader) = coreSide s := by
  simp only [State.recallPeers, coreSide_modHome]
  exact foldl_coreSide (fun st p => coreSide_probePeers st h p none) _ s

@[simp] theorem coreSide_dropEntry (s : State) (h : Nat) (e : DirEntry) : coreSide (s.dropEntry h e) = coreSide s := by
  simp only [State.dropEntry, coreSide_modHome, coreSide_probe, apply_ite coreSide, coreSide_recallPeers, coreSide_mergeLines, ite_self]

@[simp] theorem coreSide_addEntry (s : State) (h : Nat) (e : DirEntry) : coreSide (s.addEntry h e) = coreSide s := by
  simp only [State.addEntry, coreSide_modHome]
  split
  · split
    · exact coreSide_dropEntry ..
    · rfl
  · rfl

@[simp] theorem coreSide_serveFree (s : State) (h line a guest : Nat) (k : DReq) :
    coreSide (s.serveFree h line a guest k) = coreSide s := by
  unfold State.serveFree
  split
  · exact coreSide_addEntry ..
  · rfl

@[simp] theorem coreSide_logPartition (s : State) (h line a g u : Nat) : coreSide (s.logPartition h line a g u) = coreSide s := by
  simp only [State.logPartition, coreSide_raiseEvent, coreSide_modHome, coreSide_cohPoke]

@[simp] theorem coreSide_dirSplit (s : State) (h line a : Nat) (e : DirEntry) (k : DReq) :
    coreSide (s.dirSplit h line a e k) = coreSide s := by
  simp only [State.dirSplit]
  split <;> simp only [coreSide_addEntry, apply_ite coreSide, coreSide_modHome, coreSide_probe, coreSide_recallPeers, ite_self]

@[simp] theorem coreSide_dirServe (s : State) (h line a g : Nat) (fw : Bool) (k : DReq) :
    coreSide (s.dirServe h line a g fw k).1 = coreSide s := by
  simp only [State.dirServe]
  split
  · exact coreSide_serveFree ..
  · next e _ =>
    cases nextEntry e a k <;> split_ifs <;>
      simp only [coreSide_logPartition, coreSide_dropEntry, coreSide_serveFree, coreSide_modHome, coreSide_dirSplit]

@[simp] theorem coreSide_homeWrite (s : State) (pa n v : Nat) : coreSide (s.homeWrite pa n v) = coreSide s := by
  simp only [State.homeWrite, coreSide_cohPoke, coreSide_mergeLines]
  split
  · exact coreSide_dirServe ..
  · rfl

/-! ### Ownership of POOL pages -/

@[simp] theorem coreSide_setOwn (s : State) (page w : Nat) : coreSide (s.setOwn page w).2 = coreSide s := by
  simp only [State.setOwn]
  split_ifs <;> simp only [coreSide_homeWrite, coreSide_send, coreSide_modHub]

@[simp] theorem coreSide_takeOwn (s : State) (page : Nat) : coreSide (s.takeOwn page).2 = coreSide s := by
  simp only [State.takeOwn, State.gainOwn, apply_ite coreSide, coreSide_modHub, coreSide_setOwn, ite_self]

@[simp] theorem coreSide_ownStep (s : State) (page : Nat) : coreSide (s.ownStep page).2 = coreSide s := by
  simp only [State.ownStep]
  split_ifs <;> simp only [coreSide_takeOwn, coreSide_send, coreSide_modHub]

theorem coreSide_ownFor (s : State) (hold : Option Nat) (page : Nat) : coreSide (s.ownFor hold page).2 = coreSide s := by
  unfold State.ownFor
  split
  · rfl
  · exact coreSide_ownStep s page

end Sys2Proof.Laws
end

section
/-! SUPPORT. What translations leave: the harts and the choice of the one that runs (R404 to R425); with it JOIN, which asks of the entries
that come back next whether they translate (R162, R165). -/
namespace Sys2Proof.Laws

open Machine Safety

/-- The choice of the hart that runs, and the harts. -/
@[irreducible] def seats (s : State) : Nat × Sparse Hart := (s.cur, s.harts)

theorem seats_iff {s t : State} : seats t = seats s ↔ t.cur = s.cur ∧ t.harts = s.harts := by
  simp only [seats, Prod.mk.injEq]

theorem seats_of {s t : State} (cur : t.cur = s.cur) (harts : t.harts = s.harts) : seats t = seats s := seats_iff.2 ⟨cur, harts⟩

theorem seats_of_coreSide {s t : State} (same : coreSide t = coreSide s) : seats t = seats s := by
  obtain ⟨cur, harts, -, -⟩ := coreSide_iff.1 same
  exact seats_of cur harts

theorem now_of_seats {s t : State} (same : seats t = seats s) : t.now = s.now := by
  obtain ⟨cur, harts⟩ := seats_iff.1 same
  simp only [State.now, State.hart, cur, harts]

theorem foldl_seats {α : Type} {f : State → α → State} (kept : ∀ s a, seats (f s a) = seats s) (l : List α) (s : State) :
    seats (l.foldl f s) = seats s := foldl_keeps seats kept l s

@[simp] theorem seats_modHub (s : State) (f : HubSys → HubSys) : seats (s.modHub f) = seats s := seats_of rfl rfl
@[simp] theorem seats_modFrame (s : State) (n : Nat) (f : FrameRec → FrameRec) : seats (s.modFrame n f) = seats s := seats_of rfl rfl

/-! ### Walks -/

@[simp] theorem seats_setAD (s : State) (at_ : Nat) (dirty : Bool) : seats (s.setAD at_ dirty) = seats s :=
  obs_ite seats rfl (seats_of rfl rfl)

@[simp] theorem seats_install (s : State) (core : Nat) (t : Trans) : seats (s.install core t) = seats s :=
  foldl_seats (fun _ _ => seats_of (by rfl) (by rfl)) _ s

@[simp] theorem seats_noteWalk (s : State) (t : Trans) (pa gpn : Nat) : seats (s.noteWalk t pa gpn) = seats s := by
  have dropped : ∀ l : List (Nat × Nat), seats (l.foldl (fun st r => st.dropCells r.1 r.2) s) = seats s :=
    fun l => foldl_seats (fun _ _ => seats_of (by rfl) (by rfl)) l s
  have based : ∀ (l : List Nat) (f : Nat) (g : FrameRec → FrameRec) (st : State),
      seats (l.foldl (fun st i => st.modFrame (f + i) g) st) = seats st :=
    fun l f g st => foldl_seats (fun u i => seats_modFrame u (f + i) g) l st
  have ended : seats s.endKeeping = seats s := seats_of_coreSide (coreSide_endKeeping s)
  simp only [State.noteWalk]
  split
  · rfl
  · split <;> simp only [seats_modFrame, apply_ite seats, based, dropped, ended, ite_self]

theorem seats_meetPark (s : State) (cx : XCtx) (pte leaf : Nat) : seats (s.meetPark cx pte leaf).2 = seats s := by
  simp only [State.meetPark]
  split_ifs <;> simp only [seats_modHub]

theorem seats_walked (s : State) (cx : XCtx) (va : Nat) (acc : AccessKind) (write : Bool) (t : Trans) (pa : Nat) (via : List Nat) :
    seats (s.walked cx va acc write t pa via).2 = seats s := by
  have notices : ∀ l : List (Nat × Nat),
      seats (l.foldl (fun st r => st.send (.mappingNotice (bits (r.1 * 4096) 39 6) (r.1 * 4096) r.2)) s) = seats s :=
    fun l => foldl_seats (fun _ _ => seats_of (by rfl) (by rfl)) l s
  have leaves : ∀ st : State, seats (via.foldl (fun st a => st.setAD a false) st) = seats st :=
    fun st => foldl_seats (fun u a => seats_setAD u a false) via st
  simp only [State.walked]
  split
  · rfl
  · split
    · exact notices _
    · split <;> simp only [seats_install, seats_noteWalk, seats_setAD, leaves, notices]

theorem seats_walkFor (s : State) (cx : XCtx) (va : Nat) (acc : AccessKind) (write : Bool) :
    seats (s.walkFor cx va acc write).2 = seats s := by
  unfold State.walkFor
  split
  · exact seats_meetPark ..
  · rfl
  · exact seats_walked ..

theorem seats_translate (s : State) (cx : XCtx) (va : Nat) (acc : AccessKind) (write : Bool) :
    seats (s.translate cx va acc write).2 = seats s := by
  refine obs_ite (fun r : XRes × State => seats r.2) rfl ?_
  split
  · split
    · rfl
    · exact obs_ite (fun r : XRes × State => seats r.2) (seats_walkFor ..) rfl
  · exact (seats_walkFor ..).trans (obs_ite seats rfl (seats_of rfl rfl))

/-! ### Ranges (R162, R183) -/

theorem seats_runs {s t : State} {cx : XCtx} {va n : Nat} {acc : AccessKind} {write : Bool} {rs : List Run}
    (ok : s.runs cx va n acc write = .ok (rs, t)) : seats t = seats s := by
  refine foldl_except_keeps (fun q : List Run × State => seats q.2) (fun _ _ => by rfl) (fun q p q' step => ?_) _ ok
  have here := seats_translate q.2 cx p.1 acc write
  dsimp only at step
  split at step
  · next eq =>
    cases step
    rw [eq] at here
    exact here
  · cases step

theorem seats_ownRuns {s t : State} {h : Nat} {write raises : Bool} {rs : List Run}
    (ok : s.ownRuns h write raises rs = .ok t) : seats t = seats s := by
  refine foldl_except_keeps seats (fun _ _ => by rfl) (fun st r st' step => ?_) _ ok
  have here := seats_of_coreSide (coreSide_ownFor st (if raises then (st.hart h).sched.hold else none) (poolPage r.pa))
  dsimp only at step
  split at step
  · next eq =>
    cases step
    rw [eq] at here
    exact here
  · cases step
  · cases step

theorem seats_privRuns {s t : State} {h va n : Nat} {acc : AccessKind} {write : Bool} {rs : List Run}
    (ok : s.privRuns h va n acc write = .ok (rs, t)) : seats t = seats s := by
  unfold State.privRuns at ok
  split at ok
  · cases ok
  · next runs =>
    split at ok
    · cases ok
    · next owned =>
      cases ok
      exact (seats_ownRuns owned).trans (seats_runs runs)

theorem seats_refillReady {s t : State} {h len : Nat} (ok : s.refillReady h len = .ok t) : seats t = seats s := by
  unfold State.refillReady at ok
  dsimp only at ok
  split at ok
  · cases ok; rfl
  · split at ok
    · cases ok
    · next runs => cases ok; exact seats_privRuns runs

/-- Nothing is asked where no entry is in memory. -/
theorem refillReady_none {s : State} {h len : Nat} (none_ : (s.hart h).spilled = 0) : s.refillReady h len = .ok s := by
  simp [State.refillReady, none_]

/-! ### JOIN (R165) -/

/-- The first pop of a JOIN ends it where the entry is a reconvergence point, or a path that still has live lanes. -/
theorem pops_first {s : State} {next : Word} {e : SEntry} {r : List SEntry} (top : s.now.stack = e :: r)
    (ends : e.path = true → e.mask &&& s.now.live ≠ 0) (fuel : Nat) :
    s.pops next (fuel + 1) = .ok (e.mask &&& s.now.live, if e.path then e.pc else next, r, s) := by
  have popped : popJoin s.now.live next s.now.stack = some (e.mask &&& s.now.live, if e.path then e.pc else next, r) := by
    rw [top, popJoin]
    cases path : e.path with
    | false => rfl
    | true => exact if_pos (bne_iff_ne.2 (ends path))
  rw [State.pops, popped]

/-- Going on at an address, past the instruction or by a transfer, changes the pc and the issue state of the running hart. -/
theorem goes_on (s : State) (a : Word) :
    ∃ sched, (if a == s.now.pc + 12 then s.done else s.goto a) = .next (s.modNow (fun t => { t with pc := a, sched := sched })) := by
  by_cases past : a = s.now.pc + 12
  · refine ⟨s.now.sched, ?_⟩
    rw [if_pos (beq_iff_eq.2 past), past]
    rfl
  · exact ⟨_, if_neg (by simpa using past)⟩

/-- A JOIN that ends with its first pop goes on with the entry's lanes, at its address or past the JOIN. -/
theorem joinFrom_first {s old s2 : State} {e : SEntry} {r : List SEntry} (top : s.now.stack = e :: r)
    (ends : e.path = true → e.mask &&& s.now.live ≠ 0) (ready_ : s.refillReady s.cur r.length = .ok s2) :
    ∃ sched, s.joinFrom old = .next (s2.modNow (fun t => { t with
      exec := e.mask &&& s.now.live, stack := r, pc := if e.path then e.pc else s.now.pc + 12, sched := sched })) := by
  have same : s2.now = s.now := now_of_seats (seats_refillReady ready_)
  let u := s2.modNow (fun t => { t with exec := e.mask &&& s.now.live, stack := r })
  have pc : u.now.pc = s.now.pc := by rw [modNow_now, ← same]
  obtain ⟨sched, onward⟩ := goes_on u (if e.path then e.pc else s.now.pc + 12)
  refine ⟨sched, ?_⟩
  rw [pc, modNow_modNow] at onward
  unfold State.joinFrom
  dsimp only
  rw [pops_first top ends]
  dsimp only
  rw [ready_]
  exact onward

theorem join_first {x : Args} {s s2 : State} {e : SEntry} {r : List SEntry} (now : ready .join x s = true)
    (top : s.now.stack = e :: r) (ends : e.path = true → e.mask &&& s.now.live ≠ 0)
    (ready_ : s.unwait.refillReady s.cur r.length = .ok s2) :
    ∃ sched, exec (.join x) s = .next (s2.modNow (fun t => { t with
      exec := e.mask &&& s.now.live, stack := r, pc := if e.path then e.pc else s.now.pc + 12, sched := sched })) := by
  have first := joinFrom_first (s := s.unwait) (old := s.unwait) (by rw [unwait_stack, top]) (by rwa [unwait_live]) ready_
  rw [unwait_live, unwait_pc] at first
  have deep : ¬(s.unwait.now.depth == 0) = true := by simp [Hart.depth, top]
  rwa [exec_join, execJoin, issue_of_ready _ now, if_neg deep]

/-- What a JOIN leaves that ends with its first pop. -/
theorem join_leaves {x : Args} {s s2 : State} {e : SEntry} {r : List SEntry} (now : ready .join x s = true)
    (top : s.now.stack = e :: r) (ends : e.path = true → e.mask &&& s.now.live ≠ 0)
    (ready_ : s.unwait.refillReady s.cur r.length = .ok s2) :
    ∃ u : State, exec (.join x) s = .next u ∧ (s.now.spilled = 0 → onlyRunning s u) ∧ u.mem = s2.mem ∧
      u.now.exec = e.mask &&& s.now.live ∧ u.now.pc = (if e.path then e.pc else s.now.pc + 12) ∧ u.now.stack = r ∧
      u.now.live = s.now.live ∧ u.now.spilled = s.now.spilled ∧ scalarsKept s.now u.now ∧ vectorsKept s.now u.now ∧
      predicatesKept s.now u.now := by
  obtain ⟨sched, next⟩ := join_first now top ends ready_
  have same : s2.now = s.unwait.now := now_of_seats (seats_refillReady ready_)
  have kept : pathOnly s.now s2.now := same ▸ pathOnly_unwait s
  refine ⟨_, next, fun none_ => onlyRunning_modNow _ ?_, rfl, ?_⟩
  · have alone : s.unwait.refillReady s.cur r.length = .ok s.unwait := refillReady_none ((unwait_spilled s).trans none_)
    obtain rfl : s.unwait = s2 := Except.ok.inj (alone.symm.trans ready_)
    exact (movedOn_unwait s).1
  · rw [modNow_now]
    exact ⟨rfl, rfl, rfl, by rw [same]; exact unwait_live s, pathOnly_kept (pathOnly_trans kept rfl)⟩

end Sys2Proof.Laws
end

section
/-! OBLIGATION O13. The split stack. -/
namespace Sys2Proof.Laws

open Machine Safety

/-- Settles O13: BRD pushes what stays resident and goes on with one side; JOIN ends with its first pop where that has lanes. -/
theorem divergence : Obligations.Divergence := by
  intro x s t take rest dest room gives
  refine ⟨fun now some_ others fits => steers_kept (brd_splits now some_ others fits),
    fun now some_ all fits => steers_kept (brd_branches now some_ all fits),
    fun now none_ fits => steers_kept (brd_passes now none_ fits), fun now e r s2 top ready_ => ?_, fun now flat => ?_⟩
  · intro joins
    refine ⟨fun path some_ => ?_, fun point => ?_⟩
    · have left := join_leaves now top (fun _ => some_) ready_
      rwa [if_pos path] at left
    · have left := join_leaves now top (fun path => absurd (point.symm.trans path) (by decide)) ready_
      rwa [if_neg (by rw [point]; decide)] at left
  · rw [exec_join, execJoin, issue_of_ready _ now, if_pos (beq_iff_eq.2 ((unwait_depth s).trans flat)), unwait_exec]
    rfl

end Sys2Proof.Laws
end

section
/-! SUPPORT. What the release actions of a scope leave: the registers of every hart, the translation caches, the instruction caches and
the loop buffers (R227 to R229). -/
namespace Sys2Proof.Laws

open Machine

/-- A hart without its prefetch counters, in which an eviction from a cache counts (R475). -/
def uncounted (t : Hart) : Hart := { t with prefetch := [], fetched := [] }

/-- What the pipes issue from: the choice of the hart, the harts but for their prefetch counters, the translation caches, the
instruction caches and the loop buffers. -/
@[irreducible] def issueSide (s : State) :
    Nat × (Nat → Hart) × Sparse (List Trans) × (Nat → Sparse (Option Byte) × Sparse (Option LoopBody)) :=
  (s.cur, fun h => uncounted (s.hart h), s.mem.tlbs, fun c => ((s.core c).icache, (s.core c).loops))

theorem issueSide_iff {s t : State} : issueSide t = issueSide s ↔
    t.cur = s.cur ∧ (∀ h, uncounted (t.hart h) = uncounted (s.hart h)) ∧ t.mem.tlbs = s.mem.tlbs ∧
      ∀ c, (t.core c).icache = (s.core c).icache ∧ (t.core c).loops = (s.core c).loops := by
  simp only [issueSide, Prod.mk.injEq, funext_iff]

theorem issueSide_of_coreSide {s t : State} (same : coreSide t = coreSide s) : issueSide t = issueSide s := by
  obtain ⟨cur, harts, cores, tlbs⟩ := coreSide_iff.1 same
  refine issueSide_iff.2 ⟨cur, fun h => ?_, tlbs, fun c => ?_⟩
  · simp only [State.hart, harts]
  · simp only [State.core, cores, and_self]

theorem now_of_issueSide {s t : State} (same : issueSide t = issueSide s) : uncounted t.now = uncounted s.now := by
  obtain ⟨cur, harts, -⟩ := issueSide_iff.1 same
  rw [State.now, cur]
  exact harts s.cur

theorem issueSide_modHart (s : State) (h : Nat) {f : Hart → Hart} (kept : ∀ t, uncounted (f t) = uncounted t) :
    issueSide (s.modHart h f) = issueSide s := by
  refine issueSide_iff.2 ⟨rfl, fun j => ?_, rfl, fun _ => ⟨rfl, rfl⟩⟩
  rw [hart_modHart]
  split
  · next same => rw [kept, same]
  · rfl

@[simp] theorem issueSide_setL1 (s : State) (c : Nat) (k : Cache) : issueSide (s.setL1 c k) = issueSide s := by
  refine issueSide_iff.2 ⟨rfl, fun _ => rfl, rfl, fun n => ?_⟩
  rw [State.setL1, core_modCore]
  split
  · next same => rw [same]; exact ⟨rfl, rfl⟩
  · exact ⟨rfl, rfl⟩

theorem foldl_issueSide {α : Type} {f : State → α → State} (kept : ∀ s a, issueSide (f s a) = issueSide s) (l : List α) (s : State) :
    issueSide (l.foldl f s) = issueSide s := foldl_keeps issueSide kept l s

/-! ### Accesses at the coherent level (R227, R427, R452, R472) -/

theorem coreSide_notify (s : State) (guest gpn reason tier : Nat) : coreSide (s.notify guest gpn reason tier) = coreSide s := by
  simp only [State.notify]
  split_ifs <;> simp only [coreSide_bump, coreSide_homeWrite]

@[simp] theorem coreSide_count (s : State) (pa : Nat) (write : Bool) : coreSide (s.count pa write) = coreSide s := by
  simp only [State.count]
  split_ifs <;> simp only [coreSide_modFrame, coreSide_notify, coreSide_bumpBy]

@[simp] theorem issueSide_count (s : State) (pa : Nat) (write : Bool) : issueSide (s.count pa write) = issueSide s :=
  issueSide_of_coreSide (coreSide_count ..)

@[simp] theorem issueSide_modHome (s : State) (h : Nat) (f : HomeSt → HomeSt) : issueSide (s.modHome h f) = issueSide s :=
  issueSide_of_coreSide (coreSide_modHome ..)

@[simp] theorem issueSide_cohPoke (s : State) (by_ : Nat) (l : List (Nat × Byte)) (ps : List Nat) :
    issueSide (s.cohPoke by_ l ps) = issueSide s := issueSide_of_coreSide (coreSide_cohPoke ..)

@[simp] theorem issueSide_setCluster (s : State) (c : Nat) (k : Cache) : issueSide (s.setCluster c k) = issueSide s :=
  issueSide_of_coreSide (coreSide_of rfl rfl rfl rfl)

@[simp] theorem issueSide_countEvicted (s : State) (of_ : Nat → Bool) (line : Nat) :
    issueSide (s.countEvicted of_ line) = issueSide s := by
  simp only [State.countEvicted]
  refine (foldl_issueSide (fun st h => issueSide_modHart st h (fun _ => by rfl)) _ _).trans ?_
  split
  · exact issueSide_of_coreSide (coreSide_of rfl rfl rfl rfl)
  · rfl

@[simp] theorem issueSide_evictCopy (s : State) (key : Nat) (c : CohLine) : issueSide (s.evictCopy key c) = issueSide s := by
  have dropped : ∀ f : MemSys → Sparse (List CohLine), issueSide (s.modMem (fun m => { m with copies := f m })) = issueSide s :=
    fun f => issueSide_of_coreSide (coreSide_of rfl rfl rfl rfl)
  simp only [State.evictCopy]
  split
  · simp only [issueSide_countEvicted, dropped]
  · split <;> simp only [issueSide_modHome, issueSide_count, issueSide_countEvicted, dropped]

@[simp] theorem issueSide_keepCopy (s : State) (h line a : Nat) (write : Bool) : issueSide (s.keepCopy h line a write) = issueSide s := by
  have kept : ∀ f : MemSys → Sparse (List CohLine), issueSide (s.modMem (fun m => { m with copies := f m })) = issueSide s :=
    fun f => issueSide_of_coreSide (coreSide_of rfl rfl rfl rfl)
  simp only [State.keepCopy]
  split
  · rfl
  · split
    · split <;> simp only [issueSide_evictCopy, kept]
    · exact kept _

@[simp] theorem issueSide_cohTouch (s : State) (a g : Nat) (fw : Bool) (line : Nat) (write home : Bool) :
    issueSide (s.cohTouch a g fw line write home).1 = issueSide s := by
  have merged : ∀ st : State, issueSide (st.mergeLines line 1) = issueSide st := fun st => issueSide_of_coreSide (coreSide_mergeLines ..)
  have served : ∀ h k, issueSide (s.dirServe h line a g fw k).1 = issueSide s :=
    fun h k => issueSide_of_coreSide (coreSide_dirServe ..)
  simp only [State.cohTouch]
  split
  · exact merged s
  · split
    · rfl
    · split <;> simp only [issueSide_keepCopy, issueSide_count, merged, served]

/-! ### Write-backs (R228, R229) -/

@[simp] theorem issueSide_writeBack (s : State) (agent : Nat) (l : List (Nat × CByte)) (poison : List Nat) :
    issueSide (s.writeBack agent l poison) = issueSide s := by
  refine foldl_issueSide (fun st k => ?_) _ s
  simp only [apply_ite issueSide, issueSide_cohPoke, issueSide_cohTouch, ite_self]

@[simp] theorem issueSide_carryStamps (s : State) (p q : Nat) (l : List (Nat × CByte)) :
    issueSide (s.carryStamps p q l) = issueSide s :=
  foldl_issueSide (fun _ _ => issueSide_of_coreSide (coreSide_of (by rfl) (by rfl) (by rfl) (by rfl))) _ s

@[simp] theorem issueSide_clusterBack (s : State) (cl : Nat) (sel : Nat → Bool) : issueSide (s.clusterBack cl sel) = issueSide s := by
  simp only [State.clusterBack, apply_ite issueSide, issueSide_carryStamps, issueSide_setCluster, issueSide_writeBack, ite_self]

@[simp] theorem issueSide_fitCluster (s : State) (cl keep : Nat) : issueSide (s.fitCluster cl keep) = issueSide s := by
  refine foldl_issueSide (fun st k => ?_) _ s
  simp only [issueSide_countEvicted, issueSide_setCluster, issueSide_clusterBack]

@[simp] theorem issueSide_l1Back (s : State) (core : Nat) (sel : Nat → Bool) : issueSide (s.l1Back core sel) = issueSide s := by
  have released : ∀ (st : State) (h level c : Nat) (lines : List Nat), issueSide (st.releaseAt h level c lines) = issueSide st :=
    fun st h level c lines => issueSide_of_coreSide (coreSide_of rfl rfl rfl rfl)
  simp only [State.l1Back, apply_ite issueSide, issueSide_fitCluster, issueSide_carryStamps, issueSide_setL1, released,
    issueSide_setCluster, ite_self]

@[simp] theorem issueSide_release (s : State) (core scope : Nat) : issueSide (s.release core scope) = issueSide s := by
  simp only [State.release, apply_ite issueSide, issueSide_clusterBack, issueSide_l1Back, ite_self]

/-- A release writes nothing back where nothing is dirty. -/
theorem release_clean {s : State} {core : Nat} (clean : Safety.nothingDirty s core) (scope : Nat) : s.release core scope = s := by
  unfold State.release
  rcases clean with service | ⟨l1, cluster⟩
  · exact if_pos (by simp [service])
  · have first : s.l1Back core (fun _ => true) = s := by simp [State.l1Back, l1]
    have second : s.clusterBack (clusterOf core) (fun _ => true) = s := by simp [State.clusterBack, cluster]
    simp only [first, second, ite_self]

end Sys2Proof.Laws
end

section
/-! SUPPORT. TLBI and IFLUSH: when they go on, and which entries they take out (R171, R411). -/
namespace Sys2Proof.Laws

open Machine Safety

/-! ### What both wait for -/

/-- The stores of the team have left, and what its release would write back need not wait (R171, R411). -/
def settledFor (s : State) (scope : Nat) : Prop :=
  s.now.sb = [] ∧ s.now.uasc = 0 ∧ (2 ≤ scope → s.backWaits (coreOf s.cur) (fun _ => true) = false)

theorem unwait_uasc (s : State) : s.unwait.now.uasc = s.now.uasc := by rw [unwait_now]

theorem settled_goes {s : State} {scope : Nat} (settled : settledFor s scope) (w v go : Out) :
    (if (!s.unwait.now.sb.isEmpty || s.unwait.now.uasc != 0) = true then w
      else if (decide (scope ≥ 2) && s.unwait.backWaits (coreOf s.cur) (fun _ => true)) = true then v else go) = go := by
  obtain ⟨empty, acked, back⟩ := settled
  rw [if_neg (by simp [empty, acked, unwait_uasc]), if_neg]
  simp only [Bool.and_eq_true, decide_eq_true_eq, not_and, Bool.not_eq_true]
  exact back

/-- The release of a form's scope, which at SYSTEM scope the other packages are told of. -/
def releaseTelling (s : State) (scope : Nat) (m : Msg) : State :=
  if scope == 4 then (s.unwait.release (coreOf s.cur) scope).send m else s.unwait.release (coreOf s.cur) scope

theorem issueSide_releaseTelling (s : State) (scope : Nat) (m : Msg) : issueSide (releaseTelling s scope m) = issueSide s.unwait := by
  have sent : ∀ st : State, issueSide (st.send m) = issueSide st := fun st => issueSide_of_coreSide (coreSide_send st m)
  simp only [releaseTelling, apply_ite issueSide, sent, issueSide_release, ite_self]

theorem releaseTelling_memory {s : State} (clean : nothingDirty s (coreOf s.cur)) (scope : Nat) (m : Msg) :
    (releaseTelling s scope m).mem = s.mem := by
  have none_ : s.unwait.release (coreOf s.cur) scope = s.unwait := release_clean (s := s.unwait) clean scope
  rw [releaseTelling, none_]
  exact obs_ite State.mem rfl rfl

/-- What a completed maintenance form leaves of its hart: the registers, and the pc past the form. -/
theorem maintenance_leaves {s u : State} (hart : uncounted u.now = uncounted s.unwait.now) :
    (u.modNow Hart.advance).now.pc = s.now.pc + 12 ∧ registersKept s.now (u.modNow Hart.advance).now := by
  have pc : u.now.pc = s.now.pc := (congrArg Hart.pc hart).trans (unwait_pc s)
  rw [modNow_now, advance_pc, pc]
  refine ⟨rfl, fun r => ?_, fun r l => ?_, fun r => ?_, ?_⟩
  · exact (congrArg (fun t => t.getS r) hart).trans (unwait_getS s r)
  · exact (congrArg (fun t => t.getV r l) hart).trans (unwait_getV s r l)
  · exact (congrArg (fun t => t.getK r) hart).trans (unwait_getK s r)
  · exact (congrArg Hart.fflags hart).trans (unwait_fflags s)

/-! ### TLBI (R411) -/

section
variable {x : Args} {s : State}

/-- Whether a TLBI takes an entry out of a cache: one of its scope, and selected by its operands. -/
def tlbiTakes (s : State) (x : Args) (key : Nat) (e : Trans) : Prop :=
  scopeTlb (coreOf s.cur) x.rm.toNat key = true ∧
    s.now.tlbiSelect x.sub.toNat (s.scalar x.a) (s.scalar x.b) e = true

/-- The entries that a TLBI takes out of a cache. -/
def tlbiGone (s : State) (x : Args) (p : Nat × List Trans) : List Trans :=
  if scopeTlb (coreOf s.cur) x.rm.toNat p.1 then p.2.filter (s.now.tlbiSelect x.sub.toNat (s.scalar x.a) (s.scalar x.b)) else []

theorem mem_tlbiGone {p : Nat × List Trans} {e : Trans} : e ∈ tlbiGone s x p ↔ e ∈ p.2 ∧ tlbiTakes s x p.1 e := by
  unfold tlbiGone tlbiTakes
  split
  · next inScope => simp [inScope]
  · next outside => simp [outside]

/-- Caches without the entries that a TLBI takes out, the empty ones dropped. -/
def tlbsAfter (s : State) (x : Args) (m : Sparse (List Trans)) : Sparse (List Trans) :=
  (m.map (fun p => (p.1, p.2.filter (fun e => !(tlbiGone s x p).contains e)))).filter (fun p => !p.2.isEmpty)

theorem mem_tlbsAfter {m : Sparse (List Trans)} {key : Nat} {e : Trans} :
    (∃ l, (key, l) ∈ tlbsAfter s x m ∧ e ∈ l) ↔ (∃ l, (key, l) ∈ m ∧ e ∈ l) ∧ ¬ tlbiTakes s x key e := by
  have kept : ∀ p : Nat × List Trans, e ∈ p.2.filter (fun e => !(tlbiGone s x p).contains e) ↔ e ∈ p.2 ∧ ¬ tlbiTakes s x p.1 e := by
    intro p
    simp only [List.mem_filter, Bool.not_eq_true', List.contains_eq_mem, decide_eq_false_iff_not, mem_tlbiGone]
    tauto
  constructor
  · rintro ⟨l, mem, inList⟩
    obtain ⟨⟨k, old⟩, listed, same⟩ := List.mem_map.1 (List.mem_of_mem_filter mem)
    obtain ⟨rfl, rfl⟩ := Prod.mk.inj same
    obtain ⟨inOld, stays⟩ := (kept (k, old)).1 inList
    exact ⟨⟨old, listed, inOld⟩, stays⟩
  · rintro ⟨⟨old, listed, inOld⟩, stays⟩
    have inList := (kept (key, old)).2 ⟨inOld, stays⟩
    refine ⟨_, List.mem_filter.2 ⟨List.mem_map.2 ⟨(key, old), listed, rfl⟩, ?_⟩, inList⟩
    simpa using List.ne_nil_of_mem inList

/-- The state that a TLBI leaves before the pc moves on. -/
def tlbiState (s : State) (x : Args) : State :=
  ((releaseTelling s x.rm.toNat (.tlbi x.sub.toNat (s.scalar x.a) (s.scalar x.b) s.now.guest (s.now.mode == .guest))).modMem
    (fun m => { m with tlbs := tlbsAfter s x m.tlbs })).endKeeping

theorem unwait_tlbiSelect (s : State) : s.unwait.now.tlbiSelect = s.now.tlbiSelect := by
  funext sub a b e
  simp only [Hart.tlbiSelect, unwait_mode, unwait_guest]

/-- A TLBI that does not select every entry from GUEST mode is not denied there (R411). -/
theorem tlbi_allowed (allowed : s.now.mode = .guest → x.sub ≠ 2) :
    ¬((checkArgs .tlbi x).isNone && s.now.mode == .guest && x.sub == 2) = true := by
  simp only [Bool.and_eq_true, beq_iff_eq, not_and, and_imp]
  exact fun _ guest => allowed guest

theorem tlbi_goes (now : ready .tlbi x s = true) (kinds : s.now.tlbiCheck x = none) (allowed : s.now.mode = .guest → x.sub ≠ 2)
    (named : kindOf x.b = .s → s.scalar x.b ≤ 63) (settled : settledFor s x.rm.toNat)
    (performed : s.inFlight (coreOf s.cur) x.rm.toNat (s.mem.tlbs.map (tlbiGone s x)).flatten = false) :
    exec (.tlbi x) s = (tlbiState s x).done := by
  have performed' : s.unwait.inFlight (coreOf s.cur) x.rm.toNat (s.unwait.mem.tlbs.map (tlbiGone s x)).flatten = false := performed
  rw [exec_tlbi, execTlbi, kinds, ite_self]
  dsimp only
  rw [if_neg (tlbi_allowed allowed), issue_of_ready _ now, if_neg (by simpa [unwait_scalar] using named), unwait_cur, settled_goes settled]
  simp only [unwait_scalar, unwait_tlbiSelect, unwait_guest, unwait_mode]
  exact if_neg (by rw [← Bool.not_eq_true] at performed'; exact performed')

theorem tlbiState_now : uncounted (tlbiState s x).now = uncounted s.unwait.now := by
  rw [tlbiState, now_of_seats (seats_of_coreSide (coreSide_endKeeping _))]
  exact (now_of_issueSide (issueSide_releaseTelling s x.rm.toNat _) :)

theorem tlbiState_tlbs : (tlbiState s x).mem.tlbs = tlbsAfter s x s.mem.tlbs := by
  obtain ⟨-, -, released, -⟩ := issueSide_iff.1 (issueSide_releaseTelling s x.rm.toNat
    (.tlbi x.sub.toNat (s.scalar x.a) (s.scalar x.b) s.now.guest (s.now.mode == .guest)))
  obtain ⟨-, -, -, ended⟩ := coreSide_iff.1 (coreSide_endKeeping ((releaseTelling s x.rm.toNat
    (.tlbi x.sub.toNat (s.scalar x.a) (s.scalar x.b) s.now.guest (s.now.mode == .guest))).modMem
      (fun m => { m with tlbs := tlbsAfter s x m.tlbs })))
  exact ended.trans (congrArg (tlbsAfter s x) released)

theorem endKeeping_cells (t : State) : t.endKeeping.mem.cells = t.mem.cells :=
  foldl_keeps (fun st : State => st.mem.cells) (fun _ _ => by rfl) _ t

theorem tlbiState_cells (clean : nothingDirty s (coreOf s.cur)) : (tlbiState s x).mem.cells = s.mem.cells :=
  (endKeeping_cells _).trans (congrArg MemSys.cells (releaseTelling_memory clean x.rm.toNat _) :)

/-- A TLBI that names a number which is no guest raises PERMISSION (R411). -/
theorem tlbi_refuses (now : ready .tlbi x s = true) (kinds : s.now.tlbiCheck x = none) (allowed : s.now.mode = .guest → x.sub ≠ 2)
    (isS : kindOf x.b = .s) (large : 63 < s.scalar x.b) : exec (.tlbi x) s = .next (s.unwait.takeTrap s.cur 6 0 0 1) := by
  rw [exec_tlbi, execTlbi, kinds, ite_self]
  dsimp only
  rw [if_neg (tlbi_allowed allowed), issue_of_ready _ now, if_pos (by simp [unwait_scalar, isS, large])]
  rfl

end

/-! ### IFLUSH (R171) -/

/-- A core whose instruction cache and loop buffers are empty. -/
def flushed (k : Core) : Core := { k with icache := [], loops := [] }

/-- The cores of a list flushed that lie in a scope. -/
def flushCores (core scope : Nat) (cs : List Nat) (s : State) : State :=
  cs.foldl (fun st c => if sameInstance core scope c then st.modCore c flushed else st) s

theorem flushCores_core (core scope : Nat) (cs : List Nat) (s : State) (n : Nat) :
    (flushCores core scope cs s).core n = if n ∈ cs ∧ sameInstance core scope n = true then flushed (s.core n) else s.core n := by
  unfold flushCores
  induction cs generalizing s with
  | nil => simp
  | cons c cs ih =>
    have step : (if sameInstance core scope c then s.modCore c flushed else s).core n =
        if c = n ∧ sameInstance core scope n = true then flushed (s.core n) else s.core n := by
      by_cases inScope : sameInstance core scope c = true
      · rw [if_pos inScope, core_modCore]
        by_cases here : c = n
        · subst here; rw [if_pos rfl, if_pos ⟨rfl, inScope⟩]
        · rw [if_neg here, if_neg (fun both => here both.1)]
      · rw [if_neg inScope, if_neg]
        rintro ⟨rfl, inScope'⟩
        exact inScope inScope'
    have twice : ∀ k, flushed (flushed k) = flushed k := fun _ => rfl
    rw [List.foldl_cons, ih, step]
    grind

theorem flushCores_kept (core scope : Nat) (cs : List Nat) (s : State) :
    (flushCores core scope cs s).mem = s.mem ∧ seats (flushCores core scope cs s) = seats s :=
  ⟨foldl_keeps State.mem (fun _ _ => obs_ite State.mem (by rfl) (by rfl)) cs s,
    foldl_seats (fun _ _ => obs_ite seats (seats_of (by rfl) (by rfl)) rfl) cs s⟩

/-- Flushing every core that a state lists flushes every core of a scope: one that is not listed holds nothing. -/
theorem flushCores_all (core scope : Nat) (s : State) (n : Nat) :
    (sameInstance core scope n = true → ((flushCores core scope (s.cores.map Prod.fst) s).core n).icache = [] ∧
      ((flushCores core scope (s.cores.map Prod.fst) s).core n).loops = []) ∧
    (sameInstance core scope n = false → (flushCores core scope (s.cores.map Prod.fst) s).core n = s.core n) := by
  rw [flushCores_core]
  refine ⟨fun inScope => ?_, fun outside => if_neg (by simp [outside])⟩
  by_cases listed : n ∈ s.cores.map Prod.fst
  · rw [if_pos ⟨listed, inScope⟩]
    exact ⟨rfl, rfl⟩
  · rw [if_neg (fun both => listed both.1), State.core,
      sget_unlisted fun p mem same => listed (List.mem_map.2 ⟨p, mem, same⟩)]
    exact ⟨rfl, rfl⟩

section
variable {x : Args} {s : State}

/-- The state that an IFLUSH leaves before the pc moves on. -/
def iflushState (s : State) (x : Args) : State :=
  let told := releaseTelling s x.rm.toNat .iflush
  flushCores (coreOf s.cur) x.rm.toNat (told.cores.map Prod.fst) told

theorem iflush_goes (now : ready .iflush x s = true) (settled : settledFor s x.rm.toNat) :
    exec (.iflush x) s = (iflushState s x).done := by
  rw [exec_iflush, execIflush, issue_of_ready _ now]
  dsimp only
  rw [unwait_cur, settled_goes settled]
  rfl

theorem iflushState_now : uncounted (iflushState s x).now = uncounted s.unwait.now := by
  obtain ⟨-, harts⟩ := flushCores_kept (coreOf s.cur) x.rm.toNat ((releaseTelling s x.rm.toNat .iflush).cores.map Prod.fst)
    (releaseTelling s x.rm.toNat .iflush)
  rw [iflushState, now_of_seats harts]
  exact now_of_issueSide (issueSide_releaseTelling ..)

theorem iflushState_mem (clean : nothingDirty s (coreOf s.cur)) : (iflushState s x).mem = s.mem :=
  (flushCores_kept ..).1.trans (releaseTelling_memory clean ..)

end

end Sys2Proof.Laws
end

section
/-! OBLIGATION O46. TLBI and IFLUSH. -/
namespace Sys2Proof.Laws

open Machine Safety

/-- Settles O46: TLBI takes the entries selected out of the caches of its scope, IFLUSH empties the cores of its scope. -/
theorem cacheMaintenance : Obligations.CacheMaintenance := by
  intro x s t core scope settled
  refine ⟨fun now kinds allowed named ready_ => ?tlbi, fun n checked ranked kinds => ?illegal, fun checked kinds guest all => ?denied,
    fun now kinds allowed => tlbi_refuses now kinds allowed, fun now ready_ => ?iflush⟩
  case tlbi =>
    intro chosen performed
    have gone : s.inFlight core scope (s.mem.tlbs.map (tlbiGone s x)).flatten = false := by
      refine performed _ fun e mem => ?_
      obtain ⟨l, inMap, inList⟩ := List.mem_flatten.1 mem
      obtain ⟨p, listed, rfl⟩ := List.mem_map.1 inMap
      exact ⟨p, listed, mem_tlbiGone.1 inList⟩
    obtain ⟨pc, registers⟩ := maintenance_leaves (tlbiState_now (s := s) (x := x))
    refine ⟨_, tlbi_goes now kinds allowed named ready_ gone, pc, registers, fun clean a => ?_, fun key e => ?_⟩
    · rw [modNow_byte, State.byte, tlbiState_cells clean]
      rfl
    · rw [modNow_mem, tlbiState_tlbs]
      exact mem_tlbsAfter
  case illegal =>
    have passes : (((checkArgs .tlbi x).isNone || checkArgs .tlbi x == some 8) && decide (modeRank s.now.mode ≥ 1)) = true := by
      rcases checked with checked | checked <;> simpa [checked] using ranked
    rw [exec_tlbi, execTlbi, if_pos passes, kinds]
    rfl
  case denied =>
    rw [exec_tlbi, execTlbi, kinds, ite_self]
    exact if_pos (by simpa [checked, all] using guest)
  case iflush =>
    obtain ⟨pc, registers⟩ := maintenance_leaves (iflushState_now (s := s) (x := x))
    have cores := flushCores_all core scope (releaseTelling s scope .iflush)
    obtain ⟨-, -, -, released⟩ := issueSide_iff.1 (issueSide_releaseTelling s scope .iflush)
    refine ⟨_, iflush_goes now ready_, pc, registers, fun clean a => ?_, fun c inScope => (cores c).1 inScope, fun c outside => ?_⟩
    · rw [modNow_byte, State.byte, iflushState_mem clean]
      rfl
    · have same := (cores c).2 outside
      exact same ▸ released c

end Sys2Proof.Laws
end

section
/-! SUPPORT. Traps: their targets (R186), what entering a handler and returning from it leave (R187, R195), and the forms that take or end
one or stop their hart (R172, R198, R199). -/
namespace Sys2Proof.Laws

open Machine Safety

/-! ### Modes and the saved status -/

theorem modeRank_le_three (m : Mode) : modeRank m ≤ 3 := by cases m <;> decide

theorem modeOfRank_modeRank (m : Mode) : modeOfRank (modeRank m) = m := by cases m <;> rfl

theorem modeRank_modeOfRank {n : Nat} (rank : n < 4) : modeRank (modeOfRank n) = n := by
  match n, rank with
  | 0, _ | 1, _ | 2, _ | 3, _ => rfl

/-- The status that delivery writes names the mode of the trap in its low two bits. -/
theorem savedMode (v : Word) (m : Mode) : (BitVec.ofNat 64 (putBits v.toNat 0 2 (modeRank m))).toNat % 4 = modeRank m := by
  have rank := modeRank_le_three m
  rw [BitVec.toNat_ofNat, putBits, bits_zero]
  omega

/-! ### Targets (R186) -/

/-- The target of a mode's own traps. -/
def ownTarget : Mode → Target
  | .user => .team | .guest => .guest | .host => .host | .fw => .fw

theorem targetRank_ownTarget (m : Mode) : targetRank (ownTarget m) = modeRank m := by cases m <;> rfl

/-- The target that delegation alone gives a cause. -/
def delegatedTarget (t : Hart) (c : Nat) : Target :=
  if t.mode == .fw then .fw
  else if !(t.sup.hdeleg.getLsbD c) || c == 0x14 then .host
  else if !(t.sup.gdeleg.getLsbD c) || t.mode != .user || t.trap.tstatus.getLsbD 2 || !(t.trap.tvec.getLsbD 20) ||
      !teamDelegable c || bits t.trap.tvec.toNat 0 20 ≥ t.place.codeLen then .guest
  else .team

theorem trapTarget_eq (t : Hart) (c : Nat) :
    trapTarget t c = if targetRank (delegatedTarget t c) < modeRank t.mode then ownTarget t.mode else delegatedTarget t c := by
  unfold trapTarget delegatedTarget ownTarget
  cases t.mode <;> rfl

theorem trapTarget_of_delegated {t : Hart} {c : Nat} {g : Target} (gives : delegatedTarget t c = g) (high : modeRank t.mode ≤ targetRank g) :
    trapTarget t c = g := by
  rw [trapTarget_eq, gives, if_neg (by omega)]

theorem modeRank_le_trapTarget (t : Hart) (c : Nat) : modeRank t.mode ≤ targetRank (trapTarget t c) := by
  rw [trapTarget_eq]
  split
  · exact (targetRank_ownTarget t.mode).ge
  · omega

theorem delegatedTarget_fw {t : Hart} (c : Nat) (fw : t.mode = .fw) : delegatedTarget t c = .fw := by simp [delegatedTarget, fw]

theorem delegatedTarget_host {t : Hart} {c : Nat} (notFw : t.mode ≠ .fw) (kept : t.sup.hdeleg.getLsbD c = false ∨ c = 0x14) :
    delegatedTarget t c = .host := by
  simp [delegatedTarget, notFw, kept]

section
variable {t : Hart} {c : Nat}

theorem delegatedTarget_below (notFw : t.mode ≠ .fw) (given : t.sup.hdeleg.getLsbD c = true) (other : c ≠ 0x14) : delegatedTarget t c =
    if !(t.sup.gdeleg.getLsbD c) || t.mode != .user || t.trap.tstatus.getLsbD 2 || !(t.trap.tvec.getLsbD 20) ||
      !teamDelegable c || bits t.trap.tvec.toNat 0 20 ≥ t.place.codeLen then .guest else .team := by
  simp [delegatedTarget, notFw, given, other]

theorem delegatedTarget_guest (notFw : t.mode ≠ .fw) (given : t.sup.hdeleg.getLsbD c = true) (other : c ≠ 0x14)
    (kept : t.sup.gdeleg.getLsbD c = false ∨ t.mode ≠ .user ∨ t.trap.tstatus.getLsbD 2 = true ∨ t.trap.tvec.getLsbD 20 = false ∨
      teamDelegable c = false ∨ t.place.codeLen ≤ t.trap.tvec.toNat % 2 ^ 20) : delegatedTarget t c = .guest := by
  rw [delegatedTarget_below notFw given other, if_pos]
  simpa [bits_zero, or_assoc] using kept

theorem delegatedTarget_team (user : t.mode = .user) (given : t.sup.hdeleg.getLsbD c = true) (other : c ≠ 0x14)
    (passed : t.sup.gdeleg.getLsbD c = true) (outside : t.trap.tstatus.getLsbD 2 = false) (enabled : t.trap.tvec.getLsbD 20 = true)
    (team : teamDelegable c = true) (handler : t.trap.tvec.toNat % 2 ^ 20 < t.place.codeLen) : delegatedTarget t c = .team := by
  rw [delegatedTarget_below (by rw [user]; decide) given other, if_neg]
  have flag : t.trap.tstatus[2] = false := outside
  have below : t.trap.tvec.toNat % 1048576 < t.place.codeLen := handler
  simp [bits_zero, user, passed, flag, enabled, team, below]

end

/-! ### Delivery (R187) -/

/-- A hart whose trap registers report a cause and which has then entered a handler. -/
def enteredHart (t : Hart) (g : Target) (c taddr tinfo : Nat) (tmask : Mask) : Hart :=
  Hart.enter { t with trap := t.trap.report t.mode c t.pc taddr tinfo tmask } g c

/-- The handler of the target can be entered: no crew's trap goes above GUEST, and the handler of GUEST or HOST can be fetched. -/
def entersHandler (s : State) (h : Nat) : Target → Prop
  | .team => True
  | .guest => s.handlerOk h .guest (s.hart h).sup.gtvec = true
  | .host => s.crewed h = false ∧ s.handlerOk h .host (s.hart h).sup.htvec = true
  | .fw => s.crewed h = false

theorem setHart_modHart (s : State) (h : Nat) (t : Hart) (f : Hart → Hart) : (s.setHart h t).modHart h f = s.setHart h (f t) := by
  rw [State.modHart, hart_setHart, if_pos rfl, setHart_setHart]

section
variable {s : State} {h c : Nat} {g : Target}

theorem takeTrap_enters (target : trapTarget (s.hart h) c = g) (enters : entersHandler s h g) (taddr tinfo : Nat) (tmask : Mask) :
    s.takeTrap h c taddr tinfo tmask = s.setHart h (enteredHart (s.hart h) g c taddr tinfo tmask) := by
  rw [enteredHart, ← setHart_modHart s h _ (fun u => u.enter g c), State.takeTrap, target]
  cases g with
  | team => rfl
  | guest => exact if_pos enters
  | host =>
    obtain ⟨alone, fetches⟩ := enters
    exact (if_neg (by rw [alone]; decide)).trans (if_pos fetches)
  | fw => exact if_neg (by rw [show s.crewed h = false from enters]; decide)

theorem restartOf_eq (c : Nat) (pc : Word) : restartOf c pc = if c = 0x12 ∨ c = 0x11 then pc + 12 else pc := by
  simp [restartOf, or_comm]

/-- The report of a delivered trap in the trap registers. -/
theorem enteredHart_reports (t : Hart) (g : Target) (c taddr tinfo : Nat) (tmask : Mask) :
    let r := (enteredHart t g c taddr tinfo tmask).trap
    r.tcause = BitVec.ofNat 8 c ∧ r.tpc = t.pc ∧ r.taddr = BitVec.ofNat 64 taddr ∧ r.tinfo = BitVec.ofNat 64 tinfo ∧
      r.tmask = tmask ∧ r.tvec = t.trap.tvec := by
  cases g <;> exact ⟨rfl, rfl, rfl, rfl, rfl, rfl⟩

/-- Entering a handler leaves the registers, the split stack, the store buffer and the floating-point mode. -/
theorem enteredHart_keeps (t : Hart) (g : Target) (c taddr tinfo : Nat) (tmask : Mask) :
    let u := enteredHart t g c taddr tinfo tmask
    u.exec = t.exec ∧ u.live = t.live ∧ u.k = t.k ∧ u.s = t.s ∧ u.v = t.v ∧ u.stack = t.stack ∧ u.sb = t.sb ∧
      u.fpm = t.fpm ∧ u.fflags = t.fflags := by
  cases g <;> exact ⟨rfl, rfl, rfl, rfl, rfl, rfl, rfl, rfl, rfl⟩

/-- A trap whose handler can be entered leaves every other hart and the memory. -/
theorem takeTrap_leaves (target : trapTarget (s.hart h) c = g) (enters : entersHandler s h g) (taddr tinfo : Nat) (tmask : Mask) :
    (∀ j, j ≠ h → (s.takeTrap h c taddr tinfo tmask).hart j = s.hart j) ∧ memoryKept s (s.takeTrap h c taddr tinfo tmask) := by
  rw [takeTrap_enters target enters]
  exact ⟨fun j other => by rw [hart_setHart, if_neg (Ne.symm other)], fun a => rfl⟩

theorem takeTrap_hart (target : trapTarget (s.hart h) c = g) (enters : entersHandler s h g) (taddr tinfo : Nat) (tmask : Mask) :
    (s.takeTrap h c taddr tinfo tmask).hart h = enteredHart (s.hart h) g c taddr tinfo tmask := by
  rw [takeTrap_enters target enters, hart_setHart, if_pos rfl]

end

/-! ### Return (R195) -/

theorem returnTo_mode {t : Hart} {m : Mode} (saved : t.trap.tstatus.toNat % 4 = modeRank m) : t.returnTo.mode = m := by
  have rank : bits t.trap.tstatus.toNat 0 2 = modeRank m := (bits_zero ..).trans saved
  exact (congrArg modeOfRank rank).trans (modeOfRank_modeRank m)

theorem modeRank_returnTo (t : Hart) : modeRank t.returnTo.mode = t.trap.tstatus.toNat % 4 := by
  simp only [Hart.returnTo, bits_zero]
  exact modeRank_modeOfRank (Nat.mod_lt _ (by decide))

/-- Where a hart goes on after the handler of its mode. -/
theorem returnTo_pc (t : Hart) : (t.mode = .guest → t.returnTo.pc = t.sup.gepc) ∧ (t.mode = .host → t.returnTo.pc = t.sup.hepc) ∧
    (t.mode = .fw → t.returnTo.pc = if t.trap.tcause = 0x11 ∨ t.trap.tcause = 0x12 then t.trap.tpc + 12 else t.trap.tpc) := by
  refine ⟨fun m => by simp [Hart.returnTo, m], fun m => by simp [Hart.returnTo, m], fun m => ?_⟩
  simp [Hart.returnTo, m, restartOf, BitVec.toNat_eq]

section
variable {x : Args} {s : State}

theorem tret_effect (now : ready .tret x s = true) : exec (.tret x) s =
    if modeRank s.now.mode < s.now.trap.tstatus.toNat % 4 then .next (s.unwait.takeTrap s.cur 1 0 (hostDie s.cur + 0xA * 16) 0)
    else .next (s.unwait.modNow Hart.returnTo) := by
  rw [exec_tret, execTret, issue_of_ready _ now, unwait_mode, unwait_trap, bits_zero]
  rfl

/-! ### Forms that stop their hart (R199) -/

/-- A hart past its instruction, with a change of its issue state. -/
def pausedWith (f : Sched → Sched) (t : Hart) : Hart := { t.advance with sched := f t.advance.sched }

theorem paused_leaves (s : State) (f : Sched → Sched) :
    let t := s.unwait.modNow (pausedWith f)
    onlyRunning s t ∧ t.now.pc = s.now.pc + 12 ∧ t.now.sched = f s.unwait.now.sched ∧ onlyRegisters s.now t.now ∧
      scalarsKept s.now t.now ∧ vectorsKept s.now t.now ∧ predicatesKept s.now t.now ∧ t.now.fflags = s.now.fflags := by
  obtain ⟨running, only⟩ := movedOn_modNow (f := pausedWith f) (movedOn_unwait s) rfl
  obtain ⟨registers, flags, vectors, predicates⟩ := scalarsOnly_kept only
  refine ⟨running, ?_, ?_, registers, fun r => ?_, vectors, predicates, flags⟩ <;> rw [modNow_now]
  · exact congrArg (· + 12) (unwait_pc s)
  · rfl
  · exact unwait_getS s r

theorem halt_effect (now : ready .halt x s = true) :
    exec (.halt x) s = .next (s.unwait.modNow (pausedWith (fun q => { q with halted := true }))) := by
  rw [exec_halt, execHalt, issue_of_ready _ now]
  rfl

/-- What is pending for a thread does not depend on whether it waits for it. -/
theorem pending_paused {f : Sched → Sched} (alive : ∀ q, (f q).inReset = q.inReset ∧ (f q).exited = q.exited ∧ (f q).stopped = q.stopped) :
    let t := s.unwait.modNow (pausedWith f)
    t.notePending s.cur = s.notePending s.cur ∧ t.eventPending s.cur = s.eventPending s.cur := by
  obtain ⟨reset, exited, stopped⟩ := alive s.unwait.now.sched
  have hart : (s.unwait.modNow (pausedWith f)).hart s.cur = pausedWith f s.unwait.now := modNow_now ..
  have guest : (pausedWith f s.unwait.now).guest = s.now.guest := unwait_guest s
  have memory : ∀ a n, (s.unwait.modNow (pausedWith f)).natAt a n = s.natAt a n := fun _ _ => rfl
  have sched : (pausedWith f s.unwait.now).sched = f s.unwait.now.sched := rfl
  have waits : s.unwait.now.sched.inReset = s.now.sched.inReset ∧ s.unwait.now.sched.exited = s.now.sched.exited ∧
      s.unwait.now.sched.stopped = s.now.sched.stopped := by simp [State.unwait]
  obtain ⟨reset', exited', stopped'⟩ := waits
  constructor
  · simp only [State.notePending, hart, guest, memory, sched, reset, exited, stopped, reset', exited', stopped']
    rfl
  · simp only [State.eventPending, hart, sched, reset, exited, stopped, reset', exited', stopped']
    rfl

theorem takeDue_none {t : State} {h : Nat} (note : t.notePending h = none) (event : t.eventPending h = none) : t.takeDue h = t := by
  simp [State.takeDue, State.noteDue, State.eventDue, note, event]

theorem wfi_waits (now : ready .wfi x s = true) (note : s.notePending s.cur = none) (event : s.eventPending s.cur = none) :
    exec (.wfi x) s = .next (s.unwait.modNow (pausedWith (fun q => { q with wfi := true }))) := by
  obtain ⟨noNote, noEvent⟩ := pending_paused (s := s) (f := fun q => { q with wfi := true }) (fun _ => ⟨rfl, rfl, rfl⟩)
  have stays := takeDue_none (noNote.trans note) (noEvent.trans event)
  rw [exec_wfi, execWfi, issue_of_ready _ now]
  exact congrArg _ ((congrArg (ite _ _) stays).trans (ite_self _))

end

end Sys2Proof.Laws
end

section
/-! OBLIGATIONS O18, O19, O20, O21 and O23. Traps, and the forms that take or end one or stop their hart. -/
namespace Sys2Proof.Laws

open Machine Safety

/-- Settles O18, by the target that delegation alone gives a cause and the rank below which none goes. -/
theorem trapRouting : Obligations.TrapRouting := by
  intro t c
  refine ⟨modeRank_le_trapTarget t c, fun fw => trapTarget_of_delegated (delegatedTarget_fw c fw) (modeRank_le_three _),
    fun notFw kept => trapTarget_of_delegated (delegatedTarget_host notFw kept) ?_,
    fun notFw given other notHost kept => trapTarget_of_delegated (delegatedTarget_guest notFw given other kept) ?_,
    fun user given other passed outside enabled team handler =>
      trapTarget_of_delegated (delegatedTarget_team user given other passed outside enabled team handler) ?_⟩
  · revert notFw; cases t.mode <;> decide
  · revert notFw notHost; cases t.mode <;> decide
  · rw [user]; decide

/-- Settles O19: where the handler of the target can be entered, delivery rewrites the hart alone. -/
theorem trapDelivery : Obligations.TrapDelivery := by
  intro s h c taddr tinfo tmask t u restart saved reports kept
  have delivered : ∀ g, trapTarget t c = g → entersHandler s h g → reports ∧ kept ∧ u = enteredHart t g c taddr tinfo tmask := by
    intro g target enters
    have hart : u = enteredHart t g c taddr tinfo tmask := takeTrap_hart target enters taddr tinfo tmask
    obtain ⟨exec, live, k, s', v, stack, sb, fpm, flags⟩ := enteredHart_keeps t g c taddr tinfo tmask
    have leaves := takeTrap_leaves target enters taddr tinfo tmask
    refine ⟨?_, ?_, hart⟩
    · have written := enteredHart_reports t g c taddr tinfo tmask
      rwa [← hart] at written
    · rw [← hart] at exec live k s' v stack sb fpm flags
      exact ⟨exec, live, k, s', v, stack, sb, fpm, flags, leaves⟩
  have back : restartOf c t.pc = restart := restartOf_eq c t.pc
  refine ⟨fun target => ?_, fun target fetches => ?_, fun target alone fetches => ?_, fun target alone => ?_⟩
  · obtain ⟨written, left, hart⟩ := delivered .team target trivial
    refine ⟨written, left, ?_⟩
    rw [hart]
    exact ⟨rfl, rfl, rfl, by simp only [enteredHart, Hart.enter, TrapRegs.report, bits_zero]⟩
  · obtain ⟨written, left, hart⟩ := delivered .guest target fetches
    refine ⟨written, left, ?_⟩
    rw [hart, ← back]
    exact ⟨rfl, rfl, rfl, rfl⟩
  · obtain ⟨written, left, hart⟩ := delivered .host target ⟨alone, fetches⟩
    refine ⟨written, left, ?_⟩
    rw [hart, ← back]
    exact ⟨rfl, rfl, rfl, rfl⟩
  · obtain ⟨written, left, hart⟩ := delivered .fw target alone
    refine ⟨written, left, ?_⟩
    rw [hart]
    exact ⟨rfl, rfl, rfl, rfl⟩

/-- Settles O20: a ready BRK or TRAP raises its cause with its code. -/
theorem systemCalls : Obligations.SystemCalls := by
  intro x s code
  refine ⟨fun now => ?_, fun now => ?_⟩
  · rw [exec_brk, execBrk, issue_of_ready _ now]
    rfl
  · rw [exec_trap, execTrap, issue_of_ready _ now]
    rfl

/-- Settles O21: TRET returns unless the saved mode ranks above; after a delivery to GUEST the return undoes the change of pc and mode. -/
theorem trapReturn : Obligations.TrapReturn := by
  refine ⟨fun x s now => ⟨fun above => ?_, fun within => ?_⟩, ?_⟩
  · rw [tret_effect now, if_pos above]
  · refine ⟨s.unwait.modNow Hart.returnTo, by rw [tret_effect now, if_neg (by omega)], onlyRunning_unwait s _, ?_⟩
    have saved := modeRank_returnTo s.unwait.now
    obtain ⟨guest, host, fw⟩ := returnTo_pc s.unwait.now
    rw [modNow_now]
    rw [unwait_trap] at saved
    rw [unwait_mode, unwait_sup] at guest host
    rw [unwait_mode, unwait_trap] at fw
    exact ⟨by rw [unwait_now]; rfl, saved, guest, host, fw⟩
  · intro s h c taddr tinfo tmask t target fetches u
    have entered : (s.takeTrap h c taddr tinfo tmask).hart h = enteredHart t .guest c taddr tinfo tmask :=
      takeTrap_hart target fetches taddr tinfo tmask
    have saved : (enteredHart t .guest c taddr tinfo tmask).trap.tstatus.toNat % 4 = modeRank t.mode := savedMode t.trap.tstatus t.mode
    have returned : u = (enteredHart t .guest c taddr tinfo tmask).returnTo := congrArg Hart.returnTo entered
    rw [returned]
    exact ⟨restartOf_eq c t.pc, returnTo_mode saved, saved, rfl, rfl, rfl, rfl⟩

/-- Settles O23: both forms only move the pc on and change the issue state, where no event is pending for WFI to take. -/
theorem haltAndWait : Obligations.HaltAndWait := by
  intro x s
  refine ⟨fun now => ?_, fun now note event => ?_⟩
  · obtain ⟨running, pc, sched, kept⟩ := paused_leaves s (fun q => { q with halted := true })
    exact ⟨_, halt_effect now, running, pc, by rw [sched], kept⟩
  · obtain ⟨running, pc, sched, kept⟩ := paused_leaves s (fun q => { q with wfi := true })
    exact ⟨_, wfi_waits now note event, running, pc, by rw [sched], kept⟩

end Sys2Proof.Laws
end

section
/-! SUPPORT. PIN, UNPIN, HINT, MIGR and OWNR: what they share, and what each does at a page that its address reaches (R413 to R416, R429,
R430, R517). -/
namespace Sys2Proof.Laws

open Machine Safety

/-! ### The running team -/

/-- A hart without its issue state and what it counts of prefetches. -/
def stillHart (t : Hart) : Hart := { t with sched := .init, prefetch := [], fetched := [] }

/-- The hart that runs is the same, and of it only the issue state and what it counts of prefetches may differ. -/
def teamKept (s u : State) : Prop := u.cur = s.cur ∧ stillHart u.now = stillHart s.now

theorem teamKept_rfl (s : State) : teamKept s s := ⟨rfl, rfl⟩

theorem teamKept_trans {s u v : State} (first : teamKept s u) (second : teamKept u v) : teamKept s v :=
  ⟨second.1.trans first.1, second.2.trans first.2⟩

theorem teamKept_of_seats {s u : State} (same : seats u = seats s) : teamKept s u :=
  ⟨(seats_iff.1 same).1, congrArg stillHart (now_of_seats same)⟩

theorem teamKept_of_coreSide {s u : State} (same : coreSide u = coreSide s) : teamKept s u :=
  teamKept_of_seats (seats_of_coreSide same)

theorem teamKept_of_issueSide {s u : State} (same : issueSide u = issueSide s) : teamKept s u :=
  ⟨(issueSide_iff.1 same).1, (congrArg (fun t => { t with sched := .init }) (now_of_issueSide same) :)⟩

theorem teamKept_modNow (s : State) {f : Hart → Hart} (kept : ∀ t, stillHart (f t) = stillHart t) : teamKept s (s.modNow f) :=
  ⟨rfl, (congrArg stillHart (modNow_now s f)).trans (kept _)⟩

theorem teamKept_unwait (s : State) : teamKept s s.unwait := teamKept_modNow s (fun _ => rfl)

section
variable {s u : State} (kept : teamKept s u)
include kept

theorem teamKept_pc : u.now.pc = s.now.pc := (congrArg Hart.pc kept.2 :)
theorem teamKept_guest : u.now.guest = s.now.guest := (congrArg Hart.guest kept.2 :)
theorem teamKept_registers : registersKept s.now u.now :=
  ⟨fun r => (congrArg (fun t => t.getS r) kept.2 :), fun r l => (congrArg (fun t => t.getV r l) kept.2 :),
    fun r => (congrArg (fun t => t.getK r) kept.2 :), (congrArg Hart.fflags kept.2 :)⟩

end

/-! ### Reports and waits -/

/-- An outcome completes with a report in D; of the rest of the machine it leaves what `st` has. -/
def givesReport (o : Out) (s st : State) (d : Operand) (count status : Nat) : Prop :=
  ∃ u : State, o = .next u ∧ u.now.pc = s.now.pc + 12 ∧ vectorsKept s.now u.now ∧ predicatesKept s.now u.now ∧
    u.now.fflags = s.now.fflags ∧ u.mem = st.mem ∧ u.hub = st.hub ∧ u.run = st.run ∧ u.cores = st.cores ∧ u.pkg = st.pkg ∧
    u.outbox = st.outbox ∧
    ∀ r, u.now.getS r = if kindOf d = .s ∧ r = regOf d ∧ r ≠ 0 then ⟨.full, BitVec.ofNat 64 (count + status * 2 ^ 8)⟩ else s.now.getS r

/-- An outcome waits at issue with the mark `hold`; of the rest of the machine it leaves what `st` has. -/
def waitsWith (o : Out) (s st : State) (hold : Option Nat) : Prop :=
  ∃ u : State, o = .next u ∧ u.now.pc = s.now.pc ∧ registersKept s.now u.now ∧ u.now.sched.hold = hold ∧ u.mem = st.mem ∧
    u.hub = st.hub ∧ u.outbox = st.outbox

/-- The mark of a wait for the ownership of a page. -/
def holding (v : Option Nat) (st : State) : State := st.modNow (fun t => { t with sched := { t.sched with hold := v } })

theorem teamKept_holding {s st : State} (kept : teamKept s st) (v : Option Nat) : teamKept s (holding v st) :=
  teamKept_trans kept (teamKept_modNow st (fun _ => rfl))

section
variable {s st : State} (kept : teamKept s st)
include kept

theorem report_gives (d : Operand) (count status : Nat) : givesReport (st.report d count status) s st d count status := by
  obtain ⟨scalars, vectors, predicates, flags⟩ := teamKept_registers kept
  let reported := fun t : Hart => (withScalar t d (BitVec.ofNat 64 (count + status * 2 ^ 8))).advance
  have effect : st.report d count status = .next (st.modNow reported) := congrArg Host.Outcome.next (modNow_modNow ..)
  have hart : (st.modNow reported).now = reported st.now := modNow_now ..
  have general : generalOnly st.now (withScalar st.now d (BitVec.ofNat 64 (count + status * 2 ^ 8))) :=
    generalOnly_withScalar d _ (generalOnly_rfl _)
  refine ⟨_, effect, ?_, fun r l => ?_, fun r => ?_, ?_, modNow_mem .., modNow_hub .., modNow_run .., modNow_cores .., modNow_pkg ..,
    modNow_outbox .., fun r => ?_⟩ <;> rw [hart]
  · rw [← teamKept_pc kept]
    exact congrArg (· + 12) (generalOnly_pc general)
  · exact (getV_withScalar ..).trans (vectors r l)
  · exact (getK_withScalar ..).trans (predicates r)
  · exact (generalOnly_fflags general).trans flags
  · rw [← scalars r]
    exact getS_withScalar ..

theorem report_holding_gives (v : Option Nat) (d : Operand) (count status : Nat) :
    givesReport ((holding v st).report d count status) s st d count status := report_gives (teamKept_holding kept v) d count status

theorem block_waits : waitsWith (st.block .form) s st st.now.sched.hold := by
  have still : teamKept st _ := teamKept_modNow st (f := fun t => { t with sched := { t.sched with wait := .form, waitTick := st.tick } })
    (fun _ => rfl)
  have same := teamKept_trans kept still
  exact ⟨_, rfl, teamKept_pc same, teamKept_registers same, by rw [modNow_now], rfl, rfl, rfl⟩

theorem block_holding_waits (v : Option Nat) : waitsWith ((holding v st).block .form) s st v := by
  have waits := block_waits (teamKept_holding kept v)
  rwa [show (holding v st).now.sched.hold = v by rw [holding, modNow_now]] at waits

end

/-! ### What the forms share -/

theorem ownAll_single_kept {s u : State} {page va lane : Nat} (goes : s.ownAll [(page, va, lane)] = (none, u)) : teamKept s u := by
  simp only [State.ownAll, List.foldl_cons, List.foldl_nil] at goes
  have kept := coreSide_ownFor s s.now.sched.hold page
  split at goes <;> rename_i answer
  · rw [answer] at kept
    obtain ⟨-, rfl⟩ := Prod.mk.inj goes
    split
    · exact teamKept_holding (teamKept_of_coreSide kept) none
    · exact teamKept_of_coreSide kept
  all_goals cases goes

theorem gainPage_kept {s u : State} {t : Trans} {pa va : Nat} (goes : s.gainPage t pa va = (none, u)) : teamKept s u := by
  unfold State.gainPage at goes
  split at goes
  · exact ownAll_single_kept goes
  · obtain ⟨-, rfl⟩ := Prod.mk.inj goes
    exact teamKept_rfl s

theorem rejected_cur {s t : State} {pa a g : Nat} {fw : Bool} (rejects : s.rejected pa a g fw = some t) : t.cur = s.cur := by
  have kept : ∀ h line u, (s.logPartition h line a g u).cur = s.cur := fun h line u =>
    (coreSide_iff.1 (coreSide_logPartition s h line a g u)).1
  unfold State.rejected at rejects
  split at rejects
  · cases rejects
  · split at rejects
    · split at rejects
      · cases rejects
        exact kept ..
      · cases rejects
    · cases rejects

/-- The page that an access reaches, once the form that runs has gained it. -/
structure Reached (s : State) (o : Op) (x : Args) (write : Bool) (deny : Trans → Option Nat) (t : Trans) (pa : Nat) (st : State) : Prop where
  translated : ∃ s2, s.translate (s.xctx s.cur) (s.addrOf o { x with b := .none } 1 0) .load write = (.ok t pa, s2) ∧
    (if o == .pin then s2.gainPage t pa (s.addrOf o { x with b := .none } 1 0) else (none, s2)) = (none, st)
  allowed : deny t = none

section
variable {s st : State} {o : Op} {x : Args} {write : Bool} {deny : Trans → Option Nat} {t : Trans} {pa : Nat}

theorem Reached.kept (reached : Reached s o x write deny t pa st) : teamKept s st := by
  obtain ⟨⟨s2, translates, gains⟩, -⟩ := reached
  have first : teamKept s s2 := by
    have kept := seats_translate s (s.xctx s.cur) (s.addrOf o { x with b := .none } 1 0) .load write
    rw [translates] at kept
    exact teamKept_of_seats kept
  split at gains
  · exact teamKept_trans first (gainPage_kept gains)
  · obtain ⟨-, rfl⟩ := Prod.mk.inj gains
    exact first

theorem placed1_reached (reached : Reached s o x write deny t pa st) (f : Trans → Nat → Nat → State → Out) :
    s.placed1 o x write deny f =
      match (if o == .migr then none else st.rejected pa (agentOf (coreOf st.cur)) st.now.guest (st.now.mode == .fw)) with
      | some s3 => s3.raise 0x14 (s.addrOf o { x with b := .none } 1 0) 0 1
      | none => f t pa (s.addrOf o { x with b := .none } 1 0) st := by
  obtain ⟨⟨s2, translates, gains⟩, allowed⟩ := reached
  simp only [State.placed1, translates, allowed, gains] <;> rfl

/-- How the home of a page answers a placement form. -/
def homeTakes (cur : Nat) (st : State) (pa : Nat) : Option State :=
  st.rejected pa (agentOf (coreOf cur)) st.now.guest (st.now.mode == .fw)

theorem placed1_taken (reached : Reached s o x write deny t pa st) (takes : homeTakes s.cur st pa = none)
    (f : Trans → Nat → Nat → State → Out) : s.placed1 o x write deny f = f t pa (s.addrOf o { x with b := .none } 1 0) st := by
  rw [placed1_reached reached, reached.kept.1, show st.rejected .. = none from takes, ite_self]

theorem placed1_rejects (reached : Reached s o x write deny t pa st) (asks : (o == .migr) = false) {st1 : State}
    (takes : homeTakes s.cur st pa = some st1) (f : Trans → Nat → Nat → State → Out) :
    s.placed1 o x write deny f = .next (st1.takeTrap s.cur 0x14 (s.addrOf o { x with b := .none } 1 0) 0 1) := by
  have cur : st1.cur = s.cur := (rejected_cur takes).trans reached.kept.1
  rw [placed1_reached reached, asks, reached.kept.1, show st.rejected .. = some st1 from takes]
  exact congrArg (fun h => Host.Outcome.next (st1.takeTrap h 0x14 _ 0 1)) cur

theorem placed1_queued (reached : Reached s .migr x write deny t pa st) (f : Trans → Nat → Nat → State → Out) :
    s.placed1 .migr x write deny f = f t pa (s.addrOf .migr { x with b := .none } 1 0) st := by
  rw [placed1_reached reached]
  rfl

end

/-! ### PIN and UNPIN (R413, R414) -/

/-- The frame whose placement record stands for an address. -/
def recordOf (st : State) (pa : Nat) : Nat := (st.pageOf (st.recFrame (pa / 4096))).1

/-- The pages that PIN, UNPIN and HINT take: MIGRATABLE and KEEPING ones at a home. -/
def pinnable (t : Trans) (pa : Nat) : Prop := (t.pcls = 0 ∨ t.pcls = 3) ∧ selector pa < 14

theorem pinnable_iff {t : Trans} {pa : Nat} :
    ¬ pinnable t pa ↔ (!(t.pcls == 0 || t.pcls == 3) || decide (selector pa ≥ 14)) = true := by
  simp [pinnable, or_iff_not_imp_left]

/-- A record whose count of pins a form of a guest has set. -/
def pinned (st : State) (f n guest : Nat) : State := st.modFrame f (fun q => { q with pin := n, pguest := guest })

/-- A change of a record by what stands in it. -/
theorem modFrame_at (st : State) (f : Nat) {g h : FrameRec → FrameRec} (same : g (st.frame f) = h (st.frame f)) :
    st.modFrame f g = st.modFrame f h := by
  unfold State.modFrame
  have same' : g (sget FrameRec.zero st.mem.frames f) = h (sget FrameRec.zero st.mem.frames f) := same
  simp only [State.modMem, same']

theorem teamKept_modFrame {s st : State} (kept : teamKept s st) (f : Nat) (g : FrameRec → FrameRec) : teamKept s (st.modFrame f g) :=
  teamKept_trans kept (teamKept_of_coreSide (coreSide_modFrame ..))

theorem teamKept_waitPinned {s st : State} (kept : teamKept s st) (page : Nat) : teamKept s (st.waitPinned page) := by
  refine teamKept_trans kept (teamKept_of_coreSide ?_)
  simp only [State.waitPinned, apply_ite coreSide, coreSide_modHub]
  refine (congrArg (ite _ _) (foldl_coreSide (fun st r => ?_) _ _)).trans (ite_self _)
  exact (coreSide_notify ..).trans (coreSide_send ..)

section
variable {x : Args} {s s2 s3 : State} {t : Trans} {pa : Nat}

theorem pin_rejects (now : ready .pin x s = true) (reached : Reached s.unwait .pin x false s.unwait.pinDenied t pa s3) {st1 : State}
    (takes : homeTakes s.cur s3 pa = some st1) :
    exec (.pin x) s = .next (st1.takeTrap s.cur 0x14 (s.unwait.addrOf .pin { x with b := .none } 1 0) 0 1) := by
  rw [exec_pin, execPin, pinForm, issue_of_ready _ now]
  exact placed1_rejects reached rfl takes _

theorem unpin_rejects (now : ready .unpin x s = true) (reached : Reached s.unwait .unpin x false s.unwait.pinDenied t pa s2) {st1 : State}
    (takes : homeTakes s.cur s2 pa = some st1) :
    exec (.unpin x) s = .next (st1.takeTrap s.cur 0x14 (s.unwait.addrOf .unpin { x with b := .none } 1 0) 0 1) := by
  rw [exec_unpin, execUnpin, pinForm, issue_of_ready _ now]
  exact placed1_rejects reached rfl takes _

theorem pin_gives (now : ready .pin x s = true) (reached : Reached s.unwait .pin x false s.unwait.pinDenied t pa s3)
    (takes : homeTakes s.cur s3 pa = none) :
    let r := s3.frame (recordOf s3 pa)
    let counted := pinned s3 (recordOf s3 pa) (r.pin + 1) s.now.guest
    (¬ pinnable t pa → givesReport (exec (.pin x) s) s s3 x.d r.pin 1) ∧
    (pinnable t pa → r.mstate = 0 → r.pin < 255 → givesReport (exec (.pin x) s) s
      (if t.pooled pa = true then counted.waitPinned (poolPage pa) else counted) x.d (r.pin + 1) 0) ∧
    (pinnable t pa → r.mstate = 0 → 255 ≤ r.pin → givesReport (exec (.pin x) s) s s3 x.d r.pin 2) := by
  intro r counted
  have kept : teamKept s s3 := teamKept_trans (teamKept_unwait s) reached.kept
  have effect := placed1_taken reached takes
  rw [exec_pin, execPin, pinForm, issue_of_ready _ now, effect]
  refine ⟨fun other => ?_, fun page still few => ?_, fun page still many => ?_⟩
  · rw [if_pos (pinnable_iff.1 other)]
    exact report_gives kept ..
  · rw [if_neg (fun other => pinnable_iff.2 other page), if_pos (show (Op.pin == .pin) = true from rfl)]
    change givesReport (if (r.mstate == 2 || r.mstate == 1) = true then _ else if r.mstate ≥ 3 then _ else if r.pin ≥ 255 then _ else _) ..
    rw [still, if_neg (by decide), if_neg (by decide), if_neg (by omega), teamKept_guest kept,
      modFrame_at s3 _ (h := fun q => { q with pin := r.pin + 1, pguest := s.now.guest }) rfl]
    refine report_gives ?_ ..
    split
    · exact teamKept_waitPinned (teamKept_modFrame kept ..) _
    · exact teamKept_modFrame kept ..
  · rw [if_neg (fun other => pinnable_iff.2 other page), if_pos (show (Op.pin == .pin) = true from rfl)]
    change givesReport (if (r.mstate == 2 || r.mstate == 1) = true then _ else if r.mstate ≥ 3 then _ else if r.pin ≥ 255 then _ else _) ..
    rw [still, if_neg (by decide), if_neg (by decide), if_pos (by omega)]
    exact report_gives kept ..

theorem unpin_gives (now : ready .unpin x s = true) (reached : Reached s.unwait .unpin x false s.unwait.pinDenied t pa s2)
    (takes : homeTakes s.cur s2 pa = none) :
    let r := s2.frame (recordOf s2 pa)
    (¬ pinnable t pa → givesReport (exec (.unpin x) s) s s2 x.d r.pin 1) ∧
    (pinnable t pa → r.pin ≠ 0 → givesReport (exec (.unpin x) s) s
      (pinned s2 (recordOf s2 pa) (r.pin - 1) s.now.guest) x.d (r.pin - 1) 0) ∧
    (pinnable t pa → r.pin = 0 → givesReport (exec (.unpin x) s) s s2 x.d 0 3) := by
  intro r
  have kept : teamKept s s2 := teamKept_trans (teamKept_unwait s) reached.kept
  rw [exec_unpin, execUnpin, pinForm, issue_of_ready _ now, placed1_taken reached takes]
  refine ⟨fun other => ?_, fun page some_ => ?_, fun page none_ => ?_⟩
  · rw [if_pos (pinnable_iff.1 other)]
    exact report_gives kept ..
  · rw [if_neg (fun other => pinnable_iff.2 other page), if_neg (by decide),
      if_neg (by rwa [beq_iff_eq]), teamKept_guest kept,
      modFrame_at s2 _ (h := fun q => { q with pin := r.pin - 1, pguest := s.now.guest }) rfl]
    exact report_gives (teamKept_modFrame kept ..) ..
  · rw [if_neg (fun other => pinnable_iff.2 other page), if_neg (by decide)]
    change givesReport (if (r.pin == 0) = true then _ else _) ..
    rw [if_pos (beq_iff_eq.2 none_)]
    exact report_gives kept ..

theorem pin_denied {n : Nat} (lacks : s.unwait.pinDenied t = some n) {o : Op} {i : Instr} (effect : exec i s = pinForm o x s)
    (now : ready o x s = true) (translates : s.unwait.translate (s.unwait.xctx s.cur)
      (s.unwait.addrOf o { x with b := .none } 1 0) .load false = (.ok t pa, s2)) :
    exec i s = .next (s2.takeTrap s.cur 6 (s.unwait.addrOf o { x with b := .none } 1 0) (1 + 16 * n) 1) := by
  have cur : s2.cur = s.cur := by
    have kept := seats_translate s.unwait (s.unwait.xctx s.cur) (s.unwait.addrOf o { x with b := .none } 1 0) .load false
    rw [translates] at kept
    exact (seats_iff.1 kept).1
  rw [effect, pinForm, issue_of_ready _ now]
  simp only [State.placed1, unwait_cur, translates, lacks]
  exact congrArg (fun h => Host.Outcome.next (s2.takeTrap h 6 _ _ 1)) cur

/-! ### HINT (R415) and MIGR (R416) -/

theorem hint_writes (now : ready .hint x s = true)
    (translates : s.unwait.translate (s.unwait.xctx s.cur) (s.unwait.addrOf .hint x 1 0) .load false = (.ok t pa, s2))
    (home : selector pa < 14) :
    ∃ u : State, exec (.hint x) s = .next u ∧ u.now.pc = s.now.pc + 12 ∧ registersKept s.now u.now ∧
      u.frame (recordOf s2 pa) = { s2.frame (recordOf s2 pa) with hintv := x.sub.toNat + 1 } ∧
      (∀ g, g ≠ recordOf s2 pa → u.frame g = s2.frame g) ∧ u.mem.cells = s2.mem.cells := by
  have seated := seats_translate s.unwait (s.unwait.xctx s.cur) (s.unwait.addrOf .hint x 1 0) .load false
  rw [translates] at seated
  have kept : teamKept s (s2.modFrame (recordOf s2 pa) (fun r => { r with hintv := x.sub.toNat + 1 })) :=
    teamKept_modFrame (teamKept_trans (teamKept_unwait s) (teamKept_of_seats seated)) ..
  refine ⟨(s2.modFrame (recordOf s2 pa) (fun r => { r with hintv := x.sub.toNat + 1 })).modNow Hart.advance, ?_, ?_, ?_, ?_, fun g other => ?_, rfl⟩
  · rw [exec_hint, execHint, precheck_of_ready now]
    simp only [hintForm, issue_of_ready _ now, unwait_cur, translates]
    rw [if_neg (by omega)]
    rfl
  · rw [modNow_now, advance_pc, teamKept_pc kept]
  · rw [modNow_now]
    exact teamKept_registers kept
  · exact (sget_sset ..).trans (if_pos rfl)
  · exact (sget_sset ..).trans (if_neg (Ne.symm other))

theorem getS_awaitFuture (u : Hart) (d : Operand) (h : Word) (r : Nat) :
    (u.awaitFuture d h).getS r = if futureReg d = some r then ⟨.future, h⟩ else u.getS r := by
  unfold Hart.awaitFuture futureReg
  by_cases isS : (kindOf d == .s && regOf d != 0) = true
  · rw [if_pos isS, getS_putS]
    simp only [Bool.and_eq_true, bne_iff_ne] at isS
    by_cases same : regOf d = r
    · subst same
      rw [if_pos ⟨rfl, isS.2⟩, if_pos rfl]
    · rw [if_neg (fun both => same both.1), if_neg (fun eq => same (Option.some.inj eq))]
  · rw [if_neg isS, if_neg (by simp)]

theorem generalOnly_awaitFuture (u : Hart) (d : Operand) (h : Word) : generalOnly u (u.awaitFuture d h) := by
  unfold Hart.awaitFuture
  split
  · exact generalOnly_putS _ _ (generalOnly_rfl u)
  · exact generalOnly_rfl u

theorem awaitFuture_keeps (u : Hart) (d : Operand) (h : Word) : vectorsKept u (u.awaitFuture d h) ∧ predicatesKept u (u.awaitFuture d h) := by
  unfold Hart.awaitFuture
  split
  · exact ⟨fun r l => getV_putS .., fun r => getK_putS ..⟩
  · exact ⟨fun r l => rfl, fun r => rfl⟩

/-- The fields of a MOVE of the page of an address, as MIGR writes them (R416, R417). -/
def moveFields (tier b guest : Nat) (t : Trans) (pa : Nat) : Nat :=
  tier * 16 + b2n (bit b 1) * 64 + b2n (bit b 1 && bit b 0) * 128 + guest * 2 ^ 8 +
    (if t.pcls = 2 then pa / 4096 else pa / t.gsize * (t.gsize / 4096)) * 2 ^ 64

/-- The command that MIGR queues: numbered, with the register that waits for it and the clock of its issue. -/
def moveCommand (s s2 : State) (x : Args) (t : Trans) (pa : Nat) : MigCmd :=
  let cmd := moveFields x.sub.toNat (if x.b = .none then 0 else s2.scalar x.b) s2.now.guest t pa
  let numbered := s2.migNumber cmd s2.now.guest
  ⟨cmd, numbered.1, some s2.cur, futureReg x.d, t.taff1, none, none, (s.core (coreOf s.cur)).lamport.toNat, numbered.2.fresh.1⟩

/-- The state in which MIGR has queued its command. -/
def moveQueued (s s2 : State) (x : Args) (t : Trans) (pa : Nat) : State :=
  let c := moveCommand s s2 x t pa
  ((s2.migNumber c.cmd s2.now.guest).2.fresh.2.modNow (fun u => u.awaitFuture x.d c.handle)).modHub
    (fun u => { u with migQueue := u.migQueue ++ [c] })

theorem moveQueued_now (s s2 : State) (x : Args) (t : Trans) (pa : Nat) :
    (moveQueued s s2 x t pa).now = s2.now.awaitFuture x.d (moveCommand s s2 x t pa).handle := by
  have same : ∀ st : State, ∀ f : HubSys → HubSys, (st.modHub f).now = st.now := fun _ _ => rfl
  rw [moveQueued, same, modNow_now]
  rfl

theorem migr_effect (now : ready .migr x s = true) (reached : Reached s.unwait .migr x false (fun _ => none) t pa s2)
    (room : s2.hub.migQueue.length < migQueueLen) : exec (.migr x) s = (moveQueued s s2 x t pa).done := by
  have fields : x.sub.toNat * 16 + b2n (bit (if x.b == .none then 0 else s2.scalar x.b) 1) * 64 +
      b2n (bit (if x.b == .none then 0 else s2.scalar x.b) 1 && bit (if x.b == .none then 0 else s2.scalar x.b) 0) * 128 +
      s2.now.guest * 256 + (if t.pcls == 2 then pa / 4096 else pa / t.gsize * (t.gsize / 4096)) * 2 ^ 64 =
      (moveCommand s s2 x t pa).cmd := by
    simp only [moveCommand, moveFields, beq_iff_eq]
    rfl
  rw [exec_migr, execMigr, issue_of_ready _ now, placed1_queued reached, if_neg (by omega)]
  simp only [fields]
  rfl

theorem migr_queues (now : ready .migr x s = true) (reached : Reached s.unwait .migr x false (fun _ => none) t pa s2)
    (room : s2.hub.migQueue.length < migQueueLen) :
    ∃ (u : State) (c : MigCmd), exec (.migr x) s = .next u ∧ u.now.pc = s.now.pc + 12 ∧ vectorsKept s.now u.now ∧
      predicatesKept s.now u.now ∧ u.now.fflags = s.now.fflags ∧ u.mem = s2.mem ∧ u.hub.migQueue = s2.hub.migQueue ++ [c] ∧
      c.hart = some s.cur ∧ c.dreg = futureReg x.d ∧ c.taff1 = t.taff1 ∧
      c.cmd = moveFields x.sub.toNat (if x.b = .none then 0 else s2.scalar x.b) s2.now.guest t pa ∧
      ∀ r, u.now.getS r = if futureReg x.d = some r then ⟨.future, c.handle⟩ else s.now.getS r := by
  have kept : teamKept s s2 := teamKept_trans (teamKept_unwait s) reached.kept
  obtain ⟨scalars, vectors, predicates, flags⟩ := teamKept_registers kept
  have general := generalOnly_awaitFuture s2.now x.d (moveCommand s s2 x t pa).handle
  obtain ⟨vectors', predicates'⟩ := awaitFuture_keeps s2.now x.d (moveCommand s s2 x t pa).handle
  refine ⟨(moveQueued s s2 x t pa).modNow Hart.advance, moveCommand s s2 x t pa, migr_effect now reached room, ?_, fun r l => ?_,
    fun r => ?_, ?_, modNow_mem .., congrArg HubSys.migQueue (modNow_hub ..), congrArg some kept.1, rfl, rfl, rfl, fun r => ?_⟩ <;>
    rw [modNow_now, moveQueued_now]
  · rw [advance_pc, generalOnly_pc general, teamKept_pc kept]
  · exact (vectors' r l).trans (vectors r l)
  · exact (predicates' r).trans (predicates r)
  · exact (generalOnly_fflags general).trans flags
  · rw [getS_advance, getS_awaitFuture, scalars r]

/-! ### OWNR (R429, R430) -/

theorem ownr_request_rejects (now : ready .ownrRequest x s = true)
    (reached : Reached s.unwait .ownrRequest x true (fun _ => none) t pa s2) {st1 : State} (takes : homeTakes s.cur s2 pa = some st1) :
    exec (.ownrRequest x) s = .next (st1.takeTrap s.cur 0x14 (s.unwait.addrOf .ownrRequest { x with b := .none } 1 0) 0 1) := by
  rw [exec_ownrRequest, execOwnrRequest, issue_of_ready _ now]
  exact placed1_rejects reached rfl takes _

theorem ownr_release_rejects (now : ready .ownrRelease x s = true)
    (reached : Reached s.unwait .ownrRelease x true (fun _ => none) t pa s2) {st1 : State} (takes : homeTakes s.cur s2 pa = some st1) :
    exec (.ownrRelease x) s = .next (st1.takeTrap s.cur 0x14 (s.unwait.addrOf .ownrRelease { x with b := .none } 1 0) 0 1) := by
  rw [exec_ownrRelease, execOwnrRelease, issue_of_ready _ now]
  exact placed1_rejects reached rfl takes _

theorem owns_iff_not_keep {st : State} {page : Nat} (other : st.owns page = false) : ownKeep (st.ownWord page) = false := by
  simp only [State.owns, Bool.or_eq_false_iff] at other
  exact other.1

theorem ownr_request_gives (now : ready .ownrRequest x s = true)
    (reached : Reached s.unwait .ownrRequest x true (fun _ => none) t pa s2) (takes : homeTakes s.cur s2 pa = none) :
    let p := poolPage pa
    let w := s2.ownWord p
    let hold := s.now.sched.hold
    let next := s2.ownStep p
    let o := exec (.ownrRequest x) s
    (tierOf pa ≠ 2 → givesReport o s s2 x.d 0 6) ∧
    (tierOf pa = 2 → ownKeep w = true → givesReport o s s2 x.d (ownOwner w) 7) ∧
    (tierOf pa = 2 → ownKeep w = false → s2.owns p = true →
      (hold = none → givesReport o s s2 x.d (ownOwner w) 4) ∧
      (hold = some p → givesReport o s s2 x.d (ownOwner w) 0)) ∧
    (tierOf pa = 2 → s2.owns p = false → ∀ told, hold = some (holdEnded p told) → givesReport o s s2 x.d (ownOwner w) 5) ∧
    (tierOf pa = 2 → s2.owns p = false → hold = none →
      (next.1 = true → givesReport o s next.2 x.d (ownOwner (next.2.ownWord p)) 0) ∧
      (next.1 = false → waitsWith o s next.2 (some p))) := by
  intro p w hold next o
  have kept : teamKept s s2 := teamKept_trans (teamKept_unwait s) reached.kept
  have stepped : teamKept s next.2 := teamKept_trans kept (teamKept_of_coreSide (coreSide_ownStep s2 p))
  have effect : o = if tierOf pa != 2 then s2.report x.d 0 6
      else if ownKeep w then (holding none s2).report x.d (ownOwner w) 7
      else if s2.owns p then (holding none s2).report x.d (ownOwner w)
        (if hold == some p || (hold == some (holdEnded p false) || hold == some (holdEnded p true)) then 0 else 4)
      else if hold == some (holdEnded p false) || hold == some (holdEnded p true) then (holding none s2).report x.d (ownOwner w) 5
      else if next.1 then (holding none next.2).report x.d (ownOwner (next.2.ownWord p)) 0
      else (holding (some p) next.2).block .form := by
    show exec _ _ = _
    rw [exec_ownrRequest, execOwnrRequest, issue_of_ready _ now, placed1_taken reached takes]
    rfl
  rw [effect]
  refine ⟨fun tier => ?_, fun tier keep => ?_, fun tier free owns => ⟨fun fresh => ?_, fun waited => ?_⟩,
    fun tier other told ended => ?_, fun tier other fresh => ⟨fun gained => ?_, fun away => ?_⟩⟩
  · rw [if_pos (bne_iff_ne.2 tier)]
    exact report_gives kept ..
  · rw [if_neg (by simp [tier]), if_pos keep]
    exact report_holding_gives kept ..
  · rw [if_neg (by simp [tier]), if_neg (by simp [free]), if_pos owns, fresh]
    exact report_holding_gives kept ..
  · rw [if_neg (by simp [tier]), if_neg (by simp [free]), if_pos owns, if_pos (by simp [waited])]
    exact report_holding_gives kept ..
  · rw [if_neg (by simp [tier]), if_neg (by simp [w, owns_iff_not_keep other]), if_neg (by simp [other]),
      if_pos (by cases told <;> simp [ended])]
    exact report_holding_gives kept ..
  · rw [if_neg (by simp [tier]), if_neg (by simp [w, owns_iff_not_keep other]), if_neg (by simp [other]), fresh,
      if_neg (by simp), if_pos gained]
    exact report_holding_gives stepped ..
  · rw [if_neg (by simp [tier]), if_neg (by simp [w, owns_iff_not_keep other]), if_neg (by simp [other]), fresh,
      if_neg (by simp), if_neg (by simp [away])]
    exact block_holding_waits stepped _

theorem issueSide_flushPage (st : State) (a n : Nat) : issueSide (st.flushPage a n) = issueSide st := by
  unfold State.flushPage
  dsimp only
  rw [foldl_issueSide (fun st c => issueSide_setCluster ..), foldl_issueSide (fun st c => issueSide_setL1 ..),
    foldl_issueSide (fun st c => issueSide_clusterBack ..), foldl_issueSide (fun st c => issueSide_l1Back ..)]

theorem issueSide_recallPage (st : State) (a n : Nat) : issueSide (st.recallPage a n) = issueSide st := by
  have flushed : issueSide ((st.flushPage a n).mergeLines (a / 128) (n / 128)) = issueSide st :=
    (issueSide_of_coreSide (coreSide_mergeLines ..)).trans (issueSide_flushPage ..)
  unfold State.recallPage
  split
  · exact flushed
  · exact (foldl_issueSide (fun u e => issueSide_of_coreSide (coreSide_dropEntry ..)) _ _).trans flushed

theorem ownr_release_gives (now : ready .ownrRelease x s = true)
    (reached : Reached s.unwait .ownrRelease x true (fun _ => none) t pa s2) (takes : homeTakes s.cur s2 pa = none) :
    let p := poolPage pa
    let w := s2.ownWord p
    let r := s2.frame (recordOf s2 pa)
    let busy := r.pin ≠ 0 ∨ r.mstate ≠ 0 ∨ s2.flushWaits (poolAddr p) 4096 = true
    let c := (s2.recallPage (poolAddr p) 4096).setOwn p (ownNext w (ownOwner w) 0 0)
    let o := exec (.ownrRelease x) s
    (tierOf pa ≠ 2 → givesReport o s s2 x.d 0 6) ∧
    (tierOf pa = 2 → ownKeep w = true → givesReport o s s2 x.d (ownOwner w) 7) ∧
    (tierOf pa = 2 → ownKeep w = false → s2.owns p = false →
      givesReport o s s2 x.d (ownOwner w) (if s.now.sched.hold = some p then 0 else 4)) ∧
    (tierOf pa = 2 → ownKeep w = false → s2.owns p = true → busy → waitsWith o s s2 s2.now.sched.hold) ∧
    (tierOf pa = 2 → ownKeep w = false → s2.owns p = true → ¬ busy →
      (c.1 = true → givesReport o s c.2 x.d (ownOwner w) 0) ∧ (c.1 = false → waitsWith o s c.2 (some p))) := by
  intro p w r busy c o
  have kept : teamKept s s2 := teamKept_trans (teamKept_unwait s) reached.kept
  have changed : teamKept s c.2 := teamKept_trans kept (teamKept_trans (teamKept_of_issueSide (issueSide_recallPage s2 (poolAddr p) 4096))
    (teamKept_of_coreSide (coreSide_setOwn ..)))
  have effect : o = if tierOf pa != 2 then s2.report x.d 0 6
      else if ownKeep w then (holding none s2).report x.d (ownOwner w) 7
      else if !s2.owns p then (holding none s2).report x.d (ownOwner w) (if s.now.sched.hold == some p then 0 else 4)
      else if r.pin != 0 || r.mstate != 0 || s2.flushWaits (poolAddr p) 4096 then s2.block .form
      else if c.1 then (holding none c.2).report x.d (ownOwner w) 0 else (holding (some p) c.2).block .form := by
    show exec _ _ = _
    rw [exec_ownrRelease, execOwnrRelease, issue_of_ready _ now, placed1_taken reached takes]
    have split : ∀ q : Bool × State, (match q with
        | (true, s3) => (holding none s3).report x.d (ownOwner w) 0
        | (false, s3) => (holding (some p) s3).block .form) =
        if q.1 then (holding none q.2).report x.d (ownOwner w) 0 else (holding (some p) q.2).block .form := by
      rintro ⟨_ | _, s3⟩ <;> rfl
    rw [← split c]
    rfl
  have busy_iff : (r.pin != 0 || r.mstate != 0 || s2.flushWaits (poolAddr p) 4096) = true ↔ busy := by
    simp [busy, or_assoc]
  rw [effect]
  refine ⟨fun tier => ?_, fun tier keep => ?_, fun tier free other => ?_, fun tier free owns waits => ?_,
    fun tier free owns calm => ⟨fun changes => ?_, fun asks => ?_⟩⟩
  · rw [if_pos (bne_iff_ne.2 tier)]
    exact report_gives kept ..
  · rw [if_neg (by simp [tier]), if_pos keep]
    exact report_holding_gives kept ..
  · rw [if_neg (by simp [tier]), if_neg (by simp [free]), if_pos (by simp [other])]
    simp only [beq_iff_eq]
    exact report_holding_gives kept ..
  · rw [if_neg (by simp [tier]), if_neg (by simp [free]), if_neg (by simp [owns]), if_pos (busy_iff.2 waits)]
    exact block_waits kept
  · rw [if_neg (by simp [tier]), if_neg (by simp [free]), if_neg (by simp [owns]), if_neg (fun h => calm (busy_iff.1 h)), if_pos changes]
    exact report_holding_gives changed ..
  · rw [if_neg (by simp [tier]), if_neg (by simp [free]), if_neg (by simp [owns]), if_neg (fun h => calm (busy_iff.1 h)),
      if_neg (by simp [asks])]
    exact block_holding_waits changed _

end

end Sys2Proof.Laws
end

section
/-! OBLIGATION O45. The placement forms. -/
namespace Sys2Proof.Laws

open Machine Safety

/-- Settles O45: each form at the page that its address reaches, the home's rejection apart. -/
theorem placementForms : Obligations.PlacementForms := by
  intro x s s2 t pa s1 va reaches taken rejects reports waits page recOf
  have at_ : ∀ {o : Op} {write : Bool} {deny : Trans → Option Nat}, (o == .pin) = false → reaches o write → deny t = none →
      Reached s.unwait o x write deny t pa s2 := fun other reach allowed => ⟨⟨s2, reach.2, by rw [other]; rfl⟩, allowed⟩
  refine ⟨fun s3 reach allowed gains => ?_, fun reach allowed => ?_, fun n lacks => ⟨fun reach => ?_, fun reach => ?_⟩,
    fun now translates home => hint_writes now translates home, fun reach room => migr_queues reach.1 (at_ rfl reach rfl) room,
    fun reach => ?_, fun reach => ?_⟩
  · have reached : Reached s.unwait .pin x false s.unwait.pinDenied t pa s3 := ⟨⟨s2, reach.2, gains⟩, allowed⟩
    exact ⟨fun st1 takes => pin_rejects reach.1 reached takes, fun takes => pin_gives reach.1 reached takes⟩
  · have reached := at_ (deny := s.unwait.pinDenied) rfl reach allowed
    exact ⟨fun st1 takes => unpin_rejects reach.1 reached takes, fun takes => unpin_gives reach.1 reached takes⟩
  · exact pin_denied lacks rfl reach.1 reach.2
  · exact pin_denied lacks rfl reach.1 reach.2
  · have reached := at_ (deny := fun _ => none) rfl reach rfl
    exact ⟨fun st1 takes => ownr_request_rejects reach.1 reached takes, fun takes => ownr_request_gives reach.1 reached takes⟩
  · have reached := at_ (deny := fun _ => none) rfl reach rfl
    exact ⟨fun st1 takes => ownr_release_rejects reach.1 reached takes, fun takes => ownr_release_gives reach.1 reached takes⟩

end Sys2Proof.Laws
end

section
/-! SUPPORT. What homes, walks, changes of ownership and accesses of the hub leave, said once for every observation of the state that none
of their writes shows in (R268, R400 to R429, R450 to R461, R487). -/
namespace Sys2Proof.Laws

open Machine

/-- A fold keeps an observation of what it carries that each of its steps keeps. -/
theorem foldl_leaves {σ α β : Type} (obs : σ → β) {f : σ → α → σ} (kept : ∀ b a, obs (f b a) = obs b) (l : List α) (b : σ) :
    obs (l.foldl f b) = obs b := by
  induction l generalizing b with
  | nil => rfl
  | cons a l ih => exact (ih (f b a)).trans (kept b a)

/-- The hub without what a home, a walk or a change of ownership may write. -/
def hubAside (u : HubSys) : HubSys :=
  { u with migQueue := [], cells := [], poolUsed := [], gained := [], ownSent := [], changing := [], promos := [], counters := [] }

/-- An observation of the state that the writes of homes and walks leave: their own records, memory and its partials, the copies of the
coherent agents, the translation caches, and what they send, count and raise. -/
structure HomeKept {β : Type} (obs : State → β) : Prop where
  hub : ∀ (s : State) (f : HubSys → HubSys), (∀ u, hubAside (f u) = hubAside u) → obs (s.modHub f) = obs s
  home : ∀ (s : State) (h : Nat) (f : HomeSt → HomeSt), obs (s.modHome h f) = obs s
  frame : ∀ (s : State) (n : Nat) (f : FrameRec → FrameRec), obs (s.modFrame n f) = obs s
  sent : ∀ (s : State) (m : Msg), obs (s.send m) = obs s
  event : ∀ (s : State) (n : Nat), obs (s.raiseEvent n) = obs s
  poke : ∀ (s : State) (by_ : Nat) (l : List (Nat × Byte)) (ps : List Nat), obs (s.cohPoke by_ l ps) = obs s
  partials : ∀ (s : State) (f : MemSys → List Partial), obs (s.modMem (fun m => { m with partials := f m })) = obs s
  copies : ∀ (s : State) (f : MemSys → Sparse (List CohLine)), obs (s.modMem (fun m => { m with copies := f m })) = obs s
  tlbs : ∀ (s : State) (f : MemSys → Sparse (List Trans)), obs (s.modMem (fun m => { m with tlbs := f m })) = obs s
  counted : ∀ (s : State) (core ev n guest : Nat) (pipe : Option Nat), obs (s.pmcAdd core ev n guest pipe) = obs s

namespace HomeKept

variable {β : Type} {obs : State → β} (k : HomeKept obs)
include k

theorem bumpBy (s : State) (key n : Nat) : obs (s.bumpBy key n) = obs s := k.hub _ _ (fun _ => by rfl)
theorem bump (s : State) (key : Nat) : obs (s.bump key) = obs s := k.bumpBy ..
theorem ras (s : State) (detail : Nat) : obs (s.ras detail) = obs s := (k.sent ..).trans (k.event ..)
theorem dropCells (s : State) (f n : Nat) : obs (s.dropCells f n) = obs s := by
  simp only [State.dropCells]
  exact k.hub _ _ (fun _ => by rfl)
theorem probe (s : State) (agents : Nat → Bool) (line n : Nat) (keep : Bool) : obs (s.probe agents line n keep) = obs s := by
  simp only [State.probe, State.modCopies]
  exact k.copies s _

theorem mergePartial (s : State) (p : Partial) : obs (s.mergePartial p) = obs s := obs_ite obs (k.bump ..) (k.poke ..)

theorem mergeLines (s : State) (line n : Nat) : obs (s.mergeLines line n) = obs s := by
  simp only [State.mergeLines]
  exact (k.partials _ _).trans (foldl_leaves obs k.mergePartial _ s)

theorem endKeeping (s : State) : obs s.endKeeping = obs s := foldl_leaves obs (fun st f => k.dropCells st f 1) _ s

/-! ### Directories -/

theorem probePeers (s : State) (h : Nat) (p : PeerEntry) (asker : Option Nat) : obs (s.probePeers h p asker) = obs s := by
  have sent : ∀ (f : Nat → Msg) (ks : List Nat), obs (ks.foldl (fun st k => st.send (f k)) s) = obs s :=
    fun f ks => foldl_leaves obs (fun st n => k.sent st (f n)) ks s
  exact obs_ite obs (sent ..) ((k.poke ..).trans (sent ..))

theorem recallPeers (s : State) (h line n : Nat) (reader : Bool) : obs (s.recallPeers h line n reader) = obs s := by
  simp only [State.recallPeers, k.home]
  exact foldl_leaves obs (fun st p => k.probePeers st h p none) _ s

theorem dropEntry (s : State) (h : Nat) (e : DirEntry) : obs (s.dropEntry h e) = obs s := by
  simp only [State.dropEntry, k.home, k.probe, apply_ite obs, k.recallPeers, k.mergeLines, ite_self]

theorem addEntry (s : State) (h : Nat) (e : DirEntry) : obs (s.addEntry h e) = obs s := by
  simp only [State.addEntry, k.home]
  split
  · split
    · exact k.dropEntry ..
    · rfl
  · rfl

theorem serveFree (s : State) (h line a guest : Nat) (q : DReq) : obs (s.serveFree h line a guest q) = obs s := by
  unfold State.serveFree
  split
  · exact k.addEntry ..
  · rfl

theorem logPartition (s : State) (h line a g u : Nat) : obs (s.logPartition h line a g u) = obs s := by
  simp only [State.logPartition, k.event, k.home, k.poke]

theorem dirSplit (s : State) (h line a : Nat) (e : DirEntry) (q : DReq) : obs (s.dirSplit h line a e q) = obs s := by
  simp only [State.dirSplit]
  split <;> simp only [k.addEntry, apply_ite obs, k.home, k.probe, k.recallPeers, ite_self]

theorem dirServe (s : State) (h line a g : Nat) (fw : Bool) (q : DReq) : obs (s.dirServe h line a g fw q).1 = obs s := by
  simp only [State.dirServe]
  split
  · exact k.serveFree ..
  · next e _ =>
    cases nextEntry e a q <;> split_ifs <;> simp only [k.logPartition, k.dropEntry, k.serveFree, k.home, k.dirSplit]

theorem homeWrite (s : State) (pa n v : Nat) : obs (s.homeWrite pa n v) = obs s := by
  simp only [State.homeWrite, k.poke, k.mergeLines]
  split
  · exact k.dirServe ..
  · rfl

theorem notify (s : State) (guest gpn reason tier : Nat) : obs (s.notify guest gpn reason tier) = obs s := by
  simp only [State.notify]
  split_ifs <;> simp only [k.bump, k.homeWrite]

theorem count (s : State) (pa : Nat) (write : Bool) : obs (s.count pa write) = obs s := by
  simp only [State.count]
  split_ifs <;> simp only [k.frame, k.notify, k.bumpBy]

theorem rejected {s t : State} {pa a g : Nat} {fw : Bool} (h : s.rejected pa a g fw = some t) : obs t = obs s := by
  simp only [State.rejected] at h
  split at h
  · cases h
  · split at h
    · obtain ⟨-, logged⟩ := Option.ite_none_right_eq_some.1 h
      cases logged
      exact k.logPartition ..
    · cases h

omit k in
theorem dirServe_grant (s : State) (h line a g : Nat) (fw : Bool) {q : DReq} (home : q.grant = .home) :
    (s.dirServe h line a g fw q).2 ≠ .copy := by
  simp only [State.dirServe]
  split
  · simp [home]
  · split_ifs <;> simp [home]

/-- An access performed at the home takes no copy. -/
theorem cohTouch_home (s : State) (a g : Nat) (fw : Bool) (line : Nat) (write : Bool) :
    obs (s.cohTouch a g fw line write true).1 = obs s := by
  simp only [State.cohTouch]
  split
  · exact k.mergeLines ..
  · next h _ =>
    have served := fun q => k.dirServe s h line a g fw q
    split
    · rfl
    · split
      · exact served _
      · simp only [k.count, k.mergeLines, served]
      · next copy =>
        exact absurd copy (dirServe_grant s h line a g fw (by cases write <;> rfl))

/-! ### Ownership of POOL pages -/

theorem setOwn (s : State) (page w : Nat) : obs (s.setOwn page w).2 = obs s := by
  simp only [State.setOwn]
  split_ifs
  · exact k.homeWrite ..
  · rfl
  · exact (k.sent ..).trans (k.hub _ _ (fun _ => by rfl))

theorem takeOwn (s : State) (page : Nat) : obs (s.takeOwn page).2 = obs s := by
  simp only [State.takeOwn, State.gainOwn]
  exact obs_ite obs ((k.hub _ _ (fun _ => by rfl)).trans (k.setOwn ..)) (k.setOwn ..)

theorem ownStep (s : State) (page : Nat) : obs (s.ownStep page).2 = obs s := by
  simp only [State.ownStep]
  split_ifs
  · rfl
  · exact k.takeOwn ..
  · exact (k.sent ..).trans (k.hub _ _ (fun _ => by rfl))
  · rfl

theorem ownFor (s : State) (hold : Option Nat) (page : Nat) : obs (s.ownFor hold page).2 = obs s := by
  unfold State.ownFor
  split
  · rfl
  · exact k.ownStep s page

/-! ### Walks -/

theorem setAD (s : State) (at_ : Nat) (dirty : Bool) : obs (s.setAD at_ dirty) = obs s := obs_ite obs rfl (k.poke ..)

theorem install (s : State) (core : Nat) (t : Trans) : obs (s.install core t) = obs s := foldl_leaves obs (fun _ _ => k.tlbs ..) _ s

theorem noteWalk (s : State) (t : Trans) (pa gpn : Nat) : obs (s.noteWalk t pa gpn) = obs s := by
  have dropped : ∀ l : List (Nat × Nat), obs (l.foldl (fun st r => st.dropCells r.1 r.2) s) = obs s :=
    fun l => foldl_leaves obs (fun _ _ => k.dropCells ..) l s
  have based : ∀ (l : List Nat) (f : Nat) (g : FrameRec → FrameRec) (st : State),
      obs (l.foldl (fun st i => st.modFrame (f + i) g) st) = obs st :=
    fun l f g st => foldl_leaves obs (fun u i => k.frame u (f + i) g) l st
  simp only [State.noteWalk]
  split
  · rfl
  · split <;> simp only [k.frame, apply_ite obs, based, dropped, k.endKeeping, ite_self]

theorem meetPark (s : State) (cx : XCtx) (pte leaf : Nat) : obs (s.meetPark cx pte leaf).2 = obs s := by
  simp only [State.meetPark]
  split_ifs <;> dsimp only <;> exact k.hub _ _ (fun _ => by rfl)

theorem walked (s : State) (cx : XCtx) (va : Nat) (acc : AccessKind) (write : Bool) (t : Trans) (pa : Nat) (via : List Nat) :
    obs (s.walked cx va acc write t pa via).2 = obs s := by
  have notices : ∀ l : List (Nat × Nat),
      obs (l.foldl (fun st r => st.send (.mappingNotice (bits (r.1 * 4096) 39 6) (r.1 * 4096) r.2)) s) = obs s :=
    fun l => foldl_leaves obs (fun _ _ => k.sent ..) l s
  have leaves : ∀ st : State, obs (via.foldl (fun st a => st.setAD a false) st) = obs st :=
    fun st => foldl_leaves obs (fun u a => k.setAD u a false) via st
  simp only [State.walked]
  split
  · rfl
  · split
    · exact notices _
    · split <;> simp only [k.install, k.noteWalk, k.setAD, leaves, notices]

theorem walkFor (s : State) (cx : XCtx) (va : Nat) (acc : AccessKind) (write : Bool) : obs (s.walkFor cx va acc write).2 = obs s := by
  unfold State.walkFor
  split
  · exact k.meetPark ..
  · rfl
  · exact k.walked ..

theorem translate (s : State) (cx : XCtx) (va : Nat) (acc : AccessKind) (write : Bool) :
    obs (s.translate cx va acc write).2 = obs s := by
  refine obs_ite (fun r : XRes × State => obs r.2) rfl ?_
  split
  · split
    · rfl
    · exact obs_ite (fun r : XRes × State => obs r.2) (k.walkFor ..) rfl
  · exact (k.walkFor ..).trans (k.counted ..)

/-! ### Ranges (R162, R183, R365) -/

theorem runs {s t : State} {cx : XCtx} {va n : Nat} {acc : AccessKind} {write : Bool} {rs : List Run}
    (ok : s.runs cx va n acc write = .ok (rs, t)) : obs t = obs s := by
  refine foldl_except_keeps (fun q : List Run × State => obs q.2) (fun _ _ => by rfl) (fun q p q' step => ?_) _ ok
  have here := k.translate q.2 cx p.1 acc write
  dsimp only at step
  split at step
  · next eq =>
    cases step
    rw [eq] at here
    exact here
  · cases step

theorem ownRuns {s t : State} {h : Nat} {write raises : Bool} {rs : List Run} (ok : s.ownRuns h write raises rs = .ok t) :
    obs t = obs s := by
  refine foldl_except_keeps obs (fun _ _ => by rfl) (fun st r st' step => ?_) _ ok
  have here := k.ownFor st (if raises then (st.hart h).sched.hold else none) (poolPage r.pa)
  dsimp only at step
  split at step
  · next eq =>
    cases step
    rw [eq] at here
    exact here
  · cases step
  · cases step

theorem privRuns {s t : State} {h va n : Nat} {acc : AccessKind} {write : Bool} {rs : List Run}
    (ok : s.privRuns h va n acc write = .ok (rs, t)) : obs t = obs s := by
  unfold State.privRuns at ok
  split at ok
  · cases ok
  · next runs =>
    split at ok
    · cases ok
    · next owned =>
      cases ok
      exact (k.ownRuns owned).trans (k.runs runs)

theorem recRange {s t : State} {va n : Nat} {write : Bool} {l : List RecByte} (ok : s.recRange va n write = .ok (l, t)) :
    obs t = obs s := by
  unfold State.recRange at ok
  split at ok
  · cases ok
  · next runs =>
    split at ok
    · cases ok
    · split at ok
      · cases ok
      · split at ok
        · cases ok
        · next owned =>
          cases ok
          exact (k.ownRuns owned).trans (k.runs runs)

theorem range {s t : State} {cx : XCtx} {va n : Nat} {acc : AccessKind} {write : Bool} {as_ : List Nat}
    (ok : s.range cx va n acc write = .ok (as_, t)) : obs t = obs s := by
  simp only [State.range] at ok
  split at ok
  · next runs => cases ok; exact k.runs runs
  · cases ok

/-! ### Accesses of the hub by virtual addresses (R365, R400) -/

theorem hubTouch (s : State) (guest : Nat) (write : Bool) (as_ : List Nat) : obs (s.hubTouch guest write as_) = obs s :=
  foldl_leaves obs (fun st line => k.cohTouch_home st 3 guest false line write) _ s

theorem readVirt {s t : State} {cx : XCtx} {va n : Nat} {bs : List Byte} (ok : s.readVirt cx va n = some (bs, t)) : obs t = obs s := by
  simp only [State.readVirt] at ok
  split at ok
  · next range =>
    split_ifs at ok
    cases ok
    exact (k.hubTouch ..).trans (k.range range)
  · cases ok

theorem writeVirt {s t : State} {cx : XCtx} {va : Nat} {bs : List Byte} (ok : s.writeVirt cx va bs = some t) : obs t = obs s := by
  simp only [State.writeVirt] at ok
  split at ok
  · next range =>
    split_ifs at ok
    cases ok
    exact (k.poke ..).trans ((k.hubTouch ..).trans (k.range range))
  · cases ok

theorem pokeVirt (s : State) (cx : XCtx) (va : Nat) (bs : List Byte) : obs (s.pokeVirt cx va bs) = obs s := by
  simp only [State.pokeVirt]
  cases ok : s.writeVirt cx va bs with
  | none => rfl
  | some t => exact k.writeVirt ok

theorem virtHeld {s t : State} {cx : XCtx} {ranges : List (Nat × Nat)} (held : s.virtHeld cx ranges = some t) : obs t = obs s := by
  obtain ⟨p, -, held⟩ := List.exists_of_findSome?_eq_some held
  have here := k.translate s cx p.1 .load false
  split at held
  · next eq =>
    cases held
    rw [eq] at here
    exact here
  · next st eq =>
    rw [eq] at here
    obtain ⟨-, held⟩ := Option.ite_none_right_eq_some.1 held
    obtain ⟨-, held⟩ := Option.ite_none_left_eq_some.1 held
    obtain rfl := Option.some.inj held
    exact (k.ownStep ..).trans here
  · cases held

theorem logRefusal (s : State) (cx : XCtx) (va n : Nat) (acc : AccessKind) (write : Bool) :
    obs (s.logRefusal cx va n acc write) = obs s := by
  simp only [State.logRefusal]
  split
  · next as_ st range =>
    cases h : (st.refusedAt cx.guest as_).bind (fun a => st.rejected a 3 cx.guest false) with
    | none => rfl
    | some t =>
      obtain ⟨a, -, refused⟩ := Option.bind_eq_some_iff.1 h
      exact (k.rejected refused).trans (k.range range)
  · rfl

/-- A write that the hub may fail to make, and what is done in its place. -/
theorem writeVirt_else {s t u : State} (cx : XCtx) (va : Nat) (bs : List Byte) (done : obs s = obs u) (lost : obs t = obs u) :
    obs (match s.writeVirt cx va bs with | some s' => s' | none => t) = obs u := by
  cases h : s.writeVirt cx va bs with
  | none => exact lost
  | some s' => exact (k.writeVirt h).trans done

end HomeKept

/-! ### Fault records (R400, R401, R517) -/

/-- Such an observation that also leaves out the fault report queues that are known and the records that wait for a promotion. -/
structure FaultKept {β : Type} (obs : State → β) : Prop extends HomeKept obs where
  frqs : ∀ (s : State) (f : LaunchSys → List Nat), obs (s.modRun (fun r => { r with frqs := f r })) = obs s
  faults : ∀ (s : State) (f : LaunchSys → List (Eff × FaultRec)), obs (s.modRun (fun r => { r with faults := f r })) = obs s

namespace FaultKept

variable {β : Type} {obs : State → β} (k : FaultKept obs)
include k

theorem noteFrq (s : State) (cx : XCtx) (frq : Nat) : obs (s.noteFrq cx frq) = obs s := by
  simp only [State.noteFrq]
  split
  · next range => exact (k.frqs _ _).trans (k.range range)
  · rfl

theorem putFault (s : State) (e : Eff) (r : FaultRec) : obs (s.putFault e r) = obs s := by
  unfold State.putFault
  dsimp only
  split
  · exact (k.ras ..).trans ((k.logRefusal ..).trans (k.noteFrq ..))
  · next read =>
    have header := (k.readVirt read).trans (k.noteFrq s _ e.frq)
    refine obs_ite obs ?_ ?_
    · exact k.writeVirt_else _ _ _ header ((k.ras ..).trans header)
    · split
      · exact k.writeVirt_else _ _ _ ((k.logRefusal ..).trans header) ((k.ras ..).trans ((k.logRefusal ..).trans header))
      · next slot =>
        have record := (k.writeVirt slot).trans header
        exact k.writeVirt_else _ _ _ record ((k.ras ..).trans record)

theorem faultRecord (s : State) (e : Eff) (r : FaultRec) : obs (s.faultRecord e r) = obs s := by
  simp only [State.faultRecord]
  split
  · exact k.faults _ _
  · split
    · next held => exact (k.faults _ _).trans (k.virtHeld held)
    · exact k.putFault s e r

theorem crewFault (s : State) (key cause team : Nat) (hv : Bool) (hpc addr : Nat) :
    obs (s.crewFault key cause team hv hpc addr) = obs s := by
  simp only [State.crewFault]
  split
  · rfl
  · split
    · split
      · exact k.faultRecord ..
      · rfl
    · rfl

theorem lostAccess (s : State) (h cause addr : Nat) : obs (s.lostAccess h cause addr) = obs s :=
  obs_ite obs (k.crewFault ..) (obs_ite obs rfl (k.ras ..))

end FaultKept

/-! ### Accesses through the caches (R203, R227 to R230, R517) -/

/-- Such an observation that also leaves out the scoped caches, the prefetched lines that leave them, the stamps of lines and which held
LDP requests are released. -/
structure CacheKept {β : Type} (obs : State → β) : Prop extends FaultKept obs where
  evicted : ∀ (s : State) (of_ : Nat → Bool) (line : Nat), obs (s.countEvicted of_ line) = obs s
  clusters : ∀ (s : State) (c : Nat) (q : Cache), obs (s.setCluster c q) = obs s
  l1 : ∀ (s : State) (c : Nat) (q : Cache), obs (s.setL1 c q) = obs s
  stamps : ∀ (s : State) (key ts : Nat), obs (s.raiseStamp key ts) = obs s
  released : ∀ (s : State) (h level core : Nat) (lines : List Nat), obs (s.releaseAt h level core lines) = obs s

namespace CacheKept

variable {β : Type} {obs : State → β} (k : CacheKept obs)
include k

theorem evictCopy (s : State) (key : Nat) (c : CohLine) : obs (s.evictCopy key c) = obs s := by
  have left := fun of_ => (k.evicted (s.modMem (fun m => { m with
    copies := sset [] m.copies key ((sget [] m.copies key).filter (fun d => d.line != c.line)) })) of_ c.line).trans (k.copies s _)
  simp only [State.evictCopy]
  split
  · exact left _
  · split <;> simp only [k.home, k.count, left]

theorem keepCopy (s : State) (h line a : Nat) (write : Bool) : obs (s.keepCopy h line a write) = obs s := by
  simp only [State.keepCopy]
  split
  · rfl
  · split
    · exact obs_ite obs ((k.evictCopy ..).trans (k.copies s _)) (k.copies s _)
    · exact k.copies s _

theorem cohTouch (s : State) (a g : Nat) (fw : Bool) (line : Nat) (write home : Bool) :
    obs (s.cohTouch a g fw line write home).1 = obs s := by
  simp only [State.cohTouch]
  split
  · exact k.mergeLines ..
  · split
    · rfl
    · split <;> simp only [k.keepCopy, k.count, k.mergeLines, k.dirServe]

theorem writeBack (s : State) (agent : Nat) (l : List (Nat × CByte)) (poison : List Nat) :
    obs (s.writeBack agent l poison) = obs s := by
  refine foldl_leaves obs (fun st q => ?_) _ s
  simp only [apply_ite obs, k.poke, k.cohTouch, ite_self]

theorem carryStamps (s : State) (p q : Nat) (l : List (Nat × CByte)) : obs (s.carryStamps p q l) = obs s :=
  foldl_leaves obs (fun _ _ => k.stamps ..) _ s

theorem clusterBack (s : State) (cl : Nat) (sel : Nat → Bool) : obs (s.clusterBack cl sel) = obs s := by
  simp only [State.clusterBack, apply_ite obs, k.carryStamps, k.clusters, k.writeBack, ite_self]

theorem fitCluster (s : State) (cl keep : Nat) : obs (s.fitCluster cl keep) = obs s := by
  refine foldl_leaves obs (fun st q => ?_) _ s
  simp only [k.evicted, k.clusters, k.clusterBack]

theorem l1Back (s : State) (core : Nat) (sel : Nat → Bool) : obs (s.l1Back core sel) = obs s := by
  simp only [State.l1Back, apply_ite obs, k.fitCluster, k.carryStamps, k.l1, k.released, k.clusters, ite_self]

theorem fitL1 (s : State) (core keep : Nat) : obs (s.fitL1 core keep) = obs s := by
  refine foldl_leaves obs (fun st q => ?_) _ s
  simp only [k.evicted, k.l1, k.l1Back]

theorem preStrong (s : State) (core level line : Nat) : obs (s.preStrong core level line) = obs s := by
  simp only [State.preStrong, apply_ite obs, k.clusters, k.clusterBack, k.l1, k.l1Back, ite_self]

theorem fetchSector (s : State) (core guest : Nat) (fw nol1 stream : Bool) (sec : Nat) :
    obs (s.fetchSector core guest fw nol1 stream sec).1 = obs s := by
  have carried : ∀ (st : State) (p q line : Nat), obs (st.carryStamp p q line) = obs st := fun st p q line => k.stamps ..
  simp only [State.fetchSector]
  split
  · rfl
  · split <;> split_ifs <;> simp only [k.fitL1, carried, k.l1, k.counted, k.fitCluster, k.clusters, k.cohTouch]

theorem weakRead (s : State) (core guest : Nat) (fw bypass home nol1 stream : Bool) (a n : Nat) :
    obs (s.weakRead core guest fw bypass home nol1 stream a n).2.2 = obs s := by
  simp only [State.weakRead]
  split
  · simp only [k.cohTouch, apply_ite obs, k.counted, ite_self]
  · exact k.fetchSector ..

theorem privLoad {s t : State} {h va n : Nat} {acc : AccessKind} {bs : List Byte} {bad : Bool}
    (ok : s.privLoad h va n acc = .ok (bs, bad, t)) : obs t = obs s := by
  unfold State.privLoad at ok
  split at ok
  · cases ok
  · split at ok
    · cases ok
    · next rs s1 runs =>
      split at ok
      · cases ok
      · cases ok
      · split at ok
        · cases ok
        · have loaded := congrArg (fun r : List Byte × Bool × State => obs r.2.2) (Except.ok.inj ok)
          refine loaded.symm.trans ((foldl_leaves (fun r : List Byte × Bool × State => obs r.2.2) (fun p r => ?_) rs _).trans
            (k.privRuns runs))
          refine foldl_leaves (fun r : List Byte × Bool × State => obs r.2.2) (fun p i => ?_) _ p
          exact obs_ite obs (k.weakRead ..) ((k.lostAccess ..).trans (k.weakRead ..))

theorem recRead (s : State) (va : Nat) (l : List RecByte) : obs (s.recRead va l).2.2.2 = obs s := by
  simp only [State.recRead]
  refine foldl_leaves (fun p : List (List Byte) × List Nat × Option Nat × List RecByte × State => obs p.2.2.2.2) (fun p i => ?_) _ _
  obtain ⟨acc, bad, rej, rest, st⟩ := p
  cases rest with
  | nil => rfl
  | cons b rest => exact k.weakRead ..

theorem recLine (s : State) (h va : Nat) (l : List (Nat × Byte)) (poison : List Nat) : obs (s.recLine h va l poison) = obs s := by
  simp only [State.recLine, apply_ite obs, k.poke, k.lostAccess, k.cohTouch, k.preStrong, ite_self]

theorem recWrite (s : State) (h va : Nat) (as_ : List Nat) (bs : List Byte) (poison : List Nat) :
    obs (s.recWrite h va as_ bs poison) = obs s := by
  exact foldl_leaves (fun p : State × List Nat × List Byte => obs p.1) (fun p q => k.recLine ..) _ _

end CacheKept

end Sys2Proof.Laws
end

section
/-! SUPPORT. What a save or a restore form finds unchanged once it has reached its record: the team, its crew, the operations of the crew and
the loads that it waits for (R203). -/
namespace Sys2Proof.Laws

open Machine

/-- What homes, walks and fault records leave of the harts and of the work of crews. -/
@[irreducible] def crewSide (s : State) : Nat × Sparse Hart × LaunchSys × List Load × List Reply :=
  (s.cur, s.harts, { s.run with frqs := [], faults := [] }, s.mem.loads, s.mem.replies)

theorem crewSide_iff {s t : State} : crewSide t = crewSide s ↔ t.cur = s.cur ∧ t.harts = s.harts ∧
    ({ t.run with frqs := [], faults := [] } : LaunchSys) = { s.run with frqs := [], faults := [] } ∧ t.mem.loads = s.mem.loads ∧
    t.mem.replies = s.mem.replies := by
  simp only [crewSide, Prod.mk.injEq]

theorem crewSide_of {s t : State} (cur : t.cur = s.cur) (harts : t.harts = s.harts)
    (run : ({ t.run with frqs := [], faults := [] } : LaunchSys) = { s.run with frqs := [], faults := [] })
    (loads : t.mem.loads = s.mem.loads) (replies : t.mem.replies = s.mem.replies) : crewSide t = crewSide s :=
  crewSide_iff.2 ⟨cur, harts, run, loads, replies⟩

theorem faultKept_crewSide : FaultKept crewSide where
  hub _ _ _ := crewSide_of rfl rfl rfl rfl rfl
  home _ _ _ := crewSide_of rfl rfl rfl rfl rfl
  frame _ _ _ := crewSide_of rfl rfl rfl rfl rfl
  sent _ _ := crewSide_of rfl rfl rfl rfl rfl
  event _ _ := crewSide_of rfl rfl rfl rfl rfl
  poke _ _ _ _ := crewSide_of rfl rfl rfl rfl rfl
  partials _ _ := crewSide_of rfl rfl rfl rfl rfl
  copies _ _ := crewSide_of rfl rfl rfl rfl rfl
  tlbs _ _ := crewSide_of rfl rfl rfl rfl rfl
  counted _ _ _ _ _ _ := obs_ite crewSide rfl (crewSide_of rfl rfl rfl rfl rfl)
  frqs _ _ := crewSide_of rfl rfl rfl rfl rfl
  faults _ _ := crewSide_of rfl rfl rfl rfl rfl

/-- A crew without its prefetch counters, in which an eviction from a cache counts (R475). -/
def uncountedCrew (c : Crew) : Crew := { c with prefetch := [], fetched := [] }

/-- What also accesses through the caches leave: as above, but for the prefetch counters of harts and crews. -/
@[irreducible] def crewView (s : State) : Nat × (Nat → Hart) × LaunchSys × List Load × List Reply :=
  (s.cur, fun h => uncounted (s.hart h), { s.run with frqs := [], faults := [], crews := s.run.crews.map uncountedCrew }, s.mem.loads,
    s.mem.replies)

theorem crewView_of_crewSide {s t : State} (same : crewSide t = crewSide s) : crewView t = crewView s := by
  obtain ⟨cur, harts, run, loads, replies⟩ := crewSide_iff.1 same
  have crews : ({ t.run with frqs := [], faults := [], crews := t.run.crews.map uncountedCrew } : LaunchSys) =
      { s.run with frqs := [], faults := [], crews := s.run.crews.map uncountedCrew } :=
    (congrArg (fun r : LaunchSys => { r with crews := r.crews.map uncountedCrew }) run :)
  simp only [crewView, State.hart, cur, harts, crews, loads, replies]

theorem crewView_modHart (s : State) (h : Nat) {f : Hart → Hart} (kept : ∀ t, uncounted (f t) = uncounted t) :
    crewView (s.modHart h f) = crewView s := by
  have harts : (fun j => uncounted ((s.modHart h f).hart j)) = fun j => uncounted (s.hart j) := by
    funext j
    rw [hart_modHart]
    split
    · next same => rw [kept, same]
    · rfl
  simp only [crewView, harts]
  rfl

theorem map_updWhere_leaves {α β : Type} {p : α → Bool} {f : α → α} (g : α → β) (kept : ∀ a, g (f a) = g a) (l : List α) :
    (updWhere p f l).map g = l.map g := by
  simp only [updWhere, List.map_map]
  refine List.map_congr_left (fun a _ => ?_)
  simp only [Function.comp_apply]
  split
  · exact kept a
  · rfl

theorem crewView_updCrews (s : State) (p : Crew → Bool) {f : Crew → Crew} (kept : ∀ c, uncountedCrew (f c) = uncountedCrew c) :
    crewView (s.modRun (fun r => { r with crews := updWhere p f r.crews })) = crewView s := by
  have crews := map_updWhere_leaves (p := p) uncountedCrew kept s.run.crews
  simp only [crewView, State.modRun, crews]
  rfl

theorem cacheKept_crewView : CacheKept crewView where
  hub s f kept := crewView_of_crewSide (faultKept_crewSide.hub s f kept)
  home s h f := crewView_of_crewSide (faultKept_crewSide.home s h f)
  frame s n f := crewView_of_crewSide (faultKept_crewSide.frame s n f)
  sent s m := crewView_of_crewSide (faultKept_crewSide.sent s m)
  event s n := crewView_of_crewSide (faultKept_crewSide.event s n)
  poke s by_ l ps := crewView_of_crewSide (faultKept_crewSide.poke s by_ l ps)
  partials s f := crewView_of_crewSide (faultKept_crewSide.partials s f)
  copies s f := crewView_of_crewSide (faultKept_crewSide.copies s f)
  tlbs s f := crewView_of_crewSide (faultKept_crewSide.tlbs s f)
  counted s core ev n guest pipe := crewView_of_crewSide (faultKept_crewSide.counted s core ev n guest pipe)
  frqs s f := crewView_of_crewSide (faultKept_crewSide.frqs s f)
  faults s f := crewView_of_crewSide (faultKept_crewSide.faults s f)
  clusters s c q := crewView_of_crewSide (crewSide_of rfl rfl rfl rfl rfl)
  l1 s c q := crewView_of_crewSide (crewSide_of rfl rfl rfl rfl rfl)
  stamps s key ts := crewView_of_crewSide (crewSide_of rfl rfl rfl rfl rfl)
  released s h level core lines := crewView_of_crewSide (crewSide_of rfl rfl rfl rfl rfl)
  evicted s of_ line := by
    simp only [State.countEvicted]
    refine (foldl_leaves crewView (fun st h => crewView_modHart st h (fun _ => by rfl)) _ _).trans ?_
    split
    · exact crewView_updCrews s _ (fun _ => by rfl)
    · rfl

/-! ### What that says of the running team -/

section
variable {s t : State} (same : crewView t = crewView s)
include same

theorem crewView_cur : t.cur = s.cur := by
  simp only [crewView, Prod.mk.injEq] at same
  exact same.1

theorem crewView_hart (h : Nat) : uncounted (t.hart h) = uncounted (s.hart h) := by
  simp only [crewView, Prod.mk.injEq] at same
  exact congrFun same.2.1 h

theorem crewView_now : uncounted t.now = uncounted s.now := by
  rw [State.now, crewView_cur same]
  exact crewView_hart same s.cur

theorem crewView_run : ({ t.run with frqs := [], faults := [], crews := t.run.crews.map uncountedCrew } : LaunchSys) =
    { s.run with frqs := [], faults := [], crews := s.run.crews.map uncountedCrew } := by
  simp only [crewView, Prod.mk.injEq] at same
  exact same.2.2.1

theorem crewView_replies : t.mem.replies = s.mem.replies := by
  simp only [crewView, Prod.mk.injEq] at same
  exact same.2.2.2.2

theorem crewView_ops : t.run.ops = s.run.ops := (congrArg LaunchSys.ops (crewView_run same) :)

theorem crewView_crew? (key : Nat) : (t.crew? key).map uncountedCrew = (s.crew? key).map uncountedCrew := by
  have found : ∀ l : List Crew, (l.find? (fun c => c.key == key)).map uncountedCrew =
      (l.map uncountedCrew).find? (fun c => c.key == key) := fun l => by
    rw [List.find?_map]
    rfl
  have crews : t.run.crews.map uncountedCrew = s.run.crews.map uncountedCrew := (congrArg LaunchSys.crews (crewView_run same) :)
  rw [State.crew?, State.crew?, found, found, crews]

theorem crewView_crewOf (h : Nat) : (t.crewOf h).map uncountedCrew = (s.crewOf h).map uncountedCrew := by
  have threads : t.run.distThreads = s.run.distThreads := (congrArg LaunchSys.distThreads (crewView_run same) :)
  have place : (t.hart h).place = (s.hart h).place := (congrArg Hart.place (crewView_hart same h) :)
  simp only [State.crewOf, State.crewed, threads, place]
  by_cases crewed : (isCompute h || s.run.distThreads.contains h) = true
  · simp only [crewed, if_true]
    exact crewView_crew? same _
  · simp only [crewed]
    rfl

theorem crewView_kernelOf (h : Nat) : t.kernelOf h = s.kernelOf h := by
  have kernels : ∀ o : Option Crew, o.map Crew.kernel = (o.map uncountedCrew).map Crew.kernel := fun o => by cases o <;> rfl
  rw [State.kernelOf, State.kernelOf, kernels, kernels (s.crewOf h), crewView_crewOf same h]

/-- The crew that a team has is, but for its prefetch counters, the one that it had. -/
theorem crewView_crew {h : Nat} {c : Crew} (has : s.crewOf h = some c) :
    ∃ c' : Crew, t.crewOf h = some c' ∧ uncountedCrew c' = uncountedCrew c := by
  have crew := crewView_crewOf same h
  rw [has] at crew
  exact Option.map_eq_some_iff.1 crew

theorem crewView_none {h : Nat} (has : s.crewOf h = none) : t.crewOf h = none := by
  have crew := crewView_crewOf same h
  rw [has] at crew
  exact Option.map_eq_none_iff.1 crew

end

end Sys2Proof.Laws
end

section
/-! SUPPORT. Save and restore forms: their traps at an address that is not aligned, and what each does once its record is reached (R203 to
R211). -/
namespace Sys2Proof.Laws

open Machine Safety

/-! ### The crew, as a form finds it after its accesses -/

theorem kernelOf_unwait (s : State) (h : Nat) : s.unwait.kernelOf h = s.kernelOf h := by rw [State.kernelOf, unwait_crewOf, State.kernelOf]

section
variable {s t : State} (same : crewView t = crewView s.unwait)
include same

/-- The kernel of the running team is the one that it had. -/
theorem kernel_found : t.kernelOf t.cur = s.kernelOf s.cur := by
  rw [crewView_kernelOf same, crewView_cur same, unwait_cur, kernelOf_unwait]

variable {c : Crew} (has : s.crewOf s.cur = some c)
include has

/-- The crew of the running team is, but for its prefetch counters, the one that it had. -/
theorem crew_found : ∃ c' : Crew, t.crewOf t.cur = some c' ∧ uncountedCrew c' = uncountedCrew c := by
  rw [crewView_cur same]
  exact crewView_crew same ((unwait_crewOf s s.cur).trans has)

/-- Tiles that nothing uses hold a form up no longer. -/
theorem tilesBusy_idle {n : Nat} (idle : ∀ i, i < n → c.openOn i = false ∧ s.tileBusy c i = false) (back : s.ldaccOut c n = false) :
    tilesBusy t n = none := by
  obtain ⟨c', crew, alike⟩ := crew_found same has
  have opens : ∀ i, c'.openOn i = c.openOn i := fun i => (congrArg (fun q : Crew => q.openOn i) alike :)
  have busy : ∀ i, t.tileBusy c' i = s.tileBusy c i := fun i => by
    have key : c'.key = c.key := (congrArg Crew.key alike :)
    have closing : c'.closingOn i = c.closingOn i := (congrArg (fun q : Crew => q.closingOn i) alike :)
    simp only [State.tileBusy, State.drainOn, State.softmaxOn, State.crewOps, crewView_ops same, unwait_run, key, closing]
  have out : t.ldaccOut c' n = s.ldaccOut c n := by
    have harts : c'.harts = c.harts := (congrArg Crew.harts alike :)
    simp only [State.ldaccOut, crewView_replies same, unwait_mem, harts]
  have none_open : (List.range n).find? c'.openOn = none := List.find?_eq_none.2 fun i below => by
    rw [opens, (idle i (List.mem_range.1 below)).1]
    decide
  have none_busy : (List.range n).any (t.tileBusy c') = false := List.any_eq_false.2 fun i below => by
    rw [busy, (idle i (List.mem_range.1 below)).2]
    decide
  simp only [tilesBusy, crew, none_open, none_busy, out, back]
  rfl

/-- Chucks that no chain and no load uses hold a form up no longer. -/
theorem chucksBusy_idle {n : Nat} (idle : n = 0 ∨ c.chains = [] ∧ ∀ i, i < n → s.chuckLoading c i = false) : chucksBusy t n = none := by
  obtain ⟨c', crew, alike⟩ := crew_found same has
  have chains : c'.chains = c.chains := (congrArg Crew.chains alike :)
  have loading : ∀ i, t.chuckLoading c' i = s.chuckLoading c i := fun i => by
    have key : c'.key = c.key := (congrArg Crew.key alike :)
    simp only [State.chuckLoading, State.crewOps, crewView_ops same, unwait_run, key]
  rcases idle with none_ | ⟨no, loaded⟩
  · simp [chucksBusy, crew, none_]
  · have none_loading : (List.range n).any (t.chuckLoading c') = false := List.any_eq_false.2 fun i below => by
      rw [loading, loaded i (List.mem_range.1 below)]
      decide
    simp [chucksBusy, crew, chains, no, none_loading]

end

/-! ### Saves -/

/-- A save form has reached its record of `n` bytes at the places `l`, and nothing holds its writes up. -/
structure RecordReached (o : Op) (x : Args) (s : State) (n : Nat) (l : List RecByte) (s2 : State) : Prop where
  ready : memReady o x s = true
  aligned : s.scalar x.a % 64 = 0
  placed : s.unwait.recRange (s.scalar x.a) n true = .ok (l, s2)
  stored : s2.storesDue (s.scalar x.a) n l = false
  open_ : ∀ b ∈ l, s2.cursorMig b.pa = none ∧ s2.routeOpen (coreOf s.cur) b.pa = true
  backed : s2.backWaits (coreOf s.cur) (fun a => l.any (fun b => b.pa / 128 == a / 128)) = false

section
variable {o : Op} {x : Args} {s s2 : State} {n : Nat} {l : List RecByte} (reached : RecordReached o x s n l s2)
include reached

theorem RecordReached.side : crewSide s2 = crewSide s.unwait := faultKept_crewSide.recRange reached.placed
theorem RecordReached.view : crewView s2 = crewView s.unwait := crewView_of_crewSide reached.side
theorem RecordReached.cur : s2.cur = s.cur := (crewView_cur reached.view).trans (unwait_cur s)
theorem RecordReached.now : s2.now = s.unwait.now := by
  obtain ⟨cur, harts, -⟩ := crewSide_iff.1 reached.side
  simp only [State.now, State.hart, cur, harts]

/-- A save form writes its record where nothing else ends it. -/
theorem saveForm_writes {size : State → Nat} {pre : State → Option Out} {body : State → Except Out (List Byte × List Nat × State)}
    {after : State → Nat → Nat → State} {bs : List Byte} {poison : List Nat} {s3 : State} (sized : size s.unwait = n)
    (free : pre s2 = none) (image : body s2 = .ok (bs, poison, s3)) :
    saveForm o x size pre body after s =
      (after (s3.recWrite s3.cur (s.scalar x.a) (l.map RecByte.pa) bs poison) (s.scalar x.a) ((l.map RecByte.pa).headD 0)).done := by
  have free_ : l.any (fun b => (s2.cursorMig b.pa).isSome || !s2.routeOpen (coreOf s2.cur) b.pa) = false :=
    List.any_eq_false.2 fun b mem => by
      rw [reached.cur, (reached.open_ b mem).1, (reached.open_ b mem).2]
      decide
  have backed := reached.backed
  rw [← reached.cur] at backed
  simp only [saveForm, memIssue_of_memReady _ reached.ready, unwait_scalar, reached.aligned, sized, reached.placed, free, image, free_,
    reached.stored, backed]
  rfl

end

theorem saveForm_misaligned {o : Op} {x : Args} {s : State} {size : State → Nat} {pre : State → Option Out}
    {body : State → Except Out (List Byte × List Nat × State)} {after : State → Nat → Nat → State} (issues : memReady o x s = true)
    (off : s.scalar x.a % 64 ≠ 0) : saveForm o x size pre body after s = .next (s.unwait.takeTrap s.cur 7 (s.scalar x.a) 64 1) := by
  simp only [saveForm, memIssue_of_memReady _ issues, unwait_scalar, bne_iff_ne.2 off, if_true]
  rfl

/-- What SVSS, SVACC and SVCHK do: they write a record without marks, and go on. -/
theorem saveForm_done {o : Op} {x : Args} {s s2 s3 : State} {n : Nat} {l : List RecByte} (reached : RecordReached o x s n l s2)
    {size : State → Nat} {pre : State → Option Out} {body : State → Except Out (List Byte × List Nat × State)} {bs : List Byte}
    (sized : size s.unwait = n) (free : pre s2 = none) (image : body s2 = .ok (bs, [], s3)) (cur : s3.cur = s.cur) :
    saveForm o x size pre body (fun st _ _ => st) s =
      .next ((s3.recWrite s.cur (s.scalar x.a) (l.map RecByte.pa) bs []).modNow Hart.advance) := by
  rw [saveForm_writes reached sized free image, cur]
  rfl

/-! SVSB (R206) -/

/-- The team after its accesses is, but for its issue state and what it counts of prefetches, the one that it was. -/
theorem teamKept_of_crewView {s t : State} (same : crewView t = crewView s.unwait) : teamKept s t :=
  teamKept_trans (teamKept_unwait s)
    ⟨crewView_cur same, (congrArg (fun t : Hart => { t with sched := .init }) (crewView_now same) :)⟩

theorem tagOf_found {s t : State} (kept : teamKept s t) : t.tagOf t.cur = s.tagOf s.cur := by
  have ctx : (t.hart t.cur).ctx = (s.hart s.cur).ctx := (congrArg Hart.ctx kept.2 :)
  rw [State.tagOf, State.tagOf, ctx, kept.1]

/-- The offsets of the bytes from POISON lanes in the record of a store buffer. -/
def storeMarks (t : Hart) : List Nat := (t.sb.mapIdx (fun i e => e.poison.map (fun o => 64 + 160 * i + 32 + o))).flatten

/-- The record of the store buffer of the running team. -/
def storeRecord (s : State) : List Byte :=
  recHeader 1 s.now.W s.now.sb.length s.now.uasc (s.tagOf s.cur) ++ (s.now.sb.map SbEntry.item).flatten

/-- What a save of a store buffer notes of the record that now holds its stores (R206). -/
def savedBound (st : State) (va pa : Nat) : Bound :=
  let p := st.now.place
  let idx := (st.crewOf st.cur).map (fun c => (c.launch, c.index))
  ⟨st.tagOf st.cur, va, pa, p.crewKey, (idx.map Prod.fst).getD 0, (idx.map Prod.snd).getD 0, p.team⟩

/-- SVSB empties the store buffer once its record is written (R206). -/
def storesSaved (st : State) (va pa : Nat) : State :=
  let s1 := st.modMem (fun m => { m with bound := m.bound ++ [savedBound st va pa] })
  let tag := s1.newTag st.cur
  s1.modHart st.cur (fun t => { t with sb := [], uasc := 0, ctx := tag })

theorem execSvsb_eq (x : Args) (s : State) : execSvsb x s = saveForm .svsb x (fun st => 64 + 160 * st.now.sb.length) (fun _ => none)
    (fun st => .ok (storeRecord st, storeMarks st.now, st)) storesSaved s := rfl

theorem storesSaved_advance_now (st : State) (va pa : Nat) : ∃ tag, ((storesSaved st va pa).modNow Hart.advance).now =
    ({ st.now with sb := [], uasc := 0, ctx := tag } : Hart).advance :=
  ⟨_, (modNow_now ..).trans (congrArg Hart.advance ((hart_modHart ..).trans (if_pos rfl)))⟩

theorem storesSaved_mem (st : State) (va pa : Nat) :
    (storesSaved st va pa).mem = { st.mem with bound := st.mem.bound ++ [savedBound st va pa] } := setHart_mem ..

theorem storesSaved_byte (st : State) (va pa a : Nat) : (storesSaved st va pa).byte a = st.byte a := by
  simp only [State.byte, storesSaved_mem]

theorem svsb_writes {x : Args} {s s2 : State} {l : List RecByte} (reached : RecordReached .svsb x s (64 + 160 * s.now.sb.length) l s2) :
    ∃ (u : State) (b : Bound), exec (.svsb x) s = .next u ∧ u.now.pc = s.now.pc + 12 ∧ registersKept s.now u.now ∧ u.now.sb = [] ∧
      u.now.uasc = 0 ∧
      (∀ a, u.byte a = (s2.recWrite s.cur (s.scalar x.a) (l.map RecByte.pa) (storeRecord s) (storeMarks s.now)).byte a) ∧
      u.mem.bound = (s2.recWrite s.cur (s.scalar x.a) (l.map RecByte.pa) (storeRecord s) (storeMarks s.now)).mem.bound ++ [b] ∧
      b.tag = s.tagOf s.cur ∧ b.recVa = s.scalar x.a ∧ b.recPa = (l.map RecByte.pa).headD 0 := by
  have image : storeRecord s2 = storeRecord s ∧ storeMarks s2.now = storeMarks s.now := by
    simp only [storeRecord, storeMarks, tagOf_found (teamKept_of_crewView reached.view), reached.now, unwait_sb, unwait_W, unwait_uasc,
      and_self]
  have kept : teamKept s (s2.recWrite s.cur (s.scalar x.a) (l.map RecByte.pa) (storeRecord s) (storeMarks s.now)) :=
    teamKept_of_crewView ((cacheKept_crewView.recWrite ..).trans reached.view)
  obtain ⟨scalars, vectors, predicates, flags⟩ := teamKept_registers kept
  have saved := saveForm_writes reached (pre := fun _ => none) (body := fun st => .ok (storeRecord st, storeMarks st.now, st))
    (after := storesSaved) (size := fun st => 64 + 160 * st.now.sb.length) (by simp only [unwait_sb]) rfl rfl
  rw [reached.cur, image.1, image.2] at saved
  obtain ⟨tag, now⟩ := storesSaved_advance_now (s2.recWrite s.cur (s.scalar x.a) (l.map RecByte.pa) (storeRecord s) (storeMarks s.now))
    (s.scalar x.a) ((l.map RecByte.pa).headD 0)
  refine ⟨_, _, (exec_svsb x s).trans ((execSvsb_eq x s).trans saved), ?_, ?_, ?_, ?_,
    fun a => (modNow_byte ..).trans (storesSaved_byte ..),
    (congrArg MemSys.bound (modNow_mem ..)).trans (congrArg MemSys.bound (storesSaved_mem ..)), tagOf_found kept, rfl, rfl⟩ <;>
    rw [now]
  · exact congrArg (· + 12) (teamKept_pc kept)
  · exact ⟨fun r => scalars r, fun r l => vectors r l, fun r => predicates r, flags⟩
  · rfl
  · rfl

/-! SVSS (R208) -/

theorem svss_resident {x : Args} {s s2 : State} {l : List RecByte}
    (reached : RecordReached .svss x s (64 + s.now.depth * entrySize s.now.W) l s2) (resident : s.now.spilled = 0) :
    exec (.svss x) s = .next ((s2.recWrite s.cur (s.scalar x.a) (l.map RecByte.pa)
      (recHeader 2 s.now.W s.now.depth 0 0 ++ (s.now.stack.reverse.map (fun e => e.bytes s.now.W)).flatten) []).modNow Hart.advance) := by
  rw [exec_svss, execSvss]
  refine saveForm_done reached (by simp only [unwait_depth, unwait_W]) rfl ?_ reached.cur
  simp only [reached.now, unwait_spilled, unwait_depth, unwait_W, unwait_stack, resident]
  simp

theorem svss_spilled {x : Args} {s s2 s3 : State} {l : List RecByte} {low : List Byte} {bad : Bool}
    (reached : RecordReached .svss x s (64 + s.now.depth * entrySize s.now.W) l s2) (spilled : s.now.spilled ≠ 0)
    (loaded : s2.privLoad s.cur s.now.spillBase (s.now.spilled * entrySize s.now.W) .spill = .ok (low, bad, s3)) :
    exec (.svss x) s = .next ((s3.recWrite s.cur (s.scalar x.a) (l.map RecByte.pa)
      (recHeader 2 s.now.W s.now.depth 0 0 ++ low ++ (s.now.stack.reverse.map (fun e => e.bytes s.now.W)).flatten) []).modNow
        Hart.advance) := by
  have base : s.unwait.now.spillBase = s.now.spillBase := by rw [Hart.spillBase, unwait_place, unwait_W, Hart.spillBase]
  rw [exec_svss, execSvss]
  refine saveForm_done reached (by simp only [unwait_depth, unwait_W]) rfl ?_
    ((crewView_cur (cacheKept_crewView.privLoad loaded)).trans reached.cur)
  simp only [reached.now, reached.cur, unwait_spilled, unwait_depth, unwait_W, unwait_stack, base, beq_eq_false_iff_ne.2 spilled, loaded]
  rfl

/-! SVACC (R209) and SVCHK (R210) -/

theorem svacc_writes {x : Args} {s s2 : State} {l : List RecByte} {c : Crew} (has : s.crewOf s.cur = some c)
    (reached : RecordReached .svacc x s (64 + (s.kernelOf s.cur).acc * recItem 3 0) l s2)
    (idle : ∀ i, i < (s.kernelOf s.cur).acc → c.openOn i = false ∧ s.tileBusy c i = false)
    (back : s.ldaccOut c (s.kernelOf s.cur).acc = false) :
    exec (.svacc x) s = .next ((s2.recWrite s.cur (s.scalar x.a) (l.map RecByte.pa) (recHeader 3 s.now.W (s.kernelOf s.cur).acc 0 0 ++
      ((List.range (s.kernelOf s.cur).acc).map (fun i => (c.tile i).image)).flatten) []).modNow Hart.advance) := by
  obtain ⟨c', crew, alike⟩ := crew_found reached.view has
  have tile : ∀ i, c'.tile i = c.tile i := fun i => (congrArg (fun q : Crew => q.tile i) alike :)
  have kernel := kernel_found reached.view
  rw [exec_svacc, execSvacc]
  refine saveForm_done reached (by simp only [unwait_cur, kernelOf_unwait]) ?_ ?_ reached.cur
  · simp only [kernel]
    exact tilesBusy_idle reached.view has idle back
  · simp only [kernel, crew, Option.map_some, Option.getD_some, tile, reached.now, unwait_W]

theorem svchk_writes {x : Args} {s s2 : State} {l : List RecByte} {c : Crew} (has : s.crewOf s.cur = some c)
    (reached : RecordReached .svchk x s (64 + (s.kernelOf s.cur).chucks * recItem 4 0) l s2)
    (idle : (s.kernelOf s.cur).chucks = 0 ∨ c.chains = [] ∧ ∀ i, i < (s.kernelOf s.cur).chucks → s.chuckLoading c i = false) :
    exec (.svchk x) s = .next ((s2.recWrite s.cur (s.scalar x.a) (l.map RecByte.pa) (recHeader 4 s.now.W (s.kernelOf s.cur).chucks 0 0 ++
      ((List.range (s.kernelOf s.cur).chucks).map (fun i => (c.chuck i).image)).flatten) []).modNow Hart.advance) := by
  obtain ⟨c', crew, alike⟩ := crew_found reached.view has
  have chuck : ∀ i, c'.chuck i = c.chuck i := fun i => (congrArg (fun q : Crew => q.chuck i) alike :)
  have kernel := kernel_found reached.view
  rw [exec_svchk, execSvchk]
  refine saveForm_done reached (by simp only [unwait_cur, kernelOf_unwait]) ?_ ?_ reached.cur
  · simp only [kernel]
    exact chucksBusy_idle reached.view has idle
  · simp only [kernel, crew, Option.map_some, Option.getD_some, chuck, reached.now, unwait_W]

theorem restoreForm_misaligned {o : Op} {x : Args} {s : State} {kind : Nat} {check : State → Nat → Option (Nat × Nat)}
    {pre : State → Nat → Option Out} {f : State → Nat → List RecByte → Nat → List Byte → List Nat → Out} (issues : memReady o x s = true)
    (off : s.scalar x.a % 64 ≠ 0) :
    restoreForm o x kind check pre f s = .next (s.unwait.takeTrap s.cur 7 (s.scalar x.a) 64 1) := by
  simp only [restoreForm, memIssue_of_memReady _ issues, unwait_scalar, bne_iff_ne.2 off, if_true]
  rfl

end Sys2Proof.Laws
end

section
/-! OBLIGATION O49. Save forms write their records. -/
namespace Sys2Proof.Laws

open Machine Safety

/-- Settles O49: at a record that can be reached the accesses on the way to it leave the team, its crew and the work of the crew as they were
(`RecordReached.view`), so that what each form writes is what the team had. -/
theorem saveForms : Obligations.SaveForms := by
  intro x s
  have reached : ∀ {o : Op} {n : Nat} {l : List RecByte} {s2 : State}, (memReady o x s = true ∧ s.scalar x.a % 64 = 0 ∧
      s.unwait.recRange (s.scalar x.a) n true = .ok (l, s2) ∧ s2.storesDue (s.scalar x.a) n l = false ∧
      (∀ b ∈ l, s2.cursorMig b.pa = none ∧ s2.routeOpen (coreOf s.cur) b.pa = true) ∧
      s2.backWaits (coreOf s.cur) (fun a => l.any (fun b => b.pa / 128 == a / 128)) = false) → RecordReached o x s n l s2 :=
    fun ⟨ready_, aligned, placed, stored, open_, backed⟩ => ⟨ready_, aligned, placed, stored, open_, backed⟩
  refine ⟨fun ready_ off => ?_, fun ready_ off => ?_, fun ready_ off => ?_, fun ready_ off => ?_, fun ready_ off => ?_,
    fun ready_ off => ?_, fun ready_ off => ?_, fun ready_ off => ?_, fun l s2 at_ => ?_, fun l s2 at_ => ?_,
    fun l s2 c has at_ idle back => ?_, fun l s2 c has at_ idle => ?_⟩
  · rw [exec_svsb, execSvsb]
    exact saveForm_misaligned ready_ off
  · rw [exec_svss, execSvss]
    exact saveForm_misaligned ready_ off
  · rw [exec_svacc, execSvacc]
    exact saveForm_misaligned ready_ off
  · rw [exec_svchk, execSvchk]
    exact saveForm_misaligned ready_ off
  · rw [exec_ldsb, execLdsb]
    exact restoreForm_misaligned ready_ off
  · rw [exec_ldss, execLdss]
    exact restoreForm_misaligned ready_ off
  · rw [exec_ldacr, execLdacr]
    exact restoreForm_misaligned ready_ off
  · rw [exec_ldchk, execLdchk]
    exact restoreForm_misaligned ready_ off
  · have saved := svsb_writes (reached at_)
    simp only [storeRecord, storeMarks] at saved
    exact saved
  · exact ⟨svss_resident (reached at_), fun low bad s3 spilled loaded => svss_spilled (reached at_) spilled loaded⟩
  · exact svacc_writes has (reached at_) idle back
  · exact svchk_writes has (reached at_) idle

end Sys2Proof.Laws
end

section
/-! SUPPORT. Restore forms: the header that each refuses, and what each takes back of a record that it takes (R203, R204, R207 to R211). -/
namespace Sys2Proof.Laws

open Machine Safety

/-! ### Headers (R204, R207 to R211) -/

theorem headerBad_of_shape {kind W cap v : Nat} (width : Bool) (other : bits v 0 8 ≠ kind ∨ bits v 8 8 ≠ 1) :
    headerBad kind W cap width v = some (2, 0) := if_pos (by simpa [hdKind] using other)

section
variable {kind W cap v : Nat} {width : Bool} (same : bits v 0 8 = kind) (shape : bits v 8 8 = 1)
include same shape

theorem headerBad_of_width (wide : width = true) (other : bits v 16 16 ≠ W) : headerBad kind W cap width v = some (3, 0) := by
  simp [headerBad, hdKind, same, shape, wide, other]

theorem headerBad_of_count (fits : width = true → bits v 16 16 = W) (more : cap < bits v 32 16) :
    headerBad kind W cap width v = some (4, cap) := by
  cases width <;> simp_all [headerBad, hdKind, hdCount]

theorem headerBad_of_good (fits : width = true → bits v 16 16 = W) (room : bits v 32 16 ≤ cap) :
    headerBad kind W cap width v = none := by
  cases width <;> simp_all [headerBad, hdKind, hdCount]

end

/-! ### What a restore form does with a record -/

/-- What a restore form asks of a header, in any state that its accesses leave. -/
def asksHeader (check : State → Nat → Option (Nat × Nat)) (s : State) (kind cap : Nat) (width : Bool) : Prop :=
  ∀ st : State, crewView st = crewView s.unwait → ∀ v, check st v = headerBad kind s.now.W cap width v

section
variable {o : Op} {x : Args} {s : State} {kind : Nat} {check : State → Nat → Option (Nat × Nat)}
  {pre : State → Nat → Option Out} {f : State → Nat → List RecByte → Nat → List Byte → List Nat → Out} (issues : memReady o x s = true)
include issues

/-- A restore form refuses a record by its header. -/
theorem restoreForm_refuses {hl : List RecByte} {s2 : State} {reason have_ : Nat} (aligned : s.scalar x.a % 64 = 0)
    (placed : s.unwait.recRange (s.scalar x.a) 64 false = .ok (hl, s2)) (idle : s2.recBusy hl = false)
    (taken : (s2.recRead (s.scalar x.a) hl).2.2.1 = none)
    (judged : check (s2.recRead (s.scalar x.a) hl).2.2.2 (ofBytes (s2.recRead (s.scalar x.a) hl).1) = some (reason, have_)) :
    restoreForm o x kind check pre f s = .next ((s2.recRead (s.scalar x.a) hl).2.2.2.takeTrap s.cur 0xA (s.scalar x.a)
      (reason + bits (ofBytes (s2.recRead (s.scalar x.a) hl).1) 32 16 * 2 ^ 8 + have_ * 2 ^ 24) 0) := by
  have cur : (s2.recRead (s.scalar x.a) hl).2.2.2.cur = s.cur :=
    (crewView_cur ((cacheKept_crewView.recRead ..).trans (crewView_of_crewSide (faultKept_crewSide.recRange placed)))).trans
      (unwait_cur s)
  simp only [restoreForm, memIssue_of_memReady _ issues, unwait_scalar, aligned, placed, idle, taken, judged, ← cur]
  rfl

/-- A restore form of a record that it takes has read it whole, and leaves the rest to `f`. -/
theorem restoreForm_takes {l : List RecByte} {hd : Nat} {bs : List Byte} {bad : List Nat} {s5 : State}
    (took : recordRead kind s (s.scalar x.a) = some (l, hd, bs, bad, s5))
    (good : ∀ st : State, crewView st = crewView s.unwait → check st hd = none ∧ pre st (bits hd 32 16) = none) :
    crewView s5 = crewView s.unwait ∧ restoreForm o x kind check pre f s = f s5 (s.scalar x.a) l hd bs bad := by
  unfold recordRead at took
  obtain ⟨aligned, took⟩ := Option.ite_none_left_eq_some.1 took
  split at took
  · cases took
  · next hl s2 placed =>
    obtain ⟨idle, took⟩ := Option.ite_none_left_eq_some.1 took
    have view3 : crewView (s2.recRead (s.scalar x.a) hl).2.2.2 = crewView s.unwait :=
      (cacheKept_crewView.recRead ..).trans (crewView_of_crewSide (faultKept_crewSide.recRange placed))
    dsimp only at took
    split at took
    · next l4 s4 taken placed4 =>
      obtain ⟨idle4, took⟩ := Option.ite_none_left_eq_some.1 took
      obtain ⟨taken4, took⟩ := Option.ite_none_left_eq_some.1 took
      have view4 : crewView s4 = crewView s.unwait := (crewView_of_crewSide (faultKept_crewSide.recRange placed4)).trans view3
      obtain ⟨rfl, rfl, rfl, rfl, rfl⟩ : l4 = l ∧ _ = hd ∧ _ = bs ∧ _ = bad ∧ _ = s5 := by
        simpa only [Option.some.injEq, Prod.mk.injEq] using took
      refine ⟨(cacheKept_crewView.recRead ..).trans view4, ?_⟩
      have header : check _ (ofBytes (s2.recRead (s.scalar x.a) hl).1) = none := (good _ view3).1
      have free : pre s4 (hdCount (ofBytes (s2.recRead (s.scalar x.a) hl).1)) = none := (good s4 view4).2
      simp only [restoreForm, memIssue_of_memReady _ issues, unwait_scalar, Bool.eq_false_iff.2 aligned, placed, Bool.eq_false_iff.2 idle,
        taken, header, placed4, free, Bool.eq_false_iff.2 idle4, Option.not_isSome_iff_eq_none.1 taken4]
      rfl
    · cases took

end

/-- A restore form refuses a header of another kind or shape, of another width, or with more than there is room for. -/
theorem restoreForm_refusals {o : Op} {x : Args} {s : State} {i : Instr} {kind cap : Nat} {width : Bool}
    {check : State → Nat → Option (Nat × Nat)} {pre : State → Nat → Option Out}
    {f : State → Nat → List RecByte → Nat → List Byte → List Nat → Out} (effect : exec i s = restoreForm o x kind check pre f s)
    (asks : asksHeader check s kind cap width) (issues : memReady o x s = true) (aligned : s.scalar x.a % 64 = 0) (hl : List RecByte)
    (s2 : State) (placed : s.unwait.recRange (s.scalar x.a) 64 false = .ok (hl, s2)) (idle : s2.recBusy hl = false)
    (taken : (s2.recRead (s.scalar x.a) hl).2.2.1 = none) :
    let r := s2.recRead (s.scalar x.a) hl
    let h := ofBytes r.1
    let trap := fun reason have_ =>
      exec i s = .next (r.2.2.2.takeTrap s.cur 0xA (s.scalar x.a) (reason + bits h 32 16 * 2 ^ 8 + have_ * 2 ^ 24) 0)
    (bits h 0 8 ≠ kind ∨ bits h 8 8 ≠ 1 → trap 2 0) ∧
    (bits h 0 8 = kind → bits h 8 8 = 1 → width = true → bits h 16 16 ≠ s.now.W → trap 3 0) ∧
    (bits h 0 8 = kind → bits h 8 8 = 1 → (width = true → bits h 16 16 = s.now.W) → cap < bits h 32 16 → trap 4 cap) := by
  intro r h trap
  have view : crewView r.2.2.2 = crewView s.unwait :=
    (cacheKept_crewView.recRead ..).trans (crewView_of_crewSide (faultKept_crewSide.recRange placed))
  have refuses : ∀ {reason have_ : Nat}, headerBad kind s.now.W cap width h = some (reason, have_) → trap reason have_ := fun bad =>
    effect.trans (restoreForm_refuses issues aligned placed idle taken ((asks _ view h).trans bad))
  exact ⟨fun other => refuses (headerBad_of_shape width other),
    fun same shape wide other => refuses (headerBad_of_width same shape wide other),
    fun same shape fits more => refuses (headerBad_of_count same shape fits more)⟩

/-! ### What each form asks -/

theorem ldss_asks (s : State) :
    asksHeader (fun st hd => headerBad 2 st.now.W st.now.place.sslimit true hd) s 2 s.now.place.sslimit true := fun st view v => by
  have place : st.now.place = s.now.place := (congrArg Hart.place (teamKept_of_crewView view).2 :)
  have wide : st.now.W = s.now.W := (congrArg Hart.W (teamKept_of_crewView view).2 :)
  simp only [place, wide]

theorem headerBad_narrow (kind W W' cap v : Nat) : headerBad kind W cap false v = headerBad kind W' cap false v := rfl

theorem ldacr_asks (s : State) :
    asksHeader (fun st hd => headerBad 3 0 (st.kernelOf st.cur).acc false hd) s 3 (s.kernelOf s.cur).acc false := fun st view v => by
  simp only [kernel_found view, headerBad_narrow 3 0 s.now.W]

theorem ldchk_asks (s : State) :
    asksHeader (fun st hd => headerBad 4 0 (st.kernelOf st.cur).chucks false hd) s 4 (s.kernelOf s.cur).chucks false := fun st view v => by
  simp only [kernel_found view, headerBad_narrow 4 0 s.now.W]

theorem ldsb_asks {s : State} (empty : s.now.sb = []) (acked : s.now.uasc = 0) :
    asksHeader (fun st hd => if !st.now.sb.isEmpty || st.now.uasc != 0 then some (1, 0) else headerBad 1 st.now.W 64 true hd) s 1 64
      true := fun st view v => by
  have kept := (teamKept_of_crewView view).2
  have buffer : st.now.sb = [] := (congrArg Hart.sb kept :).trans empty
  have none_ : st.now.uasc = 0 := (congrArg Hart.uasc kept :).trans acked
  have wide : st.now.W = s.now.W := (congrArg Hart.W kept :)
  simp [buffer, none_, wide]

/-! ### LDACR and LDCHK (R209, R210) -/

theorem ldacr_restores {x : Args} {s s5 : State} {l : List RecByte} {hd : Nat} {bs : List Byte} {bad : List Nat} {c : Crew}
    (has : s.crewOf s.cur = some c) (issues : memReady .ldacr x s = true) (took : recordRead 3 s (s.scalar x.a) = some (l, hd, bs, bad, s5))
    (same : bits hd 0 8 = 3) (shape : bits hd 8 8 = 1) (room : bits hd 32 16 ≤ (s.kernelOf s.cur).acc)
    (idle : ∀ i, i < bits hd 32 16 → c.openOn i = false ∧ s.tileBusy c i = false) (back : s.ldaccOut c (bits hd 32 16) = false) :
    exec (.ldacr x) s = .next (((List.range (bits hd 32 16)).foldl (fun u i => u.modCrew c.key (fun q =>
      q.setTile i ((q.tile i).ofImage (recPart bs (recItem 3 0) i)))) s5).modNow Hart.advance) := by
  rw [exec_ldacr, execLdacr]
  obtain ⟨view, takes⟩ := restoreForm_takes issues (check := fun st hd => headerBad 3 0 (st.kernelOf st.cur).acc false hd)
    (pre := tilesBusy) (f := _) took (fun st view =>
      ⟨(ldacr_asks s st view hd).trans (headerBad_of_good same shape (fun h => by cases h) room), tilesBusy_idle view has idle back⟩)
  obtain ⟨c', crew, alike⟩ := crew_found view has
  have key : c'.key = c.key := (congrArg Crew.key alike :)
  rw [takes]
  simp only [crew, key]
  rfl

theorem ldchk_restores {x : Args} {s s5 : State} {l : List RecByte} {hd : Nat} {bs : List Byte} {bad : List Nat} {c : Crew}
    (has : s.crewOf s.cur = some c) (issues : memReady .ldchk x s = true) (took : recordRead 4 s (s.scalar x.a) = some (l, hd, bs, bad, s5))
    (same : bits hd 0 8 = 4) (shape : bits hd 8 8 = 1) (room : bits hd 32 16 ≤ (s.kernelOf s.cur).chucks)
    (idle : bits hd 32 16 = 0 ∨ c.chains = [] ∧ ∀ i, i < bits hd 32 16 → s.chuckLoading c i = false) :
    exec (.ldchk x) s = .next (((List.range (bits hd 32 16)).foldl (fun u i => u.modCrew c.key (fun q =>
      q.setChuck i (Chuck.ofImage (recPart bs (recItem 4 0) i)))) s5).modNow Hart.advance) := by
  rw [exec_ldchk, execLdchk]
  obtain ⟨view, takes⟩ := restoreForm_takes issues (check := fun st hd => headerBad 4 0 (st.kernelOf st.cur).chucks false hd)
    (pre := chucksBusy) (f := _) took (fun st view =>
      ⟨(ldchk_asks s st view hd).trans (headerBad_of_good same shape (fun h => by cases h) room), chucksBusy_idle view has idle⟩)
  obtain ⟨c', crew, alike⟩ := crew_found view has
  have key : c'.key = c.key := (congrArg Crew.key alike :)
  rw [takes]
  simp only [crew, key]
  rfl

/-! ### LDSS (R208) -/

/-- Entries that fit on the split stack need no spill. -/
theorem spill_resident {s : State} {h : Nat} (fits : (s.hart h).stack.length ≤ 16) (fuel : Nat) : s.spill h fuel = .ok s := by
  cases fuel with
  | zero => rfl
  | succ n => exact if_pos fits

/-- The entries that the items of a record give a team of width `W`, the last on top. -/
def restoredStack (W n : Nat) (bs : List Byte) : List SEntry :=
  ((List.range n).map (fun i => SEntry.ofBytes W (recPart bs (entrySize W) i))).reverse

/-- Every item of a record is a split-stack entry that LDSS takes. -/
def stackItemsOk (W n : Nat) (bs : List Byte) : Bool :=
  (List.range n).all (fun i => stackItemOk W (i == 0) (recPart bs (entrySize W) i))

/-- LDSS with a record that it has read whole (R208). -/
def stackTaken (st : State) (va hd : Nat) (bs : List Byte) : Out :=
  if !stackItemsOk st.now.W (hdCount hd) bs then st.restoreCapacity va 5 (hdCount hd) 0
  else match (st.modNow (fun t => { t with stack := restoredStack st.now.W (hdCount hd) bs, spilled := 0 })).spill st.cur (hdCount hd) with
    | .error f => st.privStop .spill 1 f
    | .ok s2 => s2.done

theorem execLdss_eq (x : Args) (s : State) : execLdss x s = restoreForm .ldss x 2
    (fun st hd => headerBad 2 st.now.W st.now.place.sslimit true hd) (fun _ _ => none) (fun st va _ hd bs _ => stackTaken st va hd bs) s := rfl

theorem stackTaken_bad {st : State} {va hd : Nat} {bs : List Byte} (bad : stackItemsOk st.now.W (hdCount hd) bs = false) :
    stackTaken st va hd bs = st.restoreCapacity va 5 (hdCount hd) 0 := if_pos (by rw [bad]; rfl)

theorem stackTaken_resident {st : State} {va hd : Nat} {bs : List Byte} (ok : stackItemsOk st.now.W (hdCount hd) bs = true)
    (fits : hdCount hd ≤ 16) : stackTaken st va hd bs =
      (st.modNow (fun t => { t with stack := restoredStack st.now.W (hdCount hd) bs, spilled := 0 })).done := by
  have resident : ((st.modNow (fun t => { t with stack := restoredStack st.now.W (hdCount hd) bs, spilled := 0 })).hart
      st.cur).stack.length ≤ 16 := by
    rw [hart_modNow, if_pos rfl]
    simpa [restoredStack] using fits
  rw [stackTaken, ok, if_neg (by decide), spill_resident resident]

section
variable {x : Args} {s s5 : State} {l : List RecByte} {hd : Nat} {bs : List Byte} {bad : List Nat} (issues : memReady .ldss x s = true)
  (took : recordRead 2 s (s.scalar x.a) = some (l, hd, bs, bad, s5)) (same : bits hd 0 8 = 2) (shape : bits hd 8 8 = 1)
  (wide : bits hd 16 16 = s.now.W) (room : bits hd 32 16 ≤ s.now.place.sslimit)
include issues took same shape wide room

theorem ldss_takes : teamKept s s5 ∧ exec (.ldss x) s = stackTaken s5 (s.scalar x.a) hd bs := by
  rw [exec_ldss, execLdss_eq]
  obtain ⟨view, takes⟩ := restoreForm_takes issues (check := fun st hd => headerBad 2 st.now.W st.now.place.sslimit true hd)
    (pre := fun _ _ => none) (f := fun st va _ hd bs _ => stackTaken st va hd bs) took (fun st view =>
      ⟨(ldss_asks s st view hd).trans (headerBad_of_good same shape (fun _ => wide) room), rfl⟩)
  exact ⟨teamKept_of_crewView view, takes⟩

theorem ldss_refuses {i : Nat} (below : i < bits hd 32 16)
    (wrong : stackItemOk s.now.W (i == 0) (recPart bs (entrySize s.now.W) i) = false) :
    exec (.ldss x) s = .next (s5.takeTrap s.cur 0xA (s.scalar x.a) (5 + bits hd 32 16 * 2 ^ 8) 0) := by
  obtain ⟨kept, takes⟩ := ldss_takes issues took same shape wide room
  have width : s5.now.W = s.now.W := (congrArg Hart.W kept.2 :)
  have some_wrong : stackItemsOk s5.now.W (hdCount hd) bs = false :=
    List.all_eq_false.2 ⟨i, List.mem_range.2 below, by rw [width, wrong]; decide⟩
  rw [takes, stackTaken_bad some_wrong, ← kept.1, State.restoreCapacity, State.raise, Nat.zero_mul, Nat.add_zero, hdCount]

theorem ldss_restores (ok : ∀ i, i < bits hd 32 16 → stackItemOk s.now.W (i == 0) (recPart bs (entrySize s.now.W) i) = true)
    (fits : bits hd 32 16 ≤ 16) :
    ∃ u : State, exec (.ldss x) s = .next u ∧ u.now.pc = s.now.pc + 12 ∧ registersKept s.now u.now ∧ u.mem = s5.mem ∧
      u.now.stack = restoredStack s.now.W (bits hd 32 16) bs ∧ u.now.spilled = 0 ∧ u.now.exec = s.now.exec ∧ u.now.live = s.now.live := by
  obtain ⟨kept, takes⟩ := ldss_takes issues took same shape wide room
  have width : s5.now.W = s.now.W := (congrArg Hart.W kept.2 :)
  have all_ok : stackItemsOk s5.now.W (hdCount hd) bs = true :=
    List.all_eq_true.2 fun i below => by rw [width]; exact ok i (List.mem_range.1 below)
  obtain ⟨scalars, vectors, predicates, flags⟩ := teamKept_registers kept
  let restored := fun t : Hart => ({ t with stack := restoredStack s.now.W (bits hd 32 16) bs, spilled := 0 } : Hart).advance
  have effect : exec (.ldss x) s = .next (s5.modNow restored) := by
    rw [takes, stackTaken_resident all_ok fits, State.done, modNow_modNow, width]
    rfl
  refine ⟨_, effect, ?_, ?_, modNow_mem .., ?_, ?_, ?_, ?_⟩ <;> rw [modNow_now]
  · exact congrArg (· + 12) (teamKept_pc kept)
  · exact ⟨fun r => scalars r, fun r l => vectors r l, fun r => predicates r, flags⟩
  · rfl
  · rfl
  · exact (congrArg Hart.exec kept.2 :)
  · exact (congrArg Hart.live kept.2 :)

end

/-! ### LDSB (R207) -/

/-- The entries that the items of a record give the store buffer of a team. -/
def restoredStores (st : State) (t : Hart) (n : Nat) (bs : List Byte) (bad : List Nat) : List SbEntry :=
  (List.range n).map (fun i =>
    SbEntry.ofItem t st.nextId (st.itemIo (recPart bs 160 i)) (recPart bs 160 i) (fun q => bad.contains (2 + 5 * i + 1 + q)))

/-- The acknowledgements that a restored team still waits for: those that its record asks for less those that came meanwhile. -/
def stillDue (st : State) (l : List RecByte) (hd : Nat) : Nat :=
  (bits hd 64 16 + 2 ^ 16 - st.natAt (st.readAddr ((l.map RecByte.pa).getD 10 0)) 2) % 2 ^ 16

/-- LDSB with a record that it has read whole (R207). -/
def storesTaken (st : State) (l : List RecByte) (hd : Nat) (bs : List Byte) (bad : List Nat) : State :=
  (st.fresh.2.modMem (fun m => { m with bound := m.bound.filter (fun b => b.tag != bits hd 96 20) })).modNow (fun t => { t with
    ctx := bits hd 96 20, uasc := stillDue st l hd, sb := restoredStores st t (hdCount hd) bs bad })

theorem execLdsb_eq (x : Args) (s : State) : execLdsb x s = restoreForm .ldsb x 1
    (fun st hd => if !st.now.sb.isEmpty || st.now.uasc != 0 then some (1, 0) else headerBad 1 st.now.W 64 true hd)
    (fun _ _ => none) (fun st _ l hd bs bad => (storesTaken st l hd bs bad).done) s := rfl

theorem storesTaken_byte (st : State) (l : List RecByte) (hd : Nat) (bs : List Byte) (bad : List Nat) (a : Nat) :
    ((storesTaken st l hd bs bad).modNow Hart.advance).byte a = st.byte a := by
  rw [modNow_byte, storesTaken, modNow_byte]
  rfl

theorem storesTaken_now (st : State) (l : List RecByte) (hd : Nat) (bs : List Byte) (bad : List Nat) :
    ((storesTaken st l hd bs bad).modNow Hart.advance).now = ({ st.now with
      ctx := bits hd 96 20, uasc := stillDue st l hd, sb := restoredStores st st.now (hdCount hd) bs bad } : Hart).advance :=
  (modNow_now ..).trans (congrArg Hart.advance (modNow_now ..))

theorem ldsb_restores {x : Args} {s s5 : State} {l : List RecByte} {hd : Nat} {bs : List Byte} {bad : List Nat}
    (issues : memReady .ldsb x s = true) (took : recordRead 1 s (s.scalar x.a) = some (l, hd, bs, bad, s5)) (empty : s.now.sb = [])
    (acked : s.now.uasc = 0) (same : bits hd 0 8 = 1) (shape : bits hd 8 8 = 1) (wide : bits hd 16 16 = s.now.W)
    (room : bits hd 32 16 ≤ 64) :
    ∃ u : State, exec (.ldsb x) s = .next u ∧ u.now.pc = s.now.pc + 12 ∧ registersKept s.now u.now ∧ (∀ a, u.byte a = s5.byte a) ∧
      u.now.ctx = bits hd 96 20 ∧ u.now.sb = restoredStores s5 s.now (bits hd 32 16) bs bad ∧ u.now.uasc = stillDue s5 l hd := by
  rw [exec_ldsb, execLdsb_eq]
  obtain ⟨view, takes⟩ := restoreForm_takes issues
    (check := fun st hd => if !st.now.sb.isEmpty || st.now.uasc != 0 then some (1, 0) else headerBad 1 st.now.W 64 true hd)
    (pre := fun _ _ => none) (f := fun st _ l hd bs bad => (storesTaken st l hd bs bad).done) took (fun st view =>
      ⟨(ldsb_asks empty acked st view hd).trans (headerBad_of_good same shape (fun _ => wide) room), rfl⟩)
  have kept := teamKept_of_crewView view
  obtain ⟨scalars, vectors, predicates, flags⟩ := teamKept_registers kept
  refine ⟨_, takes, ?_, ?_, storesTaken_byte s5 l hd bs bad, ?_, ?_, ?_⟩ <;> rw [storesTaken_now]
  · exact congrArg (· + 12) (teamKept_pc kept)
  · exact ⟨fun r => scalars r, fun r l => vectors r l, fun r => predicates r, flags⟩
  · rfl
  · exact (congrArg (fun t => restoredStores s5 t (hdCount hd) bs bad) kept.2 :)
  · rfl

end Sys2Proof.Laws
end

section
/-! OBLIGATION O50. Restore forms take back what a record holds. -/
namespace Sys2Proof.Laws

open Machine Safety

/-- Settles O50: the reads of a record leave the team, its crew and the work of the crew as they were (`cacheKept_crewView`), so that every
form judges the header by what the team had; each then takes back the items of the record. -/
theorem restoreForms : Obligations.RestoreForms := by
  intro x s l hd bs bad s5
  refine ⟨fun ready_ aligned hl s2 placed idle taken => ?_, fun ready_ aligned hl s2 placed idle taken => ?_,
    fun ready_ aligned hl s2 placed idle taken => ?_, fun empty acked ready_ aligned hl s2 placed idle taken => ?_,
    fun took empty acked good => ?_, fun took good => ⟨fun wrong => ?_, fun ok fits => ?_⟩, fun c has took good idle back => ?_,
    fun c has took good idle => ?_⟩
  · exact restoreForm_refusals ((exec_ldss x s).trans (execLdss_eq x s)) (ldss_asks s) ready_ aligned hl s2 placed idle taken
  · exact restoreForm_refusals (exec_ldacr x s) (ldacr_asks s) ready_ aligned hl s2 placed idle taken
  · exact restoreForm_refusals (exec_ldchk x s) (ldchk_asks s) ready_ aligned hl s2 placed idle taken
  · exact restoreForm_refusals ((exec_ldsb x s).trans (execLdsb_eq x s)) (ldsb_asks empty acked) ready_ aligned hl s2 placed idle taken
  · obtain ⟨ready_, took⟩ := took
    obtain ⟨same, shape, wide, room⟩ := good
    obtain ⟨u, effect, pc, registers, bytes, ctx, stores, due⟩ := ldsb_restores ready_ took empty acked same shape (wide rfl) room
    refine ⟨u, effect, pc, registers, bytes, ctx, ?_, due, fun i below => ?_⟩ <;> rw [stores, restoredStores]
    · simp
    · simp [below]
  · obtain ⟨ready_, took⟩ := took
    obtain ⟨same, shape, wide, room⟩ := good
    obtain ⟨i, below, wrong⟩ := wrong
    exact ldss_refuses ready_ took same shape (wide rfl) room below wrong
  · obtain ⟨ready_, took⟩ := took
    obtain ⟨same, shape, wide, room⟩ := good
    exact ldss_restores ready_ took same shape (wide rfl) room ok fits
  · obtain ⟨ready_, took⟩ := took
    obtain ⟨same, shape, -, room⟩ := good
    exact ldacr_restores has ready_ took same shape room idle back
  · obtain ⟨ready_, took⟩ := took
    obtain ⟨same, shape, -, room⟩ := good
    exact ldchk_restores has ready_ took same shape room idle

end Sys2Proof.Laws
end

section
/-! SUPPORT. What the writes of region control blocks leave (R363, R379, R443), and what fault records and they leave of harts, crews and
launches. -/
namespace Sys2Proof.Laws

open Machine

/-- The hub without what work on a sequence may change of it as well: its continuations and block moves. -/
def contAside (u : HubSys) : HubSys := { hubAside u with conts := [], moves := [] }

/-- An observation that fault records leave and that shows neither the continuations of sequences nor which region control blocks are
known. -/
structure RcbKept {β : Type} (obs : State → β) : Prop extends FaultKept obs where
  conts : ∀ (s : State) (f : HubSys → HubSys), (∀ u, contAside (f u) = contAside u) → obs (s.modHub f) = obs s
  rcbs : ∀ (s : State) (f : LaunchSys → List Nat), obs (s.modRun (fun r => { r with rcbs := f r })) = obs s
  device : ∀ (s : State) (f : LaunchSys → List Nat), obs (s.modRun (fun r => { r with devFaults := f r })) = obs s

namespace RcbKept

variable {β : Type} {obs : State → β} (k : RcbKept obs)
include k

theorem noted (s : State) (f g : LaunchSys → List Nat) : obs (s.modRun (fun r => { r with rcbs := f r, devFaults := g r })) = obs s :=
  (k.device (s.modRun (fun r => { r with rcbs := f r })) (fun _ => g s.run)).trans (k.rcbs s f)

theorem putRcb (s : State) (pa st : Nat) : obs (s.putRcb pa st) = obs s := by
  simp only [State.putRcb]
  exact obs_ite obs ((k.event ..).trans ((k.noted _ _ _).trans (k.poke ..))) ((k.noted _ _ _).trans (k.poke ..))

theorem dropMoves (s : State) (c : Cont) (f : BlockMove → Bool) : obs (s.dropMoves c f) = obs s := by
  simp only [State.dropMoves]
  refine (k.conts _ _ (fun _ => by rfl)).trans (foldl_leaves obs (fun st m => ?_) _ s)
  split
  · exact obs_ite obs (k.pokeVirt ..) rfl
  · rfl

theorem setPstate (s : State) (c : Cont) (p rung : Nat) : obs (s.setPstate c p rung) = obs s := by
  simp only [State.setPstate]
  split
  · rfl
  · next read => exact (k.pokeVirt ..).trans (k.readVirt read)

theorem dropCont (s : State) (launch : Nat) : obs (s.dropCont launch) = obs s := by
  refine foldl_leaves obs (fun st c => (k.conts _ _ (fun _ => by rfl)).trans ?_) _ s
  exact obs_ite obs (k.dropMoves ..) ((k.setPstate ..).trans (k.dropMoves ..))

theorem setRcb (s : State) (launch st : Nat) : obs (s.setRcb launch st) = obs s := by
  simp only [State.setRcb]
  split
  · rfl
  · exact obs_ite obs ((k.dropCont ..).trans (k.putRcb ..)) (k.putRcb ..)

/-! ### Paths of region control blocks (R363, R364) -/

theorem noteRcb (s : State) (cx : XCtx) (va : Nat) : obs (s.noteRcb cx va) = obs s := by
  simp only [State.noteRcb]
  split
  · exact k.rcbs _ _
  · rfl

theorem rcbPath (s : State) (cx : XCtx) (n va : Nat) : obs (s.rcbPath cx n va).2 = obs s := by
  induction n generalizing s va with
  | zero => rfl
  | succ n ih =>
    simp only [State.rcbPath]
    split
    · rfl
    · split
      · rfl
      · next read =>
        have here := (k.noteRcb _ cx va).trans (k.readVirt read)
        split
        · exact here
        · exact (ih ..).trans here

end RcbKept

/-- What fault records and region control blocks leave of the harts and of the work of launches. -/
@[irreducible] def launchSide (s : State) : Sparse Hart × List Crew × List Launch × List (Nat × Nat × Nat) × List Load :=
  (s.harts, s.run.crews, s.run.launches, s.run.pending, s.mem.loads)

theorem launchSide_iff {s t : State} : launchSide t = launchSide s ↔ t.harts = s.harts ∧ t.run.crews = s.run.crews ∧
    t.run.launches = s.run.launches ∧ t.run.pending = s.run.pending ∧ t.mem.loads = s.mem.loads := by
  simp only [launchSide, Prod.mk.injEq]

theorem launchSide_of {s t : State} (harts : t.harts = s.harts) (crews : t.run.crews = s.run.crews)
    (launches : t.run.launches = s.run.launches) (pending : t.run.pending = s.run.pending) (loads : t.mem.loads = s.mem.loads) :
    launchSide t = launchSide s := launchSide_iff.2 ⟨harts, crews, launches, pending, loads⟩

theorem rcbKept_launchSide : RcbKept launchSide where
  hub _ _ _ := launchSide_of rfl rfl rfl rfl rfl
  home _ _ _ := launchSide_of rfl rfl rfl rfl rfl
  frame _ _ _ := launchSide_of rfl rfl rfl rfl rfl
  sent _ _ := launchSide_of rfl rfl rfl rfl rfl
  event _ _ := launchSide_of rfl rfl rfl rfl rfl
  poke _ _ _ _ := launchSide_of rfl rfl rfl rfl rfl
  partials _ _ := launchSide_of rfl rfl rfl rfl rfl
  copies _ _ := launchSide_of rfl rfl rfl rfl rfl
  tlbs _ _ := launchSide_of rfl rfl rfl rfl rfl
  counted _ _ _ _ _ _ := obs_ite launchSide rfl (launchSide_of rfl rfl rfl rfl rfl)
  frqs _ _ := launchSide_of rfl rfl rfl rfl rfl
  faults _ _ := launchSide_of rfl rfl rfl rfl rfl
  conts _ _ _ := launchSide_of rfl rfl rfl rfl rfl
  rcbs _ _ := launchSide_of rfl rfl rfl rfl rfl
  device _ _ := launchSide_of rfl rfl rfl rfl rfl

/-- Whose each request is, and what it does. -/
@[irreducible] def reqOwners (s : State) : List (Nat × ReqKind) := s.mem.reqs.map (fun r => (r.hart, r.kind))

theorem reqOwners_of {s t : State} (same : t.mem.reqs = s.mem.reqs) : reqOwners t = reqOwners s := by simp only [reqOwners, same]

theorem faultKept_reqOwners : FaultKept reqOwners where
  hub _ _ _ := reqOwners_of rfl
  home _ _ _ := reqOwners_of rfl
  frame _ _ _ := reqOwners_of rfl
  sent _ _ := reqOwners_of rfl
  event _ _ := reqOwners_of rfl
  poke s by_ l ps := by
    simp only [reqOwners, State.cohPoke, State.modMem, releaseLdp, List.map_map]
    refine List.map_congr_left (fun r _ => ?_)
    simp only [Function.comp_apply]
    split <;> rfl
  partials _ _ := reqOwners_of rfl
  copies _ _ := reqOwners_of rfl
  tlbs _ _ := reqOwners_of rfl
  counted _ _ _ _ _ _ := obs_ite reqOwners rfl (reqOwners_of rfl)
  frqs _ _ := reqOwners_of rfl
  faults _ _ := reqOwners_of rfl

end Sys2Proof.Laws
end

section
/-! SUPPORT. Steps of the distributor: pre-emption, admission, exits and placement of crews, and the start of launch records (R201, R202,
R366 to R374, R378, R379). -/
namespace Sys2Proof.Laws

open Machine Safety

/-! ### Lists of harts -/

/-- What a change of some harts that is its own repetition makes of each hart. -/
theorem hart_foldl_modHart {f : Hart → Hart} (idem : ∀ t, f (f t) = f t) (l : List Nat) (s : State) (j : Nat) :
    (l.foldl (fun st h => st.modHart h f) s).hart j = if j ∈ l then f (s.hart j) else s.hart j := by
  induction l generalizing s with
  | nil => rfl
  | cons h l ih =>
    rw [List.foldl_cons, ih, hart_modHart]
    by_cases here : h = j
    · subst here
      by_cases more : h ∈ l <;> simp [more, idem]
    · simp [here, Ne.symm here]

theorem mem_foldl_modHart (f : Hart → Hart) (l : List Nat) (s : State) : (l.foldl (fun st h => st.modHart h f) s).mem = s.mem :=
  foldl_leaves State.mem (fun _ _ => setHart_mem ..) l s

theorem run_foldl_modHart (f : Hart → Hart) (l : List Nat) (s : State) : (l.foldl (fun st h => st.modHart h f) s).run = s.run :=
  foldl_leaves State.run (fun _ _ => setHart_run ..) l s

theorem hart_modCrew (s : State) (key : Nat) (f : Crew → Crew) (h : Nat) : (s.modCrew key f).hart h = s.hart h := rfl

theorem memoryKept_of_mem {s t : State} (same : t.mem = s.mem) : memoryKept s t := fun a => by rw [State.byte, State.byte, same]

/-! ### Pre-emption (R201, R374) -/

/-- PREEMPT raised in a team: it takes it at its boundary, if it is alive. -/
def preempted (park : Bool) (t : Hart) : Hart := if t.alive then { t with sched := { t.sched with preempt := some park } } else t

theorem preempted_idem (park : Bool) (t : Hart) : preempted park (preempted park t) = preempted park t := by
  by_cases alive : t.alive = true
  · rw [show preempted park t = { t with sched := { t.sched with preempt := some park } } from if_pos alive]
    exact if_pos alive
  · have same : preempted park t = t := if_neg alive
    rw [same, same]

theorem preempted_kept (park : Bool) (t : Hart) : registersKept t (preempted park t) := by
  simp only [preempted]
  split <;> exact ⟨fun _ => rfl, fun _ _ => rfl, fun _ => rfl, rfl⟩

theorem preempted_preempt {park : Bool} {t : Hart} (alive : t.alive = true) : (preempted park t).sched.preempt = some park := by
  rw [preempted, if_pos alive]

theorem raisePreempt_goes {s : State} {crew : Nat} {c : Crew} (found : s.crew? crew = some c) (running : c.draining = false)
    (unraised : c.raised = none) (park : Bool) : s.raisePreempt crew park =
      (c.harts.foldl (fun st h => st.modHart h (preempted park)) s).modCrew crew (fun q => { q with raised := some s.cycles.toNat }) := by
  simp only [State.raisePreempt, found, running, unraised]
  rfl

theorem raisePreempt_merges {s : State} {crew : Nat} {c : Crew} (found : s.crew? crew = some c)
    (leaving : c.draining = true ∨ c.raised.isSome = true) (park : Bool) : s.raisePreempt crew park = s := by
  simp only [State.raisePreempt, found]
  exact if_pos (by simpa using leaving)

theorem preemptRequest_merges {s : State} {crew : Nat} {c : Crew} (found : s.crew? crew = some c)
    (leaving : c.draining = true ∨ c.raised.isSome = true) (park : Bool) : exec (.preemptRequest crew park) s = .next s := by
  simp only [exec_preemptRequest, execPreemptRequest, found, raisePreempt_merges found leaving]

theorem preemptRequest_raises {s : State} {crew : Nat} {c : Crew} (found : s.crew? crew = some c) (running : c.draining = false)
    (unraised : c.raised = none) (park : Bool) : ∃ t : State, exec (.preemptRequest crew park) s = .next t ∧ memoryKept s t ∧
      (∀ h, registersKept (s.hart h) (t.hart h)) ∧
      ∀ h ∈ c.harts, (s.hart h).alive = true → (t.hart h).sched.preempt = some (park && s.parkFits c) := by
  have effect : exec (.preemptRequest crew park) s = .next (s.raisePreempt crew (park && s.parkFits c)) := by
    simp only [exec_preemptRequest, execPreemptRequest, found]
  rw [raisePreempt_goes found running unraised] at effect
  have harts : ∀ h, (c.harts.foldl (fun st h => st.modHart h (preempted (park && s.parkFits c))) s).hart h =
      if h ∈ c.harts then preempted (park && s.parkFits c) (s.hart h) else s.hart h :=
    hart_foldl_modHart (preempted_idem _) c.harts s
  refine ⟨_, effect, memoryKept_of_mem (mem_foldl_modHart ..), fun h => ?_, fun h mem alive => ?_⟩ <;> rw [hart_modCrew, harts]
  · split
    · exact preempted_kept ..
    · exact ⟨fun _ => rfl, fun _ _ => rfl, fun _ => rfl, rfl⟩
  · rw [if_pos mem, preempted_preempt alive]

/-- PREEMPT taken at a team's boundary: it goes on in the handler of its kernel (R187, R201). -/
def preemptTaken (t : Hart) (park : Bool) : Hart := { t with
  trap := { t.trap.report t.mode 0x10 t.pc 0 (if park then 2 else 0) 0 with
    tstatus := BitVec.ofNat 64 (putBits t.trap.tstatus.toNat 0 4 (modeRank t.mode + 12)) }
  sched := { t.sched with
    wait := .none, preempt := none, body := none, demote := none, arrived := none, yielded := false, hold := none }
  pc := BitVec.ofNat 64 (t.place.codeStart + 12 * t.place.preemptAt) }

/-- The state that the delivery of PREEMPT to a team of a crew leaves: its held LDPs are answered (R201, R254). -/
def preemptDelivered (s : State) (h : Nat) (park : Bool) (c : Crew) : State :=
  (((s.setHart h (preemptTaken (s.hart h) park)).modCrew c.key (fun q => { q with preemptTaken := true, parkTaken := park })).modCore
    (coreOf h) (fun k => { k with acqs := k.acqs.filter (· != h) })).modMem (fun m => { m with
      reqs := updWhere (fun q => q.hart == h && q.parked && q.kind.isLdp) (fun q => { q with released := true }) m.reqs })

theorem preemptDelivery_takes {s : State} {h : Nat} {park : Bool} {c : Crew} (due : (s.hart h).sched.preempt = some park)
    (has : s.crewOf h = some c) (alive : (s.hart h).alive = true) (outside : (s.hart h).trap.tstatus.getLsbD 2 = false) :
    exec (.preemptDelivery h) s = .next (preemptDelivered s h park c) := by
  simp only [exec_preemptDelivery, execPreemptDelivery, due, has, alive, outside]
  rfl

theorem preemptDelivered_hart (s : State) (h : Nat) (park : Bool) (c : Crew) (g : Nat) :
    (preemptDelivered s h park c).hart g = if h = g then preemptTaken (s.hart h) park else s.hart g :=
  hart_setHart s h g (preemptTaken (s.hart h) park)

/-- A team whose PREEMPT is due takes it, as R201 says. -/
theorem preemptDelivery_enters {s : State} {h : Nat} {park : Bool} {c : Crew} (due : (s.hart h).sched.preempt = some park)
    (has : s.crewOf h = some c) (alive : (s.hart h).alive = true) (outside : (s.hart h).trap.tstatus.getLsbD 2 = false) :
    let t := s.hart h
    ∃ u : State, exec (.preemptDelivery h) s = .next u ∧ memoryKept s u ∧ registersKept t (u.hart h) ∧
      (u.hart h).pc = BitVec.ofNat 64 (t.place.codeStart + 12 * t.place.preemptAt) ∧ (u.hart h).trap.tcause = 0x10 ∧
      (u.hart h).trap.tpc = t.pc ∧ (u.hart h).trap.tinfo = (if park = true then 2 else 0) ∧ (u.hart h).trap.taddr = 0 ∧
      (u.hart h).sched.preempt = none ∧ (u.hart h).sched.wait = .none ∧ (u.hart h).mode = t.mode ∧ (u.hart h).exec = t.exec ∧
      ∀ g, g ≠ h → u.hart g = s.hart g := by
  have taken : (preemptDelivered s h park c).hart h = preemptTaken (s.hart h) park := by rw [preemptDelivered_hart, if_pos rfl]
  have others : ∀ g, g ≠ h → (preemptDelivered s h park c).hart g = s.hart g := fun g other => by
    rw [preemptDelivered_hart, if_neg (Ne.symm other)]
  refine ⟨_, preemptDelivery_takes due has alive outside, fun a => rfl, ?_⟩
  rw [taken]
  exact ⟨⟨fun _ => rfl, fun _ _ => rfl, fun _ => rfl, rfl⟩, rfl, rfl, rfl, by cases park <;> rfl, rfl, rfl, rfl, rfl, rfl, others⟩

/-! ### A crew that overruns its grace (R374) -/

theorem le_maxN_iff {b : Nat} (pos : 0 < b) (l : List Nat) : b ≤ maxN l ↔ ∃ a ∈ l, b ≤ a := by
  have above : ∀ a, b ≤ l.foldl max a ↔ b ≤ a ∨ ∃ x ∈ l, b ≤ x := by
    induction l with
    | nil => simp
    | cons x l ih =>
      intro a
      rw [List.foldl_cons, ih, le_max_iff]
      simp [or_assoc]
  rw [maxN, above]
  exact or_iff_right (by omega)

/-- A crew with a team that still runs overruns when its grace is over, else when a team last issued after it. -/
theorem overran_iff {s : State} {c : Crew} {r : Nat} (raised : c.raised = some r) :
    ((∃ h ∈ c.harts, (s.hart h).alive = true) → (s.overran c = true ↔ r + graceCycles ≤ s.cycles.toNat)) ∧
    ((∀ h ∈ c.harts, (s.hart h).alive = false) →
      (s.overran c = true ↔ ∃ h ∈ c.harts, r + graceCycles ≤ (s.hart h).sched.lastIssue)) := by
  refine ⟨fun runs => ?_, fun ended => ?_⟩
  · have some_alive : c.harts.any (fun h => (s.hart h).alive) = true := List.any_eq_true.2 runs
    simp only [State.overran, raised, some_alive, if_true, decide_eq_true_eq]
  · have none_alive : c.harts.any (fun h => (s.hart h).alive) = false := List.any_eq_false.2 fun h mem => by rw [ended h mem]; decide
    simp only [State.overran, raised, none_alive, decide_eq_true_eq]
    refine (le_maxN_iff (by simp [graceCycles]) _).trans ?_
    simp only [List.mem_map, exists_exists_and_eq_and]

theorem endLaunch_harts (s : State) (launch status : Nat) : (s.endLaunch launch status).harts = s.harts := by
  simp only [State.endLaunch]
  split
  · rfl
  · split <;> rfl

/-- Every team of a launch's crews stops. -/
theorem stopLaunch_stops {s : State} {c : Crew} (mem : c ∈ s.run.crews) {h : Nat} (member : h ∈ c.harts) :
    ((s.stopLaunch c.launch).hart h).sched.stopped = true := by
  have crews : ∀ (l : List Crew) (st : State), (l.foldl (fun st c => st.modCrew c.key (fun q => { q with discarded := true })) st).harts =
      st.harts := fun l st => foldl_leaves State.harts (fun _ _ => by rfl) l st
  have team : h ∈ ((s.run.crews.filter (fun q => q.launch == c.launch)).map Crew.harts).flatten :=
    List.mem_flatten.2 ⟨c.harts, List.mem_map.2 ⟨c, List.mem_filter.2 ⟨mem, beq_self_eq_true _⟩, rfl⟩, member⟩
  have stopped := hart_foldl_modHart (f := fun t => { t with sched := { t.sched with stopped := true } }) (fun _ => rfl)
    ((s.run.crews.filter (fun q => q.launch == c.launch)).map Crew.harts).flatten s h
  rw [if_pos team] at stopped
  rw [State.hart, State.stopLaunch, crews]
  exact (congrArg (fun t : Hart => t.sched.stopped) stopped :)

theorem preemptTimeout_stops {s : State} {crew : Nat} {c : Crew} (found : s.crew? crew = some c) (running : c.draining = false)
    (kept : c.discarded = false) (late : s.overran c = true) :
    ∃ t : State, exec (.preemptTimeout crew) s = .next t ∧ ∀ h ∈ c.harts, (t.hart h).sched.stopped = true := by
  have effect : exec (.preemptTimeout crew) s =
      .next ((((s.crewFault crew 0x10 0 false 0 0).stopLaunch c.launch).setRcb c.launch 6).endLaunch c.launch 9) := by
    simp only [exec_preemptTimeout, execPreemptTimeout, found, running, kept, late]
    rfl
  refine ⟨_, effect, fun h mem => ?_⟩
  obtain ⟨-, crews, -⟩ := launchSide_iff.1 (rcbKept_launchSide.crewFault s crew 0x10 0 false 0 0)
  obtain ⟨harts, -⟩ := launchSide_iff.1 (rcbKept_launchSide.setRcb ((s.crewFault crew 0x10 0 false 0 0).stopLaunch c.launch) c.launch 6)
  rw [State.hart, endLaunch_harts, harts]
  exact stopLaunch_stops (crews ▸ List.mem_of_find?_eq_some found) mem

/-! ### Pre-emption for a waiting crew (R374) -/

theorem ripe_of {s : State} {l : Launch} (waited : (∃ p ∈ l.saved, p.2 ≠ 1 ∧ sget 0 l.sinces p.1 + waitCycles ≤ s.cycles.toNat) ∨
    (l.next < l.total ∧ l.since + waitCycles ≤ s.cycles.toNat)) : s.ripe l = true := by
  simpa [State.ripe] using waited

theorem admissionWaitExpiry_raises {s : State} {launch : Nat} {l : Launch} {e : Eff} {k : Kernel} {q : Nat × Option Nat}
    {cs : List Crew} {rest : List (List Crew)} (known : s.launch? launch = some l) (eff : l.eff = some e) (kernel : l.kernel = some k)
    (next : l.nextCrew = some q) (runs : l.ended = false) (checked : l.first = true) (busy : s.rcbState (s.rcbAt l 0) ≠ 0)
    (placed : s.rcbState (s.rcbAt l 0) ≤ 3) (ripe : s.ripe l = true) (full : s.admits e k = false)
    (found : (if k.width = 1 then s.run.distThreads else List.range 192).filterMap (fun c => s.victimsFor e k c l.prio) = cs :: rest)
    (victims : ∀ v ∈ cs :: rest, v ≠ []) :
    exec (.admissionWaitExpiry launch) s = .next (cs.foldl (fun st c => st.raisePreempt c.key false) s) := by
  have none_empty : (cs :: rest).any List.isEmpty = false := List.any_eq_false.2 fun v mem => by simpa using victims v mem
  have places : (if (k.width == 1) = true then s.run.distThreads else List.range 192).filterMap (fun c => s.victimsFor e k c l.prio) =
      cs :: rest := by simpa only [beq_iff_eq] using found
  simp only [exec_admissionWaitExpiry, execAdmissionWaitExpiry, known, eff, kernel, next, runs, checked, ripe, full, places, none_empty]
  simp [busy, Nat.not_lt.2 placed]

/-! ### Exits of crews (R202, R348, R403) -/

/-- The crew that a number names after a change of it that keeps its number. -/
theorem crew?_modCrew {s : State} {key : Nat} {c : Crew} (found : s.crew? key = some c) {f : Crew → Crew}
    (kept : ∀ q, (f q).key = q.key) : (s.modCrew key f).crew? key = some (f c) := by
  have same : (fun q : Crew => q.key == key) ∘ (fun q => if (q.key == key) = true then f q else q) = fun q => q.key == key := by
    funext q
    simp only [Function.comp_apply]
    split <;> simp_all
  simp only [State.crew?] at found
  have mine : (c.key == key) = true := List.find?_some (p := fun q : Crew => q.key == key) found
  simp only [State.crew?, State.modCrew, updWhere, List.find?_map, same, found, Option.map_some, mine, if_true]

/-- What a crew that ends without a save loses of the tags bound to its records leaves harts, crews and loads, and whose the requests
are. -/
theorem loseBound_leaves (s : State) (c : Crew) : launchSide (s.loseBound c) = launchSide s ∧ reqOwners (s.loseBound c) = reqOwners s := by
  simp only [State.loseBound]
  generalize s.mem.bound.filter _ = l
  have side := foldl_leaves launchSide (fun st (b : Bound) => rcbKept_launchSide.crewFault st c.key 0x23 b.team false 0 b.recVa) l s
  have owners := foldl_leaves reqOwners (fun st (b : Bound) => faultKept_reqOwners.crewFault st c.key 0x23 b.team false 0 b.recVa) l s
  generalize l.foldl _ s = u at side owners ⊢
  refine ⟨Eq.trans (launchSide_of (s := u) rfl rfl rfl rfl rfl) side, Eq.trans ?_ owners⟩
  simp only [reqOwners, State.modMem, List.map_map]
  refine List.map_congr_left (fun r _ => ?_)
  simp only [Function.comp_apply]
  split <;> rfl

/-- The state in which a crew's exit has settled or cancelled what it has under way, its records apart (R202, R348, R403). -/
def exited (s : State) (crew : Nat) (c : Crew) (saves : Bool) : State :=
  let mine (h : Nat) : Bool := c.harts.contains h
  ((((s.modCrew crew (fun q => { q.cancelOpen with draining := true, saveFlag := saves })).modRun (fun r => { r with
    ops := updWhere (fun o => o.crew == crew && o.kind.diesWithCrew && o.status.isNone)
      (fun o => { o with cancelled := true, silent := true }) r.ops })).modMem (fun m => { m with
    loads := m.loads.filter (fun l => !mine l.hart)
    replies := m.replies.filter (fun r => !mine r.hart || r.counts.isSome)
    reqs := m.reqs.filter (fun r => !mine r.hart || r.kind.writes) })).modHub (fun u => { u with
      kvx := u.kvx.filter (fun k => !mine k.hart) })).modCore c.core (fun k => { k with acqs := k.acqs.filter (fun h => !mine h) })

theorem cancelOpen_key (c : Crew) : c.cancelOpen.key = c.key := rfl

theorem cancelOpen_closes (c : Crew) : ∀ ch ∈ c.cancelOpen.chains, ch.closed = true := by
  intro ch mem
  obtain ⟨h, -, rfl⟩ := List.mem_map.1 mem
  cases closed : h.closed <;> simp [closed]

theorem crewExit_settles {s : State} {crew : Nat} {c : Crew} (found : s.crew? crew = some c) (running : c.draining = false)
    (left : ∀ h ∈ c.harts, (s.hart h).alive = false) (intime : s.overran c = false ∨ c.discarded = true) :
    ∃ (t : State) (k : Crew), exec (.crewExit crew) s = .next t ∧ t.crew? crew = some k ∧ k.draining = true ∧
      (∀ ch ∈ k.chains, ch.closed = true) ∧ (∀ l ∈ t.mem.loads, l.hart ∉ c.harts) ∧
      (∀ r ∈ t.mem.reqs, r.hart ∈ c.harts → r.kind.writes = true) ∧ t.harts = s.harts := by
  obtain ⟨saves, effect⟩ : ∃ saves : Bool, exec (.crewExit crew) s =
      .next (if saves then exited s crew c saves else (exited s crew c saves).loseBound c) := by
    have none_alive : c.harts.any (fun h => (s.hart h).alive) = false := List.any_eq_false.2 fun h mem => by rw [left h mem]; decide
    have settled : (s.overran c && !c.discarded) = false := by rcases intime with h | h <;> simp [h]
    simp only [exec_crewExit, execCrewExit, found, running, none_alive, settled]
    exact ⟨_, rfl⟩
  have sides : ∀ u : State, u = (if saves then exited s crew c saves else (exited s crew c saves).loseBound c) →
      launchSide u = launchSide (exited s crew c saves) ∧ reqOwners u = reqOwners (exited s crew c saves) := by
    rintro u rfl
    split
    · exact ⟨rfl, rfl⟩
    · exact loseBound_leaves ..
  generalize (if saves then exited s crew c saves else (exited s crew c saves).loseBound c) = u at effect sides
  obtain ⟨side, owners⟩ := sides u rfl
  obtain ⟨harts, crews, -, -, loads⟩ := launchSide_iff.1 side
  have crew' : u.crew? crew = some { c.cancelOpen with draining := true, saveFlag := saves } := by
    rw [State.crew?, crews]
    exact crew?_modCrew found (fun q => cancelOpen_key q)
  refine ⟨u, _, effect, crew', rfl, cancelOpen_closes c, fun l mem => ?_, fun r mem mine => ?_, harts⟩
  · rw [loads] at mem
    simpa using (List.mem_filter.1 mem).2
  · have owned : (r.hart, r.kind) ∈ reqOwners u := by
      rw [reqOwners]
      exact List.mem_map_of_mem mem
    rw [owners, reqOwners] at owned
    obtain ⟨q, held, same⟩ := List.mem_map.1 owned
    have kept := (List.mem_filter.1 held).2
    obtain ⟨hart, kind⟩ := Prod.mk.injEq .. ▸ same
    simpa [hart, kind, mine] using kept

end Sys2Proof.Laws
end

section
/-! SUPPORT. Steps of continuations, block moves, migrations and sweeps that go straight to what the model says they do (R319, R417 to R426,
R443 to R447). -/
namespace Sys2Proof.Laws

open Machine Safety

/-! ### Continuations and block moves (R443 to R447) -/

theorem rungExpiry_enters {s : State} {cont : Nat} {k : Cont} (found : s.cont? cont = some k) (descending : k.pstate = 1)
    (more : (rungOf k.ladder (k.rung + 1)).2.1 = true) (dwelt : k.rungAt + (rungOf k.ladder k.rung).2.2 ≤ s.cycles.toNat)
    (free : s.contHeld k = none) : exec (.rungExpiry cont) s = .next ((s.enterRung k (k.rung + 1)).pump k.id) := by
  simp [execRungExpiry, found, descending, more, Nat.not_lt.2 dwelt, free]

theorem blockMoveDone_ends {s : State} {move : Nat} {m : BlockMove} {k : Cont}
    (found : s.hub.moves.find? (fun q => q.id == move && !q.up && q.ended) = some m) (sequence : s.cont? m.cont = some k)
    (free : s.contHeld k = none) : exec (.blockMoveDone move) s = .next
      (((((if m.failed = true then s else s.demoted k m).dropMove move).descendOn k m).pump k.id).finishCont k.id) := by
  simp [execBlockMoveDone, found, sequence, free]

theorem blockSettle_ends {s : State} {move : Nat} {m : BlockMove} {k : Cont}
    (found : s.hub.moves.find? (fun q => q.id == move && q.up && q.ended) = some m) (sequence : s.cont? m.cont = some k)
    (free : s.contHeld k = none) (stage : k.pstate ≠ 2) :
    let s0 := if 2 ≤ k.pstate then s.bump (migKey k.guest 0x24) else s
    let s1 := (s0.promoted k m).dropMove move
    let s2 := if m.failed = true then s1.kvFault k.launch ((k.btab + 8 * m.block) % 2 ^ 64) else s1
    exec (.blockSettle move) s = .next (((s2.descendOn k m).pump (s2.current k).id).finishCont k.id) := by
  simp [execBlockSettle, found, sequence, free, stage]

/-! ### Migration commands (R417, R418, R427) -/

theorem migrationCommandTake_waits {s : State} {c : MigCmd} {rest : List MigCmd} (runs : s.quiesced = false)
    (head : s.hub.migQueue = c :: rest)
    (waits : ∃ h, c.hart = some h ∧ (s.releasedBefore h c.before = false ∨ s.backWaits (coreOf h) (fun _ => true) = true)) :
    exec .migrationCommandTake s = .next s := by
  obtain ⟨h, issuer, waits⟩ := waits
  rcases waits with waits | waits <;> simp [execMigrationCommandTake, runs, head, issuer, waits]

/-- The state in which a command that the migration engine takes is checked: its issuer's writes are visible (R280). -/
def takenFrom (s : State) (c : MigCmd) (rest : List MigCmd) : State :=
  ((c.hart.map (fun h => s.release (coreOf h) 4)).getD s).modHub (fun u => { u with migQueue := rest })

/-- What the migration engine does with a command that it takes (R417 to R419). -/
def commandTaken (s : State) (c : MigCmd) : State :=
  if c.bad then s.migDone c 12
  else if bits c.cmd 0 4 == 1 then
    (if !bit (s.natAt (s.rdtAt (bits c.cmd 16 8)) 1) 0 then s.migDone c 13 else s.startSweep c)
  else match c.walk with
    | some leaf => s.takeWalk c leaf
    | none =>
      match s.checkMove c with
      | .ok (f, n, leaf, dest) => s.queueMig c f n leaf dest
      | .error st => s.refuse c st

theorem migrationCommandTake_takes {s : State} {c : MigCmd} {rest : List MigCmd} (runs : s.quiesced = false)
    (head : s.hub.migQueue = c :: rest) (numbered : c.handle ≠ 0)
    (ready : ∀ h, c.hart = some h → s.releasedBefore h c.before = true ∧ s.backWaits (coreOf h) (fun _ => true) = false) :
    exec .migrationCommandTake s = .next (commandTaken (takenFrom s c rest) c).feedAll := by
  have goes : c.hart.all (fun h => s.releasedBefore h c.before && !s.backWaits (coreOf h) (fun _ => true)) = true := by
    cases issuer : c.hart with
    | none => rfl
    | some h =>
      obtain ⟨released, back⟩ := ready h issuer
      simp [released, back]
  have handled : (c.handle == 0) = false := beq_eq_false_iff_ne.2 numbered
  simp only [exec_migrationCommandTake, execMigrationCommandTake, runs, head, goes, handled]
  rfl

theorem commandTaken_bad {s : State} {c : MigCmd} (bad : c.bad = true) : commandTaken s c = s.migDone c 12 := if_pos bad

theorem commandTaken_sweep {s : State} {c : MigCmd} (good : c.bad = false) (sweep : bits c.cmd 0 4 = 1) :
    commandTaken s c = if bit (s.natAt (s.rdtAt (bits c.cmd 16 8)) 1) 0 = true then s.startSweep c else s.migDone c 13 := by
  simp only [commandTaken, good, sweep]
  cases bit (s.natAt (s.rdtAt (bits c.cmd 16 8)) 1) 0 <;> rfl

theorem commandTaken_move {s : State} {c : MigCmd} (good : c.bad = false) (move : bits c.cmd 0 4 = 0) (page : c.walk = none) :
    (∀ f n leaf dest, s.checkMove c = .ok (f, n, leaf, dest) → commandTaken s c = s.queueMig c f n leaf dest) ∧
      ∀ st, s.checkMove c = .error st → commandTaken s c = s.refuse c st := by
  refine ⟨fun f n leaf dest checked => ?_, fun st checked => ?_⟩ <;> simp only [commandTaken, good, move, page, checked] <;> rfl

theorem refuse_unpinned {s : State} {c : MigCmd} {st : Nat} (other : st ≠ 4) : s.refuse c st = s.migDone c st := by
  simp [State.refuse, other]

theorem migrationDoorbell_queues {s : State} (service : Nat) (room : s.hub.migQueue.length < migQueueLen) :
    ∃ (t : State) (c : MigCmd), exec (.migrationDoorbell service) s = .next t ∧ t.hub.migQueue = s.hub.migQueue ++ [c] ∧
      c.cmd = ofBytes (s.window64 service) ∧ sget 0 t.hub.handles service = c.handle ∧ t.harts = s.harts ∧ t.mem = s.mem := by
  refine ⟨s.submitWindow service, ⟨ofBytes (s.window64 service), (s.migNumber (ofBytes (s.window64 service))
    (bits (ofBytes (s.window64 service)) 8 6)).1, none, none, 0, none, none, 0, 0⟩, ?_, rfl, rfl, ?_, rfl, rfl⟩
  · simp only [exec_migrationDoorbell, execMigrationDoorbell, ge_iff_le, if_neg (Nat.not_le.2 room)]
  · simp [State.submitWindow]

theorem migrationDoorbell_waits {s : State} (service : Nat) (full : migQueueLen ≤ s.hub.migQueue.length) :
    exec (.migrationDoorbell service) s = .next s := by
  simp only [exec_migrationDoorbell, execMigrationDoorbell, ge_iff_le, if_pos full]

/-! ### A migration starts (R419, R426, R429) -/

theorem frame_modFrame_same (s : State) (f : Nat) (g : FrameRec → FrameRec) : (s.modFrame f g).frame f = g (s.frame f) := by
  simp [State.frame, State.modFrame]

/-- A fold stays where each of its steps does. -/
theorem foldl_stays {σ α : Type} {f : σ → α → σ} {b : σ} {l : List α} (stays : ∀ a ∈ l, f b a = b) : l.foldl f b = b := by
  induction l with
  | nil => rfl
  | cons a l ih => rw [List.foldl_cons, stays a List.mem_cons_self, ih fun x mem => stays x (List.mem_cons_of_mem _ mem)]

/-- The state in which a migration has its place and its part of the rate of its home (R419, R426). -/
def migrationStarted (s : State) (mig : Nat) (m : Mig) (h : Nat) : State :=
  let k := s.cycles.toNat / 2 ^ 20
  let used := if (s.home h).period == k then (s.home h).started else 0
  ((s.modHub (fun u => { u with migs := updWhere (fun q => q.id == mig) (fun q => { q with st := .moving }) u.migs })).modHome h
    (fun q => { q with period := k, started := min (used + m.frames) (max used q.mrate) })).modFrame m.src (fun r => { r with mstate := 2 })

theorem migrationStart_starts {s : State} {mig : Nat} {m : Mig} {h : Nat}
    (found : s.hub.migs.find? (fun q => q.id == mig && q.st == .queued) = some m) (home : homeOf (m.src * 4096) = some h)
    (owned : m.tier = 2 → bits (s.natAt (s.readAddr m.leaf) 8) 10 2 ≠ 3 → ∀ i, i < m.frames → s.owns (poolPage (m.dest * 4096) + i) = true)
    (slot : s.runningAt m.src < 16) (rate : (s.home h).mayStart (s.cycles.toNat / 2 ^ 20) m.frames = true) :
    exec (.migrationStart mig) s = .next (migrationStarted s mig m h) := by
  have full : ¬ 16 ≤ s.runningAt m.src := Nat.not_le.2 slot
  simp only [exec_migrationStart, execMigrationStart, found]
  by_cases pool : (m.tier == 2 && bits (s.natAt (s.readAddr m.leaf) 8) 10 2 != 3) = true
  · have both := Bool.and_eq_true_iff.1 pool
    have takes := owned (eq_of_beq both.1) (bne_iff_ne.1 both.2)
    simp only [pool, if_true]
    rw [foldl_stays fun i mem => by
      have here : s.ownStep (poolPage (m.dest * 4096) + i) = (true, s) := if_pos (takes i (List.mem_range.1 mem))
      simp only [here, Bool.and_true]]
    simp only [home, rate, ge_iff_le, full, decide_false, Bool.not_true, Bool.or_false, Bool.false_eq_true, if_false, migrationStarted]
  · simp only [if_neg pool, home, rate, ge_iff_le, full, decide_false, Bool.not_true, Bool.or_false, Bool.false_eq_true, if_false,
      migrationStarted]

theorem migrationStart_moves {s : State} {mig : Nat} {m : Mig} {h : Nat}
    (found : s.hub.migs.find? (fun q => q.id == mig && q.st == .queued) = some m) (home : homeOf (m.src * 4096) = some h)
    (owned : m.tier = 2 → bits (s.natAt (s.readAddr m.leaf) 8) 10 2 ≠ 3 → ∀ i, i < m.frames → s.owns (poolPage (m.dest * 4096) + i) = true)
    (slot : s.runningAt m.src < 16) (rate : (s.home h).mayStart (s.cycles.toNat / 2 ^ 20) m.frames = true) :
    ∃ t : State, exec (.migrationStart mig) s = .next t ∧ (∀ q ∈ t.hub.migs, q.id = mig → q.st = .moving) ∧ t.harts = s.harts ∧
      (t.frame m.src).mstate = 2 := by
  refine ⟨_, migrationStart_starts found home owned slot rate, fun q mem named => ?_, rfl, ?_⟩
  · obtain ⟨p, -, rfl⟩ := List.mem_map.1 mem
    split at named <;> simp_all
  · exact (congrArg FrameRec.mstate (frame_modFrame_same ..) :)

theorem migrationRatePeriod_renews {s : State} {home : Home} (late : (s.home (homeNo home)).period ≠ s.cycles.toNat / 2 ^ 20) :
    ∃ t : State, exec (.migrationRatePeriod home) s = .next t ∧
      t.home (homeNo home) = { s.home (homeNo home) with period := s.cycles.toNat / 2 ^ 20, started := 0 } ∧ memoryKept s t := by
  refine ⟨s.modHome (homeNo home) (fun m => { m with period := s.cycles.toNat / 2 ^ 20, started := 0 }), ?_, ?_, fun a => rfl⟩
  · have other : ((s.home (homeNo home)).period == s.cycles.toNat / 2 ^ 20) = false := beq_eq_false_iff_ne.2 late
    simp only [exec_migrationRatePeriod, execMigrationRatePeriod, other]
    rfl
  · simp [State.home, State.modHome]

theorem mappingNotice_unmoved {s : State} (pkg pa : Nat) (still : s.migOfFrame (s.pageOf (s.recFrame (s.normPa pa / 4096))).1 = none) :
    ∃ t : State, exec (.mappingNotice pkg pa) s = .next t ∧ t.outbox = s.outbox ++ [.mappingReply pkg pa true] ∧
      (t.frame (s.pageOf (s.recFrame (s.normPa pa / 4096))).1).peer = true ∧ t.harts = s.harts ∧ memoryKept s t := by
  refine ⟨(s.modFrame (s.pageOf (s.recFrame (s.normPa pa / 4096))).1 (fun q => { q with peer := true })).send (.mappingReply pkg pa true),
    ?_, rfl, ?_, rfl, fun a => rfl⟩
  · simp only [exec_mappingNotice, execMappingNotice, still]
  · exact congrArg FrameRec.peer (frame_modFrame_same s (s.pageOf (s.recFrame (s.normPa pa / 4096))).1 (fun q => { q with peer := true }))

/-! ### Sweeps (R319) -/

/-- Whether every other member of a region has given a sweep a share that fits a condition. -/
def allShared (s : State) (region : Nat) (f : SweepShare → Bool) : Bool :=
  ((s.membersOf region).filter (· != s.localOf region)).all (fun i =>
    ((s.hub.shares.filter (fun p => p.1 == region)).map Prod.snd).any (fun o => o.replica == i && f o))

theorem allShared_iff (s : State) (region : Nat) (f : SweepShare → Bool) : allShared s region f = true ↔
    ∀ i ∈ s.membersOf region, i ≠ s.localOf region → ∃ p ∈ s.hub.shares, p.1 = region ∧ p.2.replica = i ∧ f p.2 = true := by
  simp [allShared, List.all_eq_true, List.any_eq_true, or_iff_not_imp_left]

/-- The state in which a sweep of a region has what other members gave, and has sent them its own share (R319). -/
def sweepShared (s : State) (region : Nat) (others : List SweepShare) : State := (s.takeShares region others).sendShare region

/-- The state in which this member has rebased a region too (R319). -/
def sweepRebased (s : State) (region : Nat) : State :=
  (s.rebaseRegion region ((s.hub.shares.filter (fun p => p.1 == region)).map Prod.snd)).sendShare region

theorem sweepRebase_goes (s : State) (region : Nat) (others : List SweepShare) : execSweepRebase region others s =
    let t := sweepShared s region others
    if !t.sweeping region then .next t
    else if t.hub.rebased.contains region then .next (if allShared t region SweepShare.done then t.endSweep region else t)
    else if !(allShared t region SweepShare.outqEmpty && (t.outQueue region).isEmpty) then .next t
    else .next (if allShared t region SweepShare.done then (sweepRebased t region).endSweep region else sweepRebased t region) := rfl

theorem sweepRebase_idle {s : State} {region : Nat} {others : List SweepShare}
    (idle : (sweepShared s region others).sweeping region = false) :
    exec (.sweepRebase region others) s = .next (sweepShared s region others) := by
  simp [sweepRebase_goes, idle]

theorem sweepRebase_rebases {s : State} {region : Nat} {others : List SweepShare}
    (runs : (sweepShared s region others).sweeping region = true) (new : region ∉ (sweepShared s region others).hub.rebased)
    (empty : (sweepShared s region others).outQueue region = [])
    (emptied : allShared (sweepShared s region others) region SweepShare.outqEmpty = true) :
    exec (.sweepRebase region others) s = .next (if allShared (sweepShared s region others) region SweepShare.done
      then (sweepRebased (sweepShared s region others) region).endSweep region
      else sweepRebased (sweepShared s region others) region) := by
  simp [sweepRebase_goes, runs, new, empty, emptied]

theorem sweepRebase_rebased {s : State} {region : Nat} {others : List SweepShare}
    (runs : (sweepShared s region others).sweeping region = true) (rebased : region ∈ (sweepShared s region others).hub.rebased) :
    exec (.sweepRebase region others) s = .next (if allShared (sweepShared s region others) region SweepShare.done
      then (sweepShared s region others).endSweep region else sweepShared s region others) := by
  simp [sweepRebase_goes, runs, rebased]

end Sys2Proof.Laws
end

section
/-! SUPPORT. What the work of the hub on sequences and migrations leaves (R378, R379, R417 to R419, R425, R427, R442 to R447), said once for
every observation of the state that none of its writes shows in. -/
namespace Sys2Proof.Laws

open Machine

namespace CacheKept

variable {β : Type} {obs : State → β} (k : CacheKept obs)
include k

theorem acquire (s : State) (core scope : Nat) : obs (s.acquire core scope) = obs s := by
  simp only [State.acquire]
  exact obs_ite obs rfl (obs_ite obs (k.l1 ..) ((k.clusters ..).trans (k.l1 ..)))

end CacheKept

/-- An observation of the state that shows nothing of harts, cores, launches and their completions, nor of what is numbered. -/
structure WorkKept {β : Type} (obs : State → β) : Prop extends CacheKept obs, RcbKept obs where
  registers : ∀ (s : State) (h : Nat) (f : Hart → Hart), obs (s.modHart h f) = obs s
  cores : ∀ (s : State) (c : Nat) (f : Core → Core), obs (s.modCore c f) = obs s
  windows : ∀ (s : State) (a : Nat) (f : Window → Window), obs (s.modWindow a f) = obs s
  launches : ∀ (s : State) (id : Nat) (f : Launch → Launch), obs (s.modLaunch id f) = obs s
  pending : ∀ (s : State) (f : LaunchSys → List (Nat × Nat × Nat)) (g : LaunchSys → Sparse Nat),
    obs (s.modRun (fun r => { r with pending := f r, slots := g r })) = obs s
  fresh : ∀ s : State, obs s.fresh.2 = obs s

namespace WorkKept

variable {β : Type} {obs : State → β} (k : WorkKept obs)
include k

/-! ### Completions and commands (R393, R417, R425) -/

theorem recordStatus (s : State) (v status clock : Nat) : obs (s.recordStatus v status clock) = obs s := by
  simp only [State.recordStatus, k.windows]

theorem fillFuture (s : State) (hart : Nat) (dreg : Option Nat) (handle : Word) (status scope clock : Nat) :
    obs (s.fillFuture hart dreg handle status scope clock) = obs s := by
  unfold State.fillFuture
  split
  · rfl
  · simp only [State.observe, State.clockTo, apply_ite obs, k.cores, k.acquire, k.registers, ite_self]

theorem endPromo (s : State) (leaf status : Nat) : obs (s.endPromo leaf status) = obs s := by
  simp only [State.endPromo]
  exact k.hub _ _ (fun _ => by rfl)

theorem modMove (s : State) (id : Nat) (f : BlockMove → BlockMove) : obs (s.modMove id f) = obs s := k.conts _ _ (fun _ => by rfl)

theorem dropMove (s : State) (id : Nat) : obs (s.dropMove id) = obs s := k.conts _ _ (fun _ => by rfl)

theorem migDone (s : State) (c : MigCmd) (status : Nat) : obs (s.migDone c status) = obs s := by
  have block : ∀ (st : State) (f : HubSys → List BlockMove), obs (st.modHub (fun u => { u with moves := f u })) = obs st :=
    fun st f => k.conts _ _ (fun _ => by rfl)
  simp only [State.migDone, State.hubPoke]
  cases c.walk <;> cases c.block <;> cases c.hart <;>
    simp only [k.endPromo, k.bump, block, k.homeWrite, k.fillFuture, k.recordStatus, apply_ite obs, ite_self]

theorem refuse (s : State) (c : MigCmd) (st : Nat) : obs (s.refuse c st) = obs s := by
  simp only [State.refuse]
  exact (k.migDone ..).trans (obs_ite obs (k.notify ..) rfl)

/-! ### Block moves (R445 to R447) -/

theorem setKvEntry (s : State) (c : Cont) (b v : Nat) : obs (s.setKvEntry c b v) = obs s := k.pokeVirt ..

theorem editEntry (s : State) (c : Cont) (b : Nat) (f : Nat → Nat) : obs (s.editEntry c b f) = obs s := by
  simp only [State.editEntry]
  split
  · exact k.setKvEntry ..
  · rfl

theorem addMove (s : State) (c : Cont) (b : Nat) (up : Bool) (tier : Nat) (stage1 front : Bool) :
    obs (s.addMove c b up tier stage1 front) = obs s := by
  simp only [State.addMove]
  exact (k.conts _ _ (fun _ => by rfl)).trans (k.fresh s)

theorem promote (s : State) (c : Cont) (b : Nat) (stage1 front : Bool) : obs (s.promote c b stage1 front) = obs s :=
  (k.addMove ..).trans (k.editEntry ..)

theorem putCont (s : State) (c : Cont) : obs (s.putCont c) = obs s := k.conts _ _ (fun _ => by rfl)

theorem startMove (s : State) (c : Cont) (m : BlockMove) : obs (s.startMove c m) = obs s := by
  have refused : ∀ (f : BlockMove → BlockMove) (q : MigCmd) (st : Nat), obs ((s.modMove m.id f).refuse q st) = obs s :=
    fun f q st => (k.refuse ..).trans (k.modMove ..)
  simp only [State.startMove]
  split
  · refine obs_ite obs ?_ (k.dropMove ..)
    split <;> [exact refused ..; exact k.modMove ..]
  · split
    · refine obs_ite obs (k.dropMove ..) ?_
      split <;> [exact refused ..; exact k.modMove ..]
    · refine obs_ite obs ?_ ?_
      · split <;> [exact refused ..; exact k.modMove ..]
      · split <;> split <;> [exact refused ..; exact k.modMove ..; exact refused ..; exact k.modMove ..]

theorem startMoves (c : Cont) (n : Nat) (s : State) : obs (State.startMoves c n s) = obs s := by
  induction n generalizing s with
  | zero => rfl
  | succ n ih =>
    simp only [State.startMoves]
    split
    · exact obs_ite obs ((ih _).trans (k.startMove ..)) rfl
    · rfl

theorem sendPage (s : State) (m : BlockMove) (i : Nat) (rest : List Nat) : obs (s.sendPage m i rest) = obs s := by
  simp only [State.sendPage]
  split
  · exact k.modMove ..
  · split
    · exact k.modMove ..
    · split
      · exact k.modMove ..
      · exact (k.hub _ _ (fun _ => by rfl)).trans (k.modMove ..)

theorem feed (n : Nat) (s : State) : obs (State.feed n s) = obs s := by
  induction n generalizing s with
  | zero => rfl
  | succ n ih =>
    simp only [State.feed]
    refine obs_ite obs rfl ?_
    split
    · rfl
    · split
      · rfl
      · exact (ih _).trans (k.sendPage ..)

theorem feedAll (s : State) : obs s.feedAll = obs s := k.feed ..

theorem pump (s : State) (id : Nat) : obs (s.pump id) = obs s := by
  simp only [State.pump]
  split
  · exact k.feedAll ..
  · exact (k.feedAll ..).trans (k.startMoves ..)

/-! ### Descent and waking (R378, R443 to R447) -/

theorem rcbRung (s : State) (launch rung : Nat) : obs (s.rcbRung launch rung) = obs s := by
  simp only [State.rcbRung]
  split
  · rfl
  · exact k.poke ..

theorem enterRung (s : State) (c : Cont) (i : Nat) : obs (s.enterRung c i) = obs s := by
  have begun : ∀ (f : BlockMove → Bool) (q : Cont),
      obs ((((s.putCont q).setPstate q 1 i).rcbRung q.launch i).dropMoves q f) = obs s :=
    fun f q => (k.dropMoves ..).trans ((k.rcbRung ..).trans ((k.setPstate ..).trans (k.putCont ..)))
  simp only [State.enterRung]
  refine obs_ite obs (begun ..) ((foldl_leaves obs (fun st b => ?_) _ _).trans (begun ..))
  split
  · exact obs_ite obs (k.addMove ..) rfl
  · rfl

theorem kvFault (s : State) (launch addr : Nat) : obs (s.kvFault launch addr) = obs s := by
  simp only [State.kvFault]
  split
  · split
    · exact k.faultRecord ..
    · rfl
  · rfl

theorem enterDescent (s : State) (launch : Nat) : obs (s.enterDescent launch) = obs s := by
  simp only [State.enterDescent]
  split
  · rfl
  · split
    · rfl
    · refine obs_ite obs rfl ?_
      split
      · exact k.kvFault ..
      · refine (k.enterRung ..).trans ((foldl_leaves obs (fun st b => k.editEntry ..) _ _).trans ((k.putCont ..).trans ?_))
        split
        · exact (k.conts _ _ (fun _ => by rfl)).trans ((k.dropMoves ..).trans (k.fresh s))
        · exact k.fresh s

theorem wakeReady (s : State) (launch : Nat) : obs (s.wakeReady launch) = obs s := (k.setRcb ..).trans (k.launches ..)

theorem finishCont (s : State) (id : Nat) : obs (s.finishCont id) = obs s := by
  have gone : ∀ st : State, obs (st.modHub (fun u => { u with conts := u.conts.filter (fun c => c.id != id) })) = obs st :=
    fun st => k.conts _ _ (fun _ => by rfl)
  simp only [State.finishCont]
  split
  · rfl
  · exact obs_ite obs (obs_ite obs ((gone _).trans (k.setPstate ..)) ((k.putCont ..).trans (k.setPstate ..)))
      (obs_ite obs (gone _) rfl)

theorem stageTwo (s : State) (c : Cont) : obs (s.stageTwo c) = obs s := by
  simp only [State.stageTwo]
  refine (k.finishCont ..).trans ((k.pump ..).trans ((foldl_leaves obs (fun st b => ?_) _ _).trans
    ((k.wakeReady ..).trans ((k.setPstate ..).trans (k.putCont ..)))))
  split
  · exact obs_ite obs (k.promote ..) rfl
  · rfl

theorem wakeLaunch (s : State) (launch : Nat) : obs (s.wakeLaunch launch) = obs s := by
  simp only [State.wakeLaunch]
  split
  · exact (k.wakeReady ..).trans (k.setRcb ..)
  · have staged : ∀ (l : List Nat) (st : State) (c : Cont), obs (l.foldl (fun st b => st.promote c b true false) st) = obs st :=
      fun l st c => foldl_leaves obs (fun _ _ => k.promote ..) l st
    refine obs_ite obs ((k.stageTwo ..).trans ?_) ((k.pump ..).trans ?_) <;>
    · exact (staged ..).trans ((k.setPstate ..).trans ((k.putCont ..).trans ((k.dropMoves ..).trans (k.setRcb ..))))

theorem wakeIf (s : State) (l : Launch) : obs (s.wakeIf l) = obs s := by
  simp only [State.wakeIf]
  refine obs_ite obs ?_ rfl
  split
  · next held =>
    obtain ⟨c, -, held⟩ := Option.bind_eq_some_iff.1 held
    exact k.virtHeld held
  · exact k.wakeLaunch ..

/-! ### Ends of crews (R202, R378, R379) -/

theorem parkRcb (s : State) (launch : Nat) : obs (s.parkRcb launch) = obs s := by
  simp only [State.parkRcb, State.hubPoke]
  have parked := fun f => (k.setRcb (s.modLaunch launch f) launch 4).trans (k.launches ..)
  split
  · exact parked _
  · next l _ =>
    have woken : ∀ u : State, obs u = obs s → obs (if u.quiesced then u else u.wakeIf l) = obs s :=
      fun u same => obs_ite obs same ((k.wakeIf ..).trans same)
    have descended := fun f a n v => (k.enterDescent (((s.modLaunch launch f).setRcb launch 4).homeWrite a n v) launch).trans
      ((k.homeWrite ..).trans (parked f))
    split
    · exact (k.pump ..).trans (woken _ (descended ..))
    · exact woken _ (descended ..)

theorem endLaunch (s : State) (launch status : Nat) : obs (s.endLaunch launch status) = obs s := by
  simp only [State.endLaunch]
  split
  · rfl
  · exact obs_ite obs rfl ((k.pending _ _ _).trans (k.launches ..))

theorem crewOver (s : State) (c : Crew) : obs (s.crewOver c) = obs s := by
  simp only [State.crewOver]
  have left := k.launches s c.launch (s.overOf c)
  split
  · rfl
  · split
    · exact left
    · refine obs_ite obs left (obs_ite obs ((k.endLaunch ..).trans ((k.setRcb ..).trans left)) (obs_ite obs left ?_))
      exact obs_ite obs ((k.parkRcb ..).trans left) ((k.setRcb ..).trans left)

end WorkKept

/-! ### The crews that there are, and the migrations and sweeps -/

/-- The numbers of the crews that there are. -/
@[irreducible] def crewKeys (s : State) : List Nat := s.run.crews.map Crew.key

theorem crewKeys_of {s t : State} (same : t.run.crews = s.run.crews) : crewKeys t = crewKeys s := by simp only [crewKeys, same]

theorem mem_crewKeys {s : State} {key : Nat} : key ∈ crewKeys s ↔ ∃ c ∈ s.run.crews, c.key = key := by
  simp only [crewKeys, List.mem_map]

theorem crewKeys_modHart (s : State) (h : Nat) (f : Hart → Hart) : crewKeys (s.modHart h f) = crewKeys s := crewKeys_of rfl

theorem workKept_crewKeys : WorkKept crewKeys where
  hub _ _ _ := crewKeys_of rfl
  home _ _ _ := crewKeys_of rfl
  frame _ _ _ := crewKeys_of rfl
  sent _ _ := crewKeys_of rfl
  event _ _ := crewKeys_of rfl
  poke _ _ _ _ := crewKeys_of rfl
  partials _ _ := crewKeys_of rfl
  copies _ _ := crewKeys_of rfl
  tlbs _ _ := crewKeys_of rfl
  counted _ _ _ _ _ _ := obs_ite crewKeys rfl (crewKeys_of rfl)
  frqs _ _ := crewKeys_of rfl
  faults _ _ := crewKeys_of rfl
  evicted s of_ line := by
    simp only [State.countEvicted]
    refine (foldl_leaves crewKeys (fun st h => crewKeys_modHart st h _) _ _).trans ?_
    split
    · simp only [crewKeys, State.modRun]
      exact map_updWhere_leaves Crew.key (fun _ => by rfl) _
    · rfl
  clusters _ _ _ := crewKeys_of rfl
  l1 _ _ _ := crewKeys_of rfl
  stamps _ _ _ := crewKeys_of rfl
  released _ _ _ _ _ := crewKeys_of rfl
  conts _ _ _ := crewKeys_of rfl
  rcbs _ _ := crewKeys_of rfl
  device _ _ := crewKeys_of rfl
  registers _ _ _ := crewKeys_of rfl
  cores _ _ _ := crewKeys_of rfl
  windows _ _ _ := crewKeys_of rfl
  launches _ _ _ := crewKeys_of rfl
  pending _ _ _ := crewKeys_of rfl
  fresh _ := crewKeys_of rfl

/-- The migrations under way and the sweeps that run. -/
@[irreducible] def moving (s : State) : List Mig × List (Nat × MigCmd) := (s.hub.migs, s.hub.sweeps)

theorem moving_iff {s t : State} : moving t = moving s ↔ t.hub.migs = s.hub.migs ∧ t.hub.sweeps = s.hub.sweeps := by
  simp only [moving, Prod.mk.injEq]

theorem moving_of {s t : State} (migs : t.hub.migs = s.hub.migs) (sweeps : t.hub.sweeps = s.hub.sweeps) : moving t = moving s :=
  moving_iff.2 ⟨migs, sweeps⟩

theorem moving_modHart (s : State) (h : Nat) (f : Hart → Hart) : moving (s.modHart h f) = moving s := moving_of rfl rfl

theorem workKept_moving : WorkKept moving where
  hub s f kept := moving_of (congrArg HubSys.migs (kept s.hub) :) (congrArg HubSys.sweeps (kept s.hub) :)
  home _ _ _ := moving_of rfl rfl
  frame _ _ _ := moving_of rfl rfl
  sent _ _ := moving_of rfl rfl
  event _ _ := moving_of rfl rfl
  poke _ _ _ _ := moving_of rfl rfl
  partials _ _ := moving_of rfl rfl
  copies _ _ := moving_of rfl rfl
  tlbs _ _ := moving_of rfl rfl
  counted _ _ _ _ _ _ := obs_ite moving rfl (moving_of rfl rfl)
  frqs _ _ := moving_of rfl rfl
  faults _ _ := moving_of rfl rfl
  evicted s of_ line := by
    simp only [State.countEvicted]
    refine (foldl_leaves moving (fun st h => moving_modHart st h _) _ _).trans ?_
    split <;> exact moving_of rfl rfl
  clusters _ _ _ := moving_of rfl rfl
  l1 _ _ _ := moving_of rfl rfl
  stamps _ _ _ := moving_of rfl rfl
  released _ _ _ _ _ := moving_of rfl rfl
  conts s f kept := moving_of (congrArg HubSys.migs (kept s.hub) :) (congrArg HubSys.sweeps (kept s.hub) :)
  rcbs _ _ := moving_of rfl rfl
  device _ _ := moving_of rfl rfl
  registers _ _ _ := moving_of rfl rfl
  cores _ _ _ := moving_of rfl rfl
  windows _ _ _ := moving_of rfl rfl
  launches _ _ _ := moving_of rfl rfl
  pending _ _ _ := moving_of rfl rfl
  fresh _ := moving_of rfl rfl

end Sys2Proof.Laws
end

section
/-! SUPPORT. A crew whose slot is settled (R202, R379), and the ends of migrations and sweeps (R319, R419, R422). -/
namespace Sys2Proof.Laws

open Machine

theorem drainingSettled_frees {s : State} {crew : Nat} {c : Crew} (found : s.crew? crew = some c) (drains : c.draining = true)
    (settled : s.settledCrew c = true)
    (unheld : ∀ l, s.launch? c.launch = some l → s.parks c (s.overOf c l) = true → s.parkGate (s.overOf c l) = none) :
    ∃ t : State, exec (.drainingSettled crew) s = .next t ∧ (∀ k ∈ t.run.crews, k.key ≠ crew) ∧ ∀ h ∈ c.harts, t.hart h = Hart.init := by
  have free : (s.launch? c.launch).bind (fun l => if s.parks c (s.overOf c l) then s.parkGate (s.overOf c l) else none) = none := by
    refine Option.bind_eq_none_iff.2 fun l has => ?_
    split
    · next parks => exact unheld l has parks
    · rfl
  refine ⟨c.harts.foldl (fun st h => st.modHart h (fun _ => Hart.init)) ((((s.release c.core 4).modRun (fun r => { r with
    crews := r.crews.filter (fun q => q.key != crew) })).crewOver c)), ?_, fun k mem named => ?_, fun h mem => ?_⟩
  · simp only [exec_drainingSettled, execDrainingSettled, found, drains, settled, free]
    rfl
  · rw [run_foldl_modHart] at mem
    have left := mem_crewKeys.2 ⟨k, mem, named⟩
    rw [workKept_crewKeys.crewOver] at left
    obtain ⟨q, stays, same⟩ := mem_crewKeys.1 left
    have other := (List.mem_filter.1 stays).2
    simp [same] at other
  · rw [hart_foldl_modHart (f := fun _ => Hart.init) (fun _ => rfl), if_pos mem]

theorem endSweep_ends (s : State) (region : Nat) : ∀ q ∈ (s.endSweep region).hub.sweeps, q.1 ≠ region := by
  intro q mem
  simp only [State.endSweep] at mem
  rw [(moving_iff.1 (foldl_leaves moving (fun st (q : Nat × MigCmd) => workKept_moving.migDone st q.2 0) _ _)).2] at mem
  simpa using (List.mem_filter.1 mem).2

/-- What the notices that wait for a migration are answered with leaves the migrations. -/
theorem moving_notices (first : Bool) (l : List (Nat × Nat)) (s : State) :
    moving (l.foldl (fun st q => st.send (.mappingReply q.1 q.2 first)) s) = moving s :=
  foldl_leaves moving (fun _ _ => workKept_moving.sent ..) l s

theorem dropMig_ends (s : State) (m : Mig) (status : Nat) : ∀ q ∈ (s.dropMig m status).hub.migs, q.id ≠ m.id := by
  intro q mem
  have gone : moving (s.dropMig m status) =
      moving ((s.giveFrames m.dest m.frames).modHub (fun u => { u with migs := u.migs.filter (fun q => q.id != m.id) })) := by
    simp only [State.dropMig]
    refine (workKept_moving.migDone ..).trans ((moving_notices ..).trans ((workKept_moving.dropCells ..).trans ?_))
    exact obs_ite moving (workKept_moving.frame ..) rfl
  rw [(moving_iff.1 gone).1] at mem
  simpa using (List.mem_filter.1 mem).2

theorem abortComplete_ends {s : State} {mig : Nat} {m : Mig}
    (found : s.hub.migs.find? (fun q => q.id == mig && q.st == .aborting) = some m) :
    ∃ t : State, exec (.abortComplete mig) s = .next t ∧ ∀ q ∈ t.hub.migs, q.id ≠ m.id := by
  simp only [exec_abortComplete, execAbortComplete, found]
  exact ⟨_, rfl, dropMig_ends _ _ _⟩

theorem shootdownComplete_ends {s : State} {mig : Nat} {m : Mig}
    (found : s.hub.migs.find? (fun q => q.id == mig && q.st == .shootdown) = some m) (free : s.oldFrameBusy m = false) :
    ∃ t : State, exec (.shootdownComplete mig) s = .next t ∧ ∀ q ∈ t.hub.migs, q.id ≠ mig := by
  simp only [exec_shootdownComplete, execShootdownComplete, found, free, Bool.false_eq_true, if_false]
  refine ⟨_, rfl, fun q mem => ?_⟩
  rw [(moving_iff.1 ((workKept_moving.migDone ..).trans (moving_notices ..))).1] at mem
  simpa using (List.mem_filter.1 mem).2

end Sys2Proof.Laws
end

section
/-! SUPPORT. An access performed at a home leaves which migrations there are, and a line that is copied leaves its migration at the line
after it (R250, R307 to R313, R420). -/
namespace Sys2Proof.Laws

open Machine

@[simp] theorem moving_modMem (s : State) (f : MemSys → MemSys) : moving (s.modMem f) = moving s := moving_of rfl rfl

@[simp] theorem moving_modPkg (s : State) (f : PkgSys → PkgSys) : moving (s.modPkg f) = moving s := moving_of rfl rfl

@[simp] theorem moving_pokeNat (s : State) (a n v : Nat) : moving (s.pokeNat a n v) = moving s := moving_of rfl rfl

@[simp] theorem moving_cohPoke (s : State) (by_ : Nat) (l : List (Nat × Byte)) (ps : List Nat) : moving (s.cohPoke by_ l ps) = moving s :=
  moving_of rfl rfl

@[simp] theorem moving_reply (s : State) (r : Req) (regs : List (Bool × Nat × Nat × Word × Bool)) (stamp : Nat) (ok : Bool) :
    moving (s.reply r regs stamp ok) = moving s := moving_of rfl rfl

@[simp] theorem moving_acknowledge (s : State) (id tag core stamp line order scope : Nat) (dem : Option (Nat × Nat × Bool)) :
    moving (s.acknowledge id tag core stamp line order scope dem) = moving s := moving_of rfl rfl

/-! ### Device registers (R6, R417, R480) -/

@[simp] theorem moving_setFwWord (s : State) (o v : Nat) : moving (s.setFwWord o v) = moving s := by
  simp only [State.setFwWord]
  exact obs_ite moving (workKept_moving.home ..)
    ((workKept_moving.frame ..).trans (obs_ite moving (workKept_moving.dropCells ..) rfl))

@[simp] theorem moving_fwWrite (s : State) (pa size v : Nat) : moving (s.fwWrite pa size v) = moving s := by
  refine foldl_leaves moving (fun st w => ?_) _ s
  dsimp only
  split
  · exact moving_setFwWord ..
  · exact moving_pokeNat ..

@[simp] theorem moving_mmioWrite (s : State) (mode : Mode) (pa size v : Nat) : moving (s.mmioWrite mode pa size v) = moving s := by
  have event : ∀ n, moving (s.raiseEvent n) = moving s := fun n => workKept_moving.event s n
  have window : ∀ k w, moving (s.modHub (fun u => { u with windows := sset [] u.windows k w })) = moving s :=
    fun k w => moving_of rfl rfl
  have command : ∀ k, moving (s.submitWindow k) = moving s := fun k => moving_of rfl rfl
  simp only [State.mmioWrite, State.ringDoorbell, State.startCheckpoint, State.eventConfig]
  simp only [apply_ite moving, moving_fwWrite, moving_modPkg, event, window, command, ite_self]

/-! ### Accesses of data (R250, R265, R283) -/

@[simp] theorem moving_stampFor (s : State) (level core pa order clock : Nat) : moving (s.stampFor level core pa order clock).2 = moving s :=
  moving_of rfl rfl

@[simp] theorem moving_storeL1 (s : State) (core guest : Nat) (stream : Bool) (l : List (Nat × Byte)) (ps : List Nat) :
    moving (s.storeL1 core guest stream l ps) = moving s := (workKept_moving.fitL1 ..).trans (workKept_moving.l1 ..)

@[simp] theorem moving_storeCluster (s : State) (cl guest : Nat) (stream : Bool) (l : List (Nat × Byte)) (ps : List Nat) :
    moving (s.storeCluster cl guest stream l ps) = moving s := (workKept_moving.fitCluster ..).trans (workKept_moving.clusters ..)

@[simp] theorem moving_atPoint (s : State) (h core guest : Nat) (mode : Mode) (level pa n : Nat) (writes : Bool) (f : Nat → Option Nat) :
    moving (s.atPoint h core guest mode level pa n writes f).st = moving s := by
  have fetched := fun fw nol1 stream sec => workKept_moving.fetchSector s core guest fw nol1 stream sec
  have touched := fun a fw line write home => workKept_moving.cohTouch s a guest fw line write home
  simp only [State.atPoint]
  split
  · split
    · exact fetched ..
    · split
      · exact fetched ..
      · exact (workKept_moving.released ..).trans ((moving_storeL1 ..).trans (fetched ..))
  · split
    · split
      · exact fetched ..
      · split
        · exact fetched ..
        · exact (workKept_moving.released ..).trans ((moving_storeCluster ..).trans (fetched ..))
    · split
      · exact touched ..
      · split
        · exact touched ..
        · exact (moving_cohPoke ..).trans (touched ..)

@[simp] theorem moving_lostAccess (s : State) (h cause addr : Nat) : moving (s.lostAccess h cause addr) = moving s :=
  workKept_moving.lostAccess ..

@[simp] theorem moving_crewFault (s : State) (key cause team : Nat) (hv : Bool) (hpc addr : Nat) :
    moving (s.crewFault key cause team hv hpc addr) = moving s := workKept_moving.crewFault ..

@[simp] theorem moving_performData (s : State) (r : Req) : moving (s.performData r) = moving s := by
  have stamped : moving (if r.weak then (0, s) else s.stampFor r.level r.core r.pa r.order r.clock).2 = moving s := by
    split
    · rfl
    · exact moving_stampFor ..
  have touched := fun st a g fw line write home => workKept_moving.cohTouch st a g fw line write home
  unfold State.performData
  generalize (if r.weak then (0, s) else s.stampFor r.level r.core r.pa r.order r.clock) = p at stamped ⊢
  obtain ⟨ts, s0⟩ := p
  dsimp only
  split
  · split
    · cases r.reg <;> simp [apply_ite moving, stamped]
    · cases r.reg <;> simp [apply_ite moving, stamped]
    · split <;> cases r.reg <;> simp [apply_ite moving, stamped]
  · split
    · have here := touched s0 (agentOf r.core) r.guest (r.mode == .fw) (r.pa / 128) true (r.level == 3)
      generalize s0.cohTouch _ _ _ _ _ _ = q at here ⊢
      obtain ⟨s1, ok⟩ := q
      dsimp only at here ⊢
      cases r.reg <;> simp [apply_ite moving, here, stamped]
    · split <;> cases r.reg <;> simp [apply_ite moving, stamped]

/-! ### Accesses of cells (R305 to R313) -/

@[simp] theorem moving_setCellRec (s : State) (pa : Nat) (c : CellRec) : moving (s.setCellRec pa c) = moving s := moving_of rfl rfl

@[simp] theorem moving_setOutQueue (s : State) (r : Nat) (q : List OutRec) : moving (s.setOutQueue r q) = moving s := moving_of rfl rfl

@[simp] theorem moving_setLctr (s : State) (r v : Nat) : moving (s.setLctr r v) = moving s := moving_pokeNat ..

theorem moving_putCell {s t : State} {pa : Nat} {v : CellView} {sibs : List Sib} {vec : Vec} (put : s.putCell pa v sibs vec = some t) :
    moving t = moving s := by
  have used : ∀ l, moving (s.modHub (fun u => { u with poolUsed := l })) = moving s := fun l => moving_of rfl rfl
  simp only [State.putCell] at put
  split at put
  · obtain rfl := Option.some.inj put
    simp [apply_ite moving, used]
  · cases put

@[simp] theorem moving_appendOut (s : State) (pa : Nat) (value : Word) (dot : Nat) (c : Option Vec) (clock : Nat) :
    moving (s.appendOut pa value dot c clock) = moving s := (moving_setOutQueue ..).trans (moving_cohPoke ..)

theorem moving_keepWrite {s t : State} {pa : Nat} {v : CellView} {keep : List Sib} {value : Word} {bad : Bool} {c : Option Vec}
    {clock u : Nat} (wrote : s.keepWrite pa v keep value bad c clock = .ok (u, t)) : moving t = moving s := by
  simp only [State.keepWrite] at wrote
  split_ifs at wrote
  · split at wrote
    · cases wrote
    · next put =>
      cases wrote
      simp [apply_ite moving, moving_putCell put]

@[simp] theorem moving_keepStore (s : State) (pa : Nat) (info value ctx : Word) (bad : Bool) (clock : Nat) :
    moving (s.keepStore pa info value ctx bad clock).2.2.2 = moving s := by
  simp only [State.keepStore]
  split
  · rfl
  · next wrote => exact moving_keepWrite wrote

theorem moving_keepReconcile {s t : State} {pa sub : Nat} {ty : Ty} {info value ctx w : Word} {clock : Nat} {bad : Bool}
    (performed : s.keepReconcile pa sub ty info value ctx clock = some (w, bad, t)) : moving t = moving s := by
  simp only [State.keepReconcile] at performed
  split_ifs at performed
  · cases performed; rfl
  · cases performed; rfl
  · split at performed
    · next wrote => cases performed; exact moving_keepWrite wrote
    · cases performed
  · cases performed; rfl
  · cases performed; rfl
  · split at performed
    · next wrote => cases performed; exact moving_keepWrite wrote
    · cases performed

@[simp] theorem moving_setOvf (s : State) (region cell : Nat) : moving (s.setOvf region cell) = moving s := by
  simp only [State.setOvf]
  split
  · rfl
  · exact moving_setCellRec ..

@[simp] theorem moving_hold (s : State) (region cell : Nat) (h : Held) : moving (s.hold region cell h) = moving s :=
  (moving_setOvf ..).trans (moving_of rfl rfl)

theorem moving_plainCell {s t : State} {pa : Nat} {value : Word} {bad : Bool} (performed : s.plainCell pa value bad = some t) :
    moving t = moving s := by
  simp only [State.plainCell] at performed
  split at performed
  · next wrote =>
    cases performed
    split_ifs at wrote
    exact moving_keepWrite wrote
  · split_ifs at performed
    cases performed
    exact moving_hold ..

@[simp] theorem moving_rejectKeep (s : State) (r : Req) (ts : Nat) : moving (s.rejectKeep r ts) = moving s := by
  simp only [State.rejectKeep]
  split <;> simp

theorem moving_plainCells {s t : State} {l : List Nat} {value : Nat → Word} {bad : Nat → Bool} {o : Option State}
    (start : ∀ u, o = some u → moving u = moving s)
    (performed : l.foldl (fun (acc : Option State) a => acc.bind (fun st => st.plainCell a (value a) (bad a))) o = some t) :
    moving t = moving s := by
  induction l generalizing o with
  | nil => exact start t performed
  | cons a l ih =>
    refine ih (fun u step => ?_) performed
    obtain ⟨st, before, here⟩ := Option.bind_eq_some_iff.1 step
    exact (moving_plainCell here).trans (start st before)

theorem moving_performKeep {s t : State} {r : Req} (performed : s.performKeep r = some t) : moving t = moving s := by
  have stamped : moving (if r.weak then (0, s) else s.stampFor r.level r.core r.pa r.order r.clock).2 = moving s := by
    split
    · rfl
    · exact moving_stampFor ..
  unfold State.performKeep at performed
  generalize (if r.weak then (0, s) else s.stampFor r.level r.core r.pa r.order r.clock) = p at stamped performed
  obtain ⟨ts, s1⟩ := p
  dsimp only at performed stamped
  have touched := workKept_moving.cohTouch s1 (agentOf r.core) r.guest (r.mode == .fw) (r.pa / 128) r.kind.writes true
  generalize s1.cohTouch _ _ _ _ _ _ = q at touched performed
  obtain ⟨s2, ok⟩ := q
  dsimp only at performed touched
  replace touched := touched.trans stamped
  generalize (if r.scope == 4 then ts else 0) = clock at performed
  split at performed
  · cases performed
    exact moving_performData ..
  · split at performed
    · cases performed
    · split at performed
      · cases performed
        exact (moving_rejectKeep ..).trans touched
      · split at performed
        · cases performed
          exact (moving_reply ..).trans touched
        · split at performed <;> cases performed <;> exact (moving_reply ..).trans touched
        · split at performed <;> cases performed
          · exact (moving_reply ..).trans touched
          · exact (moving_reply ..).trans ((moving_keepStore ..).trans touched)
        · obtain ⟨⟨w, bad, u⟩, reconciled, rfl⟩ := Option.map_eq_some_iff.1 performed
          exact (moving_reply ..).trans ((moving_keepReconcile reconciled).trans touched)
        · obtain ⟨u, cells, rfl⟩ := Option.map_eq_some_iff.1 performed
          exact (moving_acknowledge ..).trans ((moving_plainCells (fun v same => by cases same; rfl) cells).trans touched)
        · cases performed
          exact (moving_performData ..).trans touched

theorem moving_performHome {s t : State} {r : Req} (performed : s.performHome r = some t) : moving t = moving s := by
  have before : moving (if r.weak then s.modMem (fun m => { m with reqs := m.reqs.filter (fun q => q.id != r.id) })
      else (s.modMem (fun m => { m with reqs := m.reqs.filter (fun q => q.id != r.id) })).preStrong r.core r.level (r.pa / 128)) =
      moving s := obs_ite moving (moving_modMem ..) ((workKept_moving.preStrong ..).trans (moving_modMem ..))
  simp only [State.performHome] at performed
  generalize (if r.weak then s.modMem _ else _ : State) = s1 at before performed
  split at performed
  · exact (moving_performKeep performed).trans before
  · cases performed
    exact (moving_performData ..).trans before

@[simp] theorem moving_performHeld (s : State) (ids : List Nat) : moving (s.performHeld ids) = moving s := by
  refine foldl_leaves moving (fun st id => ?_) ids s
  split
  · rfl
  · split
    · next performed => exact moving_performHome performed
    · exact moving_modMem ..

/-! ### A line of a migration is copied (R420) -/

theorem moving_copyLine (s : State) (m : Mig) (i : Nat) : moving (s.copyLine m i) = moving s := by
  have records : ∀ (st : State) (f : HubSys → Sparse CellRec), moving (st.modHub (fun u => { u with cells := f u })) = moving st :=
    fun _ _ => moving_of rfl rfl
  simp only [State.copyLine, State.pokeAll, workKept_moving.stamps, records, moving_modMem]

theorem moving_dropEntries (s : State) (h : Nat) (l : List DirEntry) : moving (l.foldl (fun st e => st.dropEntry h e) s) = moving s :=
  foldl_leaves moving (fun _ _ => workKept_moving.dropEntry ..) l s

/-- The migration that a change of those of one number finds is the one that it found before, changed. -/
theorem find_updWhere_mig {l : List Mig} {mig : Nat} {m : Mig} (found : l.find? (fun q => q.id == mig && q.st == .moving) = some m)
    {f : Mig → Mig} (id : ∀ q, (f q).id = q.id) (st : ∀ q, (f q).st = q.st) :
    (updWhere (fun q => q.id == mig) f l).find? (fun q => q.id == mig && q.st == .moving) = some (f m) := by
  have same : (fun q : Mig => q.id == mig && q.st == .moving) ∘ (fun q => if (q.id == mig) = true then f q else q) =
      fun q => q.id == mig && q.st == .moving := by
    funext q
    simp only [Function.comp_apply]
    split <;> simp [id, st]
  have named : m.id == mig := (Bool.and_eq_true_iff.1 (List.find?_some (p := fun q : Mig => q.id == mig && q.st == .moving) found)).1
  simp only [updWhere, List.find?_map, same, found, Option.map_some, named, if_true]

theorem lineCopy_advances {s : State} {mig : Nat} {m : Mig}
    (found : s.hub.migs.find? (fun q => q.id == mig && q.st == .moving) = some m) (store : s.storeFailing m = false)
    (more : m.cursor + 1 ≠ 32 * m.frames) :
    ∃ t : State, exec (.lineCopy mig) s = .next t ∧
      t.hub.migs.find? (fun q => q.id == mig && q.st == .moving) = some { m with cursor := m.cursor + 1, held := [] } := by
  have last : (m.cursor + 1 == 32 * m.frames) = false := beq_eq_false_iff_ne.2 more
  simp only [exec_lineCopy, execLineCopy, found, last, store, Bool.false_and, Bool.false_eq_true, if_false]
  refine ⟨_, rfl, ?_⟩
  rw [(moving_iff.1 (moving_performHeld ..)).1]
  refine find_updWhere_mig (l := (State.copyLine _ m m.cursor).hub.migs) ?_ (fun _ => rfl) (fun _ => rfl)
  rw [(moving_iff.1 (moving_copyLine ..)).1]
  split
  · rw [(moving_iff.1 (workKept_moving.mergeLines ..)).1]
    exact found
  · rw [(moving_iff.1 ((moving_dropEntries ..).trans (workKept_moving.mergeLines ..))).1]
    exact found

end Sys2Proof.Laws
end

section
/-! SUPPORT. Acquisitions, writes of STATE and of wake words, the start of launch records, the binding of queues and the placement of crews
(R362, R367 to R372, R378, R379). -/
namespace Sys2Proof.Laws

open Machine Safety

/-! ### Acquisitions (R372) -/

/-- A team whose acquisition is granted no longer waits for it. -/
def acqReleased (t : Hart) : Hart := if t.sched.wait == .acq then { t with sched := { t.sched with wait := .none } } else t

theorem acqReleased_idem (t : Hart) : acqReleased (acqReleased t) = acqReleased t := by
  by_cases waits : (t.sched.wait == .acq) = true
  · rw [show acqReleased t = { t with sched := { t.sched with wait := .none } } from if_pos waits]
    rfl
  · have same : acqReleased t = t := if_neg waits
    rw [same, same]

theorem acqGrant_reserves {s : State} {core h : Nat} {rest : List Nat} {c : Crew} (head : (s.core core).acqs = h :: rest)
    (has : s.crewOf h = some c) (room : s.canReserve c = true) :
    ∃ t : State, exec (.acqGrant core) s = .next t ∧ memoryKept s t ∧ (∀ k, t.crew? c.key = some k → k.unreserved = false) ∧
      ∀ g ∈ c.harts, (s.hart g).sched.wait = .acq → (t.hart g).sched.wait = .none := by
  refine ⟨c.harts.foldl (fun st h => st.modHart h acqReleased) ((s.modCrew c.key (fun q => { q with unreserved := false })).modCore c.core
    (fun k => { k with acqs := k.acqs.filter (fun h => !c.harts.contains h) })), ?_, ?_, fun k found => ?_, fun g mem waits => ?_⟩
  · simp only [exec_acqGrant, execAcqGrant, head, has, room]
    rfl
  · exact memoryKept_of_mem (mem_foldl_modHart ..)
  · simp only [State.crew?, run_foldl_modHart] at found
    have named := List.find?_some found
    obtain ⟨q, -, rfl⟩ := List.mem_map.1 (List.mem_of_find?_eq_some found)
    split
    · rfl
    · next other => simp [other] at named
  · have stays : ((s.modCrew c.key (fun q => { q with unreserved := false })).modCore c.core
        (fun k => { k with acqs := k.acqs.filter (fun h => !c.harts.contains h) })).hart g = s.hart g := rfl
    rw [hart_foldl_modHart acqReleased_idem, if_pos mem, stays, acqReleased, waits]
    rfl

/-! ### STATE and wake words (R378, R379) -/

/-- The byte that a coherent write at a home that stands leaves where it is read (R420). -/
theorem cohPoke_readByte (s : State) (by_ : Nat) {pa : Nat} (b : Byte) (ps : List Nat) (alive : s.homeFailed pa = false) :
    (s.cohPoke by_ (placed pa [b]) ps).byte (s.readAddr pa) = b := by
  rw [cohPoke_byte]
  refine memory_get_setAll_agree (fun q mem _ => ?_) (.inr ⟨(s.readAddr pa, b), mem_coherentCells.2 ⟨(pa, b), ?_, alive,
    readAddr_mem_writeAddrs s pa, rfl⟩, rfl⟩)
  · obtain ⟨p, put, -, -, value⟩ := mem_coherentCells.1 mem
    simp only [placed, List.length_singleton, List.range_one, List.zip_cons_cons, List.zip_nil_right, List.map_cons, List.map_nil,
      List.mem_singleton] at put
    rw [value, put]
  · simp [placed]

theorem rcbStateWrite_ignored {s : State} {rcb : Nat} {value : BitVec 3} (ignored : value ≠ 0 ∨ (s.rcbState rcb ≠ 6 ∧ s.rcbState rcb ≠ 7)) :
    exec (.rcbStateWrite rcb value) s = .next s := by
  simp only [exec_rcbStateWrite, execRcbStateWrite]
  rw [if_neg]
  simpa [not_and, or_iff_not_imp_left] using ignored

theorem bits_putBits_zero (n : Nat) : bits (putBits n 1 3 0) 1 3 = 0 := by
  simp only [bits, putBits]
  omega

theorem natAt_one (s : State) (a : Nat) : s.natAt a 1 = (s.byte a).toNat := by simp [State.natAt, State.bytesAt, ofBytes]

theorem rcbStateWrite_idles {s : State} {rcb : Nat} {value : BitVec 3} (zero : value = 0) (ended : s.rcbState rcb = 6 ∨ s.rcbState rcb = 7)
    (alive : s.homeFailed rcb = false) :
    ∃ t : State, exec (.rcbStateWrite rcb value) s = .next t ∧ t.rcbState rcb = 0 ∧ t.harts = s.harts := by
  refine ⟨s.putRcb rcb 0, ?_, ?_, rfl⟩
  · simp only [exec_rcbStateWrite, execRcbStateWrite]
    rw [if_pos]
    simpa [zero] using ended
  · have value := cohPoke_readByte s noHart (BitVec.ofNat 8 (putBits (s.natAt (s.readAddr rcb) 1) 1 3 0)) [] alive
    have stands : (s.putRcb rcb 0).byte ((s.putRcb rcb 0).readAddr rcb) =
        (s.cohPoke noHart (placed rcb [BitVec.ofNat 8 (putBits (s.natAt (s.readAddr rcb) 1) 1 3 0)]) []).byte (s.readAddr rcb) := rfl
    rw [State.rcbState, natAt_one, stands, value, BitVec.toNat_ofNat]
    have cleared := bits_putBits_zero (s.natAt (s.readAddr rcb) 1)
    simp only [bits] at cleared ⊢
    omega

theorem wakeAll_none {w : State} (launchless : w.run.launches = []) : w.wakeAll = w := by
  simp only [State.wakeAll, launchless, List.filter_nil, List.foldl_nil, ite_self]

/-! ### Launch records and the queue mapper (R367, R368) -/

/-- HEAD of a queue passes a record. -/
def recordPassed (s : State) (queue n : Nat) : State := s.hubPoke (s.lqDesc queue + 24) 4 ((n + 1) % 2 ^ 32)

theorem launchSide_recordPassed (s : State) (queue n : Nat) : launchSide (recordPassed s queue n) = launchSide s :=
  rcbKept_launchSide.homeWrite ..

theorem recordRefused_pending {s s0 : State} (side : launchSide s0 = launchSide s) (queue n : Nat) (p : Nat × Nat × Nat) :
    ((recordPassed s0 queue n).modRun (fun r => { r with pending := r.pending ++ [p] })).run.pending = s.run.pending ++ [p] ∧
      ((recordPassed s0 queue n).modRun (fun r => { r with pending := r.pending ++ [p] })).run.launches = s.run.launches := by
  obtain ⟨-, -, launches, pending, -⟩ := launchSide_iff.1 ((launchSide_recordPassed s0 queue n).trans side)
  exact ⟨congrArg (· ++ [p]) pending, launches⟩

/-- The state that the start of a record leaves, from one in which it is numbered and its path has been read. -/
def recordStarted (s : State) (queue n id : Nat) (l : Launch) (v : Nat) : State :=
  let s1 := (recordPassed s queue n).modRun (fun r => { r with launches := r.launches ++ [l] })
  (s1.setRcb id 1).hubPoke (s1.rcbAt l 112) 8 v

theorem recordStarted_launches {s s0 : State} (side : launchSide s0 = launchSide s) (queue n id : Nat) (l : Launch) (v : Nat) :
    (recordStarted s0 queue n id l v).run.launches = s.run.launches ++ [l] ∧ (recordStarted s0 queue n id l v).harts = s.harts := by
  obtain ⟨harts, -, launches, -, -⟩ := launchSide_iff.1 ((rcbKept_launchSide.homeWrite ..).trans
    (rcbKept_launchSide.setRcb ((recordPassed s0 queue n).modRun (fun r => { r with launches := r.launches ++ [l] })) id 1))
  obtain ⟨harts0, -, launches0, -, -⟩ := launchSide_iff.1 ((launchSide_recordPassed s0 queue n).trans side)
  exact ⟨launches.trans (congrArg (· ++ [l]) launches0), harts.trans harts0⟩

theorem launchRecordStart_starts {s : State} {queue n v : Nat} (runs : s.quiesced = false) (head : s.lqHead queue = some (n, v)) :
    (s.startOf queue = .no → exec (.launchRecordStart queue) s =
      .next ((s.pathGate (s.guestCtx (s.lqGuest queue)) 9 (bits v 128 64)).getD s)) ∧
    (∀ failed path, s.startOf queue = .go failed path → ∃ (t : State) (l : Launch), exec (.launchRecordStart queue) s = .next t ∧
      t.run.launches = s.run.launches ++ [l] ∧ l.queue = queue ∧ l.number = n ∧ l.kobj = bits v 0 64 ∧ l.params = bits v 64 64 ∧
      l.rcb = bits v 128 64 ∧ l.guest = s.lqGuest queue ∧ l.depFailed = failed ∧ l.handle = launchHandle queue n ∧
      l.first = false ∧ l.next = 0 ∧ t.harts = s.harts) ∧
    (s.startOf queue = .unfit → ∃ (t : State) (id : Nat), exec (.launchRecordStart queue) s = .next t ∧
      t.run.pending = s.run.pending ++ [(id, 5, launchHandle queue n)] ∧ t.run.launches = s.run.launches) := by
  have numbered : launchSide s.fresh.2 = launchSide s := launchSide_of rfl rfl rfl rfl rfl
  simp only [exec_launchRecordStart, execLaunchRecordStart, runs, head, Bool.false_eq_true, if_false]
  refine ⟨fun start => by simp only [start], fun failed path start => ?_, fun start => ?_⟩ <;> simp only [start]
  · have read : ∀ s0 : State, launchSide s0 = launchSide s → ∀ cx va, launchSide (s0.rcbPath cx 9 va).2 = launchSide s :=
      fun s0 side cx va => (rcbKept_launchSide.rcbPath ..).trans side
    rcases s.run.waits.find? _ with _ | w
    · have starts := recordStarted_launches (read _ numbered (s.guestCtx (s.lqGuest queue)) (bits v 128 64)) queue n
      refine ⟨_, _, rfl, (starts ..).1, ?_⟩
      split <;> exact ⟨rfl, rfl, rfl, rfl, rfl, rfl, rfl, rfl, rfl, rfl, (starts ..).2⟩
    · have starts := recordStarted_launches (read _ rfl (s.guestCtx (s.lqGuest queue)) (bits v 128 64)) queue n
      refine ⟨_, _, rfl, (starts ..).1, ?_⟩
      split <;> exact ⟨rfl, rfl, rfl, rfl, rfl, rfl, rfl, rfl, rfl, rfl, (starts ..).2⟩
  · rcases s.run.waits.find? _ with _ | w
    · exact ⟨_, _, rfl, recordRefused_pending numbered ..⟩
    · exact ⟨_, _, rfl, recordRefused_pending rfl ..⟩

theorem queueBinding_binds {s : State} {slot q : Nat} (runs : s.quiesced = false) (slots : slot < 32)
    (free : sget 0 s.trimSlots.run.slots slot = 0) (next : s.trimSlots.nextQueue = some q) :
    ∃ t : State, exec (.queueBinding slot) s = .next t ∧ sget 0 t.run.slots slot = q + 1 ∧ t.run.lastBound = q ∧ t.harts = s.harts ∧
      t.mem = s.mem := by
  refine ⟨s.trimSlots.modRun (fun r => { r with
    slots := sset 0 r.slots slot (q + 1), lastBound := q, turnLeft := if r.served == slot then 0 else r.turnLeft }), ?_, ?_, rfl, rfl, rfl⟩
  · have stays : (decide (slot ≥ 32)) = false := decide_eq_false (Nat.not_le.2 slots)
    simp only [exec_queueBinding, execQueueBinding, runs, stays, free, next]
    rfl
  · simp

/-! ### Placement of crews (R362, R370) -/

theorem acquire_crews (s : State) (core scope : Nat) : (s.acquire core scope).run.crews = s.run.crews := by
  simp only [State.acquire]
  split
  · rfl
  · split <;> rfl

theorem launchSide_crews {s t : State} (same : launchSide t = launchSide s) : t.run.crews = s.run.crews := (launchSide_iff.1 same).2.1

/-- The crew that a placement adds: with the resources that it was given, and nothing else yet (R370). -/
theorem placeCrew_adds (s : State) (l : Launch) (e : Eff) (k : Kernel) (index : Nat) (kind : Option Nat) (core : Nat) (harts : List Nat)
    (fit : Fit) : ∃ c : Crew, (s.placeCrew l e k index kind core harts fit).run.crews = s.run.crews ++ [c] ∧ c.launch = l.id ∧
      c.index = index ∧ c.core = core ∧ c.kernel = k ∧ c.harts = harts ∧ c.unreserved = (k.width != 1) ∧ c.scratch = [] ∧ c.tiles = [] ∧
      c.chucks = [] := by
  have swapped : ∀ st : State, (if kind == some 2 then st.wakeSwap l e else (sget 0 l.wakes index, st)).2.run.crews = st.run.crews := by
    intro st
    split
    · exact launchSide_crews (rcbKept_launchSide.pokeVirt ..)
    · rfl
  have readied : ∀ u : State, (if u.rcbState (u.rcbAt l 0) == 2 then u else u.setRcb l.id 2).run.crews = u.run.crews :=
    fun u => obs_ite (fun v : State => v.run.crews) rfl (launchSide_crews (rcbKept_launchSide.setRcb ..))
  have set : ∀ (f : State → Nat × Nat → Hart) (hs : List (Nat × Nat)) (u : State),
      (hs.foldl (fun st p => st.setHart p.2 (f st p)) u).run.crews = u.run.crews :=
    fun f hs u => foldl_leaves (fun v : State => v.run.crews) (f := fun st p => st.setHart p.2 (f st p)) (fun _ _ => rfl) hs u
  simp only [State.placeCrew, State.fresh]
  exact ⟨_, (readied _).trans ((acquire_crews ..).trans ((set ..).trans (congrArg (· ++ [_]) (swapped _)))), rfl, rfl, rfl, rfl, rfl,
    rfl, rfl, rfl, rfl⟩

section
variable {s : State} {launch : Nat} {l0 : Launch} {slot : Option Nat} {bad : Nat} {l : Launch} {s1 : State} (runs : s.quiesced = false)
  (serves : s.serveNext = some (l0, slot)) (named : l0.id = launch) (unheld : s.placeGate l0 = none)
  (checked : (if l0.first = true then (0, l0, s) else s.firstCheck l0) = (bad, l, s1))
include runs serves named unheld checked

theorem crewPlacement_refuses (refused : bad ≠ 0) :
    exec (.crewPlacement launch) s = .next ((s1.setRcb launch 0).endLaunch launch bad) := by
  have other : (bad != 0) = true := bne_iff_ne.2 refused
  simp only [exec_crewPlacement, execCrewPlacement, runs, serves, named, unheld, checked, other, bne_self_eq_false,
    Bool.false_eq_true, if_false, if_true]

variable {e : Eff} {k : Kernel} {index : Nat} {kind : Option Nat} (good : bad = 0) (eff : l.eff = some e) (kernel : l.kernel = some k)
  (next : l.nextCrew = some (index, kind))
include good eff kernel next

theorem crewPlacement_core {core : Nat} {fit : Fit} (wide : k.width ≠ 1)
    (chosen : (s1.modLaunch launch (fun _ => l)).chooseCore e k = some (core, fit)) :
    ∃ (t : State) (c : Crew), exec (.crewPlacement launch) s = .next t ∧
      t.run.crews = (s1.modLaunch launch (fun _ => l)).run.crews ++ [c] ∧ c.launch = l.id ∧ c.index = index ∧ c.core = core ∧ c.kernel = k ∧
      c.harts = (s1.modLaunch launch (fun _ => l)).teamSlots core fit.p0 k.crew ∧ c.unreserved = true ∧ c.scratch = [] ∧ c.tiles = [] ∧
      c.chucks = [] := by
  obtain ⟨c, crews, launch', index', core', kernel', harts, unreserved, scratch, tiles, chucks⟩ :=
    placeCrew_adds (s1.modLaunch launch (fun _ => l)) l e k index kind core
      ((s1.modLaunch launch (fun _ => l)).teamSlots core fit.p0 k.crew) fit
  have thread : (k.width == 1) = false := beq_eq_false_iff_ne.2 wide
  simp only [exec_crewPlacement, execCrewPlacement, runs, serves, named, unheld, checked, good, eff, kernel, next, thread, chosen,
    bne_self_eq_false, Bool.false_eq_true, if_false]
  refine ⟨_, c, rfl, ?_, launch', index', core', kernel', harts, unreserved.trans (bne_iff_ne.2 wide), scratch, tiles, chucks⟩
  cases slot <;> exact crews

theorem crewPlacement_thread {h : Nat} (narrow : k.width = 1) (chosen : (s1.modLaunch launch (fun _ => l)).chooseThread e [] = some h) :
    ∃ (t : State) (c : Crew), exec (.crewPlacement launch) s = .next t ∧
      t.run.crews = (s1.modLaunch launch (fun _ => l)).run.crews ++ [c] ∧ c.launch = l.id ∧ c.index = index ∧ c.harts = [h] ∧
      c.kernel = k := by
  obtain ⟨c, crews, launch', index', -, kernel', harts, -⟩ :=
    placeCrew_adds (s1.modLaunch launch (fun _ => l)) l e k index kind (coreOf h) [h] ⟨0, 0, 0, 0, 0, 0⟩
  have thread : (k.width == 1) = true := beq_iff_eq.2 narrow
  simp only [exec_crewPlacement, execCrewPlacement, runs, serves, named, unheld, checked, good, eff, kernel, next, thread, chosen,
    bne_self_eq_false, Bool.false_eq_true, if_false, if_true]
  refine ⟨_, c, rfl, ?_, launch', index', harts, kernel'⟩
  cases slot <;> exact crews

end

end Sys2Proof.Laws
end

section
/-! OBLIGATION O54. Steps of the distributor, the hub and migrations (R201, R202, R319, R367 to R372, R374, R378, R379, R417 to R427,
R443). -/
namespace Sys2Proof.Laws

open Machine Safety

/-- The take of a command, clause by clause of what it asks for. -/
theorem migrationCommandTake_commands {s : State} {c : MigCmd} {rest : List MigCmd} (runs : s.quiesced = false)
    (head : s.hub.migQueue = c :: rest) (numbered : c.handle ≠ 0)
    (ready : ∀ h, c.hart = some h → s.releasedBefore h c.before = true ∧ s.backWaits (coreOf h) (fun _ => true) = false) :
    (c.bad = false → bits c.cmd 0 4 = 1 → exec .migrationCommandTake s = .next
      (if bit ((takenFrom s c rest).natAt ((takenFrom s c rest).rdtAt (bits c.cmd 16 8)) 1) 0 = true then (takenFrom s c rest).startSweep c
        else (takenFrom s c rest).migDone c 13).feedAll) ∧
    (c.bad = true → exec .migrationCommandTake s = .next ((takenFrom s c rest).migDone c 12).feedAll) ∧
    (c.bad = false → bits c.cmd 0 4 = 0 → c.walk = none → ∀ f n leaf dest, (takenFrom s c rest).checkMove c = .ok (f, n, leaf, dest) →
      exec .migrationCommandTake s = .next ((takenFrom s c rest).queueMig c f n leaf dest).feedAll) ∧
    (c.bad = false → bits c.cmd 0 4 = 0 → c.walk = none → ∀ st, (takenFrom s c rest).checkMove c = .error st →
      exec .migrationCommandTake s = .next ((takenFrom s c rest).refuse c st).feedAll ∧
        (st ≠ 4 → (takenFrom s c rest).refuse c st = (takenFrom s c rest).migDone c st)) := by
  rw [migrationCommandTake_takes runs head numbered ready]
  refine ⟨fun good sweep => ?_, fun bad => ?_, fun good move page f n leaf dest checked => ?_, fun good move page st checked => ?_⟩
  · rw [commandTaken_sweep good sweep]
  · rw [commandTaken_bad bad]
  · rw [(commandTaken_move good move page).1 f n leaf dest checked]
  · rw [(commandTaken_move good move page).2 st checked]
    exact ⟨rfl, refuse_unpinned⟩

/-- Settles O54, each step by what the model says that it does; what a step does besides shows in none of the crews, migrations and sweeps
that the clauses speak of. -/
theorem crewEvents : Obligations.CrewEvents := by
  unfold Obligations.CrewEvents
  intro s
  refine ⟨fun crew park c found leaving => preemptRequest_merges found leaving park,
    fun crew park c found running unraised => preemptRequest_raises found running unraised park,
    fun h park c due has alive outside => preemptDelivery_enters due has alive outside,
    fun crew c found running kept late => preemptTimeout_stops found running kept late, fun c r raised => overran_iff raised, ?admission,
    fun crew c found running left intime => crewExit_settles found running left intime,
    fun crew c found drains settled unheld => drainingSettled_frees found drains settled unheld, ?record,
    fun slot q runs slots free next => queueBinding_binds runs slots free next, ?placement,
    fun core h rest c head has room => acqGrant_reserves head has room, fun pa data => ⟨rfl, wakeAll_none⟩,
    fun rcb value => ⟨rcbStateWrite_idles, rcbStateWrite_ignored⟩,
    fun cont k found descending more late free => rungExpiry_enters found descending more late free,
    fun move m k found sequence free => blockMoveDone_ends found sequence free,
    fun move m k found sequence free stage => blockSettle_ends found sequence free stage,
    fun c rest runs head waits => migrationCommandTake_waits runs head waits, ?command,
    fun service room => migrationDoorbell_queues service room, fun service full => migrationDoorbell_waits service full,
    fun mig m h found home owned slot rate => migrationStart_moves found home owned slot rate,
    fun home late => migrationRatePeriod_renews late, fun mig m found store more => lineCopy_advances found store more,
    fun mig m found free => shootdownComplete_ends found free, fun mig m found => abortComplete_ends found, ?sweep,
    fun pkg pa still => mappingNotice_unmoved pkg pa still⟩
  case admission =>
    intro launch l e k q cs rest known eff kernel next runs checked busy placed waited full found places victims
    exact admissionWaitExpiry_raises known eff kernel next runs checked busy placed (ripe_of waited) full places (places ▸ victims)
  case record =>
    intro queue n v failed path runs head
    obtain ⟨waits, starts, unfit⟩ := launchRecordStart_starts runs head
    exact ⟨waits, starts failed path, unfit⟩
  case placement =>
    intro launch l0 slot bad l s1 runs serves named unheld checked
    exact ⟨crewPlacement_refuses runs serves named unheld checked, fun e k index kind good eff kernel next =>
      ⟨fun core fit wide chosen => crewPlacement_core runs serves named unheld checked good eff kernel next wide chosen,
        fun h narrow chosen => crewPlacement_thread runs serves named unheld checked good eff kernel next narrow chosen⟩⟩
  case command =>
    intro c rest runs head numbered ready
    have taken : (c.hart.map (fun h => s.release (coreOf h) 4)).getD s =
        (match c.hart with | some h => s.release (coreOf h) 4 | none => s) := by cases c.hart <;> rfl
    have commands := migrationCommandTake_commands runs head numbered ready
    simp only [takenFrom, taken] at commands
    exact commands
  case sweep =>
    intro region others
    have every := fun f => allShared_iff (sweepShared s region others) region f
    refine ⟨sweepRebase_idle, fun runs new empty emptied => ?_, fun runs rebased => ?_, fun st => endSweep_ends st region⟩
    · rw [sweepRebase_rebases runs new empty ((every _).2 emptied)]
      exact ⟨fun complete => congrArg _ (if_pos ((every _).2 complete)), fun left => congrArg _ (if_neg (mt (every _).1 left))⟩
    · rw [sweepRebase_rebased runs rebased]
      exact ⟨fun complete => congrArg _ (if_pos ((every _).2 complete)), fun left => congrArg _ (if_neg (mt (every _).1 left))⟩

end Sys2Proof.Laws
end

section
/-! SUPPORT. What the actions on the scoped caches leave of them: write-backs, invalidations, and what a write-back costs the levels below
(R227 to R229). -/
namespace Sys2Proof.Laws

open Machine

/-! ### One cache (R227 to R229) -/

/-- What a table answers other than its default stands in it. -/
theorem mem_of_sget {α : Type} {d v : α} {m : Sparse α} {k : Nat} (found : sget d m k = v) (set_ : v ≠ d) : (k, v) ∈ m := by
  induction m with
  | nil => exact absurd found.symm set_
  | cons q r ih =>
    rw [sget] at found
    split at found
    · next same => subst same found; exact List.mem_cons_self
    · exact List.mem_cons_of_mem _ (ih found)

/-- A table without some entries still answers with an entry that stays. -/
theorem sget_filter_of_stays {α : Type} {d v : α} {m : Sparse α} {k : Nat} {p : Nat × α → Bool} (found : sget d m k = v) (set_ : v ≠ d)
    (stays : p (k, v) = true) : sget d (m.filter p) k = v := by
  induction m with
  | nil => exact found
  | cons q r ih =>
    rw [sget] at found
    split at found
    · next same =>
      subst same found
      rw [List.filter_cons_of_pos stays, sget, if_pos rfl]
    · next other =>
      rw [List.filter_cons]
      split
      · rw [sget, if_neg other]; exact ih found
      · exact ih found

theorem mem_dirty {c : Cache} {sel : Nat → Bool} {p : Nat × CByte} :
    p ∈ c.dirty sel ↔ (p.1, some p.2) ∈ c.bytes ∧ p.2.dirty = true ∧ sel p.1 = true := by
  simp only [Cache.dirty, List.mem_filterMap]
  constructor
  · rintro ⟨⟨a, q⟩, held, kept⟩
    cases q with
    | none => cases kept
    | some b =>
      obtain ⟨chosen, same⟩ := Option.ite_none_right_eq_some.1 kept
      obtain rfl := Option.some.inj same
      exact ⟨held, by simpa using chosen⟩
  · rintro ⟨held, dirty, chosen⟩
    exact ⟨_, held, by simp [dirty, chosen]⟩

/-- A write-back leaves no dirty byte among those chosen. -/
theorem dirty_clean (c : Cache) (sel : Nat → Bool) : (c.clean sel).dirty sel = [] := by
  refine List.eq_nil_iff_forall_not_mem.2 fun p mem => ?_
  obtain ⟨held, dirty, chosen⟩ := mem_dirty.1 mem
  obtain ⟨⟨a, q⟩, -, left⟩ := List.mem_filterMap.1 held
  cases q with
  | none => cases left
  | some b =>
    dsimp only at left
    split_ifs at left with other whole
    · simp_all
    · obtain ⟨-, cleaned⟩ := Prod.mk.inj (Option.some.inj left)
      simp [← Option.some.inj cleaned] at dirty

/-- An invalidation of clean bytes leaves none of them among those chosen. -/
theorem dirty_of_get_dropClean {c : Cache} {sel : Nat → Bool} {a : Nat} {b : CByte} (held : (c.dropClean sel).get a = some b)
    (chosen : sel a = true) : b.dirty = true := by
  have stays := (List.mem_filter.1 (mem_of_sget held (Option.some_ne_none b))).2
  simpa [chosen] using stays

theorem get_dropClean_of_dirty {c : Cache} (sel : Nat → Bool) {a : Nat} {b : CByte} (held : c.get a = some b) (dirty : b.dirty = true) :
    (c.dropClean sel).get a = some b :=
  sget_filter_of_stays held (Option.some_ne_none b) (by simp [dirty])

@[simp] theorem dirty_dropClean (c : Cache) (sel sel' : Nat → Bool) : (c.dropClean sel).dirty sel' = c.dirty sel' := by
  refine (List.filterMap_filter ..).trans (List.filterMap_congr fun p _ => ?_)
  obtain ⟨a, q⟩ := p
  cases q with
  | none => rfl
  | some b => cases clean : b.dirty <;> simp [clean]

/-- An invalidation of every byte chosen leaves none. -/
theorem get_dropAll (c : Cache) {sel : Nat → Bool} {a : Nat} (chosen : sel a = true) : (c.dropAll sel).get a = none := by
  by_contra held
  have stays := (List.mem_filter.1 (mem_of_sget rfl held)).2
  simp [chosen] at stays

/-! ### The caches of a state -/

@[simp] theorem cluster_setCluster (s : State) (c k : Nat) (q : Cache) :
    (s.setCluster c q).cluster k = if c = k then q else s.cluster k := sget_sset ..

@[simp] theorem core_setL1 (s : State) (c k : Nat) (q : Cache) :
    (s.setL1 c q).core k = if c = k then { s.core c with l1 := q } else s.core k := core_modCore ..

@[simp] theorem setCluster_core (s : State) (c k : Nat) (q : Cache) : (s.setCluster c q).core k = s.core k := rfl

/-! ### A write-back from a cluster cache writes no core (R227, R228, R452, R472) -/

theorem cores_of_coreSide {s t : State} (same : coreSide t = coreSide s) : t.cores = s.cores := (coreSide_iff.1 same).2.2.1

@[simp] theorem cores_countEvicted (s : State) (of_ : Nat → Bool) (line : Nat) : (s.countEvicted of_ line).cores = s.cores := by
  simp only [State.countEvicted]
  refine (foldl_keeps State.cores (fun _ _ => by rfl) _ _).trans ?_
  split <;> rfl

@[simp] theorem cores_evictCopy (s : State) (key : Nat) (c : CohLine) : (s.evictCopy key c).cores = s.cores := by
  have counted : ∀ (st : State) (pa : Nat) (write : Bool), (st.count pa write).cores = st.cores :=
    fun st pa write => cores_of_coreSide (coreSide_count ..)
  have homed : ∀ (st : State) (h : Nat) (f : HomeSt → HomeSt), (st.modHome h f).cores = st.cores :=
    fun st h f => cores_of_coreSide (coreSide_modHome ..)
  simp only [State.evictCopy]
  split
  · simp only [cores_countEvicted, modMem_cores]
  · split <;> simp only [homed, counted, cores_countEvicted, modMem_cores]

@[simp] theorem cores_keepCopy (s : State) (h line a : Nat) (write : Bool) : (s.keepCopy h line a write).cores = s.cores := by
  simp only [State.keepCopy]
  split
  · rfl
  · split
    · split <;> simp only [cores_evictCopy, modMem_cores]
    · rfl

@[simp] theorem cores_cohTouch (s : State) (a g : Nat) (fw : Bool) (line : Nat) (write home : Bool) :
    (s.cohTouch a g fw line write home).1.cores = s.cores := by
  have merged : ∀ st : State, (st.mergeLines line 1).cores = st.cores := fun st => cores_of_coreSide (coreSide_mergeLines ..)
  have counted : ∀ st : State, (st.count (line * 128) write).cores = st.cores := fun st => cores_of_coreSide (coreSide_count ..)
  have served : ∀ h k, (s.dirServe h line a g fw k).1.cores = s.cores := fun h k => cores_of_coreSide (coreSide_dirServe ..)
  simp only [State.cohTouch]
  split
  · exact merged s
  · split
    · rfl
    · split <;> simp only [cores_keepCopy, counted, merged, served]

@[simp] theorem cores_writeBack (s : State) (agent : Nat) (l : List (Nat × CByte)) (poison : List Nat) :
    (s.writeBack agent l poison).cores = s.cores := by
  refine foldl_keeps State.cores (fun st k => ?_) _ s
  simp only [apply_ite State.cores, cores_of_coreSide (coreSide_cohPoke ..), cores_cohTouch, ite_self]

/-- Lines that carry their stamps leave every cache. -/
theorem caches_carryStamps (s : State) (p q : Nat) (l : List (Nat × CByte)) :
    (s.carryStamps p q l).cores = s.cores ∧ (s.carryStamps p q l).mem.clusters = s.mem.clusters :=
  ⟨foldl_keeps State.cores (fun _ _ => by rfl) _ s, foldl_keeps (fun st => st.mem.clusters) (fun _ _ => by rfl) _ s⟩

@[simp] theorem cores_carryStamps (s : State) (p q : Nat) (l : List (Nat × CByte)) : (s.carryStamps p q l).cores = s.cores :=
  (caches_carryStamps s p q l).1

@[simp] theorem cluster_carryStamps (s : State) (p q : Nat) (l : List (Nat × CByte)) (k : Nat) :
    (s.carryStamps p q l).cluster k = s.cluster k := by
  rw [State.cluster, (caches_carryStamps s p q l).2, State.cluster]

@[simp] theorem cores_clusterBack (s : State) (cl : Nat) (sel : Nat → Bool) : (s.clusterBack cl sel).cores = s.cores := by
  have put : ∀ (st : State) (c : Nat) (q : Cache), (st.setCluster c q).cores = st.cores := fun _ _ _ => rfl
  simp only [State.clusterBack, apply_ite State.cores, cores_carryStamps, put, cores_writeBack, ite_self]

@[simp] theorem cores_fitCluster (s : State) (cl keep : Nat) : (s.fitCluster cl keep).cores = s.cores := by
  have put : ∀ (st : State) (c : Nat) (q : Cache), (st.setCluster c q).cores = st.cores := fun _ _ _ => rfl
  refine foldl_keeps State.cores (fun st k => ?_) _ s
  simp only [cores_countEvicted, put, cores_clusterBack]

theorem core_of_cores {s t : State} (same : t.cores = s.cores) (c : Nat) : t.core c = s.core c := by rw [State.core, same, State.core]

/-! ### The caches below a scope (R229) -/

/-- The write-backs of a scope on a core's path: of the L1, and beyond CLUSTER scope of the cluster cache. -/
def backBelow (s : State) (core scope : Nat) (sel : Nat → Bool) : State :=
  if scope == 1 then s.l1Back core sel else (s.l1Back core sel).clusterBack (clusterOf core) sel

/-- An invalidation in the caches of a scope on a core's path, `f` saying what is left of each. -/
def dropBelow (s : State) (core scope : Nat) (f : Cache → Cache) : State :=
  let s1 := s.setL1 core (f (s.core core).l1)
  if scope == 1 then s1 else s1.setCluster (clusterOf core) (f (s1.cluster (clusterOf core)))

section

variable {core scope : Nat} (compute : core < 192) (positive : 1 ≤ scope)
include compute positive

theorem on_path {α : Type} (out inside : α) : (if (decide (core ≥ 192) || scope == 0) = true then out else inside) = inside :=
  if_neg (by simp; omega)

theorem cacheControl_back (s : State) (sel : Nat → Bool) : s.cacheControl core 0 scope sel = backBelow s core scope sel :=
  on_path compute positive ..

theorem cacheControl_invalidate (s : State) (sel : Nat → Bool) :
    s.cacheControl core 1 scope sel = dropBelow s core scope (Cache.dropClean · sel) :=
  on_path compute positive ..

theorem cacheControl_both (s : State) (sel : Nat → Bool) :
    s.cacheControl core 2 scope sel = dropBelow (backBelow s core scope sel) core scope (Cache.dropAll · sel) :=
  on_path compute positive ..

theorem release_eq_back (s : State) : s.release core scope = backBelow s core scope (fun _ => true) :=
  on_path compute positive ..

theorem acquire_eq_invalidate (s : State) : s.acquire core scope = dropBelow s core scope (Cache.dropClean · (fun _ => true)) :=
  on_path compute positive ..

end

theorem clusterBack_leaves_clean (s : State) (cl : Nat) (sel : Nat → Bool) : ((s.clusterBack cl sel).cluster cl).dirty sel = [] := by
  simp only [State.clusterBack]
  split
  · next none_ => exact List.isEmpty_iff.1 none_
  · rw [cluster_carryStamps, cluster_setCluster, if_pos rfl, dirty_clean]

theorem l1Back_leaves_clean (s : State) (core : Nat) (sel : Nat → Bool) : ((s.l1Back core sel).core core).l1.dirty sel = [] := by
  simp only [State.l1Back]
  split
  · next none_ => exact List.isEmpty_iff.1 none_
  · rw [core_of_cores ((cores_fitCluster ..).trans (cores_carryStamps ..)), core_setL1, if_pos rfl, dirty_clean]

theorem backBelow_l1 (s : State) (core scope : Nat) (sel : Nat → Bool) : ((backBelow s core scope sel).core core).l1.dirty sel = [] := by
  rw [backBelow]
  split
  · exact l1Back_leaves_clean ..
  · rw [core_of_cores (cores_clusterBack ..)]
    exact l1Back_leaves_clean ..

theorem backBelow_cluster (s : State) (core : Nat) {scope : Nat} (sel : Nat → Bool) (beyond : 2 ≤ scope) :
    ((backBelow s core scope sel).cluster (clusterOf core)).dirty sel = [] := by
  rw [backBelow, if_neg (by simp; omega)]
  exact clusterBack_leaves_clean ..

theorem dropBelow_l1 (s : State) (core scope : Nat) (f : Cache → Cache) :
    ((dropBelow s core scope f).core core).l1 = f (s.core core).l1 := by
  rw [dropBelow]
  split <;> simp only [setCluster_core, core_setL1, if_true]

theorem dropBelow_cluster (s : State) (core : Nat) {scope : Nat} (f : Cache → Cache) (beyond : 2 ≤ scope) :
    (dropBelow s core scope f).cluster (clusterOf core) = f (s.cluster (clusterOf core)) := by
  rw [dropBelow, if_neg (by simp; omega), cluster_setCluster, if_pos rfl]
  rfl

end Sys2Proof.Laws
end

section
/-! OBLIGATION O31. What write-backs, invalidations, releases and acquires leave. -/
namespace Sys2Proof.Laws

open Machine

/-- Settles O31: each action is a write-back, an invalidation or one after the other in the caches below its scope. -/
theorem scopedCaches : Obligations.ScopedCaches := by
  intro s core scope sel compute positive l1 cl back inv both
  have backed : back = backBelow s core scope sel := cacheControl_back compute positive s sel
  have invalidated : inv = dropBelow s core scope (Cache.dropClean · sel) := cacheControl_invalidate compute positive s sel
  have cleared : both = dropBelow (backBelow s core scope sel) core scope (Cache.dropAll · sel) := cacheControl_both compute positive s sel
  rw [backed, invalidated, cleared, release_eq_back compute positive, acquire_eq_invalidate compute positive]
  simp only [l1, cl, dropBelow_l1]
  refine ⟨backBelow_l1 .., backBelow_cluster s core sel, fun a b chosen held => dirty_of_get_dropClean held chosen,
    fun a b held dirty => get_dropClean_of_dirty sel held dirty, dirty_dropClean .., fun a chosen => ⟨get_dropAll _ chosen, fun beyond => ?_⟩,
    backBelow_l1 .., backBelow_cluster s core _, fun a b held => dirty_of_get_dropClean held rfl, fun beyond a b held => ?_⟩
  · rw [dropBelow_cluster _ _ _ beyond, get_dropAll _ chosen]
  · rw [dropBelow_cluster _ _ _ beyond] at held
    exact dirty_of_get_dropClean held rfl

end Sys2Proof.Laws
end

section
/-! SUPPORT. What the checks of a memory form leave, said once for every observation that homes and walks leave and the mark of a held page
does not show in; with it the bytes that the lanes of a form access (R191, R223, R270, R429). -/
namespace Sys2Proof.Laws

open Machine Safety

theorem nodup_contiguous (va n : Nat) : ((List.range n).map (va + ·)).Nodup :=
  List.nodup_range.map (fun _ _ => Nat.add_left_cancel)

/-- What the checks of one lane do: they find a fault, or a place in the scratchpad, without a translation, or they check some words of
the PRIVATE space one after the other, or the whole access at once (R191, R223). -/
theorem checkLane_cases (s : State) (w : Want) (many : Bool) (l a : Nat) :
    (∃ c b i, s.checkLane w many l a = (.bad c b i, s)) ∨
    (∃ r : LaneRef, r.vas.Nodup ∧ r.off = 0 ∧ s.checkLane w many l a = (.ok [r], s)) ∨
    (∃ (va : Nat → Nat) (n : Nat) (is : List Nat), w.space = 2 ∧ s.checkLane w many l a = is.foldl (fun (r : LaneCheck × State) i =>
      (r.1.and (r.2.checkPiece w many l (n * i) (va i) n).1, (r.2.checkPiece w many l (n * i) (va i) n).2)) (.ok [], s)) ∨
    s.checkLane w many l a = s.checkPiece w many l 0 a w.size := by
  unfold State.checkLane
  dsimp only
  split
  · exact .inl ⟨_, _, _, rfl⟩
  · split
    · split
      · exact .inl ⟨_, _, _, rfl⟩
      · exact .inr (.inl ⟨_, nodup_contiguous .., rfl, rfl⟩)
    · split
      · next priv =>
        split
        · exact .inl ⟨_, _, _, rfl⟩
        · exact .inr (.inr (.inl ⟨fun i => s.now.privVa l (a + _ * i), _, _, beq_iff_eq.1 priv, rfl⟩))
      · exact .inr (.inr (.inr rfl))

/-- What the checks of the lanes of a form find, lane by lane, and the state after them (R191). -/
def laneChecks (s : State) (w : Want) (ls : List (Nat × Nat)) : List (Nat × LaneCheck) × State :=
  ls.foldl (fun (acc : List (Nat × LaneCheck) × State) p =>
    (acc.1 ++ [(p.1, (acc.2.checkLane w (ls.length != 1) p.1 p.2).1)], (acc.2.checkLane w (ls.length != 1) p.1 p.2).2)) ([], s)

/-- Where every lane passes, the references are those that the lanes' checks found, and what is left is the check of ownership (R429). -/
theorem checkAll_ok {s t : State} {w : Want} {ls : List (Nat × Nat)} {refs : List LaneRef} (pass : s.checkAll w ls = .ok refs t) :
    (∀ r ∈ refs, ∃ p ∈ (laneChecks s w ls).1, ∃ rs, p.2 = .ok rs ∧ r ∈ rs) ∧
    ∃ pages, (laneChecks s w ls).2.ownAll pages = (none, t) := by
  simp only [State.checkAll] at pass
  split at pass
  · cases pass
  · split at pass
    · cases pass
    · split at pass
      · cases pass
      · split at pass
        · cases pass
        · next granted =>
          cases pass
          refine ⟨fun r mem => ?_, _, granted⟩
          obtain ⟨rs, listed, mem⟩ := List.mem_flatten.1 mem
          obtain ⟨⟨l, check⟩, checked, rfl⟩ := List.mem_map.1 listed
          cases check with
          | ok rs => exact ⟨_, checked, rs, rfl, mem⟩
          | bad c a i => cases mem
          | hold => cases mem

/-- An observation of the state that the checks of a memory form leave: what homes and walks leave, and what does not tell which page the
running hart is held for. -/
structure ChecksKept {β : Type} (obs : State → β) : Prop extends HomeKept obs where
  held : ∀ (s : State) (v : Option Nat), obs (s.modNow (fun t => { t with sched := { t.sched with hold := v } })) = obs s

namespace ChecksKept

variable {β : Type} {obs : State → β} (k : ChecksKept obs)
include k

theorem translateFor (s : State) (cx : XCtx) (va : Nat) (w : Want) : obs (s.translateFor cx va w).2 = obs s := by
  have first := fun write => k.translate s cx va w.acc write
  unfold State.translateFor
  split
  · split
    · next ok => exact (k.translate ..).trans ((congrArg (fun r => obs r.2) ok).symm.trans (first false))
    · exact first false
  · exact first _

theorem checkPiece (s : State) (w : Want) (many : Bool) (l off va n : Nat) : obs (s.checkPiece w many l off va n).2 = obs s := by
  have translated := k.translateFor s (s.xctx s.cur) va w
  unfold State.checkPiece
  split
  · next r => rwa [r] at translated
  · next r => rwa [r] at translated
  · next r =>
    rw [r] at translated
    split <;> exact translated

theorem checkLane (s : State) (w : Want) (many : Bool) (l a : Nat) : obs (s.checkLane w many l a).2 = obs s := by
  rcases checkLane_cases s w many l a with ⟨c, b, i, h⟩ | ⟨r, -, -, h⟩ | ⟨va, n, is, -, h⟩ | h <;> rw [h]
  · refine foldl_leaves (fun r : LaneCheck × State => obs r.2) (fun r i => ?_) _ _
    exact k.checkPiece ..
  · exact k.checkPiece ..

theorem ownAll (s : State) (pages : List (Nat × Nat × Nat)) : obs (s.ownAll pages).2 = obs s := by
  refine foldl_leaves (fun r : Option Out × State => obs r.2) (fun r p => ?_) _ _
  have owned := k.ownFor r.2 r.2.now.sched.hold p.1
  split
  · rfl
  · dsimp only
    split
    · next grant =>
      rw [grant] at owned
      split
      · exact (k.held ..).trans owned
      · exact owned
    · next grant => rwa [grant] at owned
    · next grant =>
      rw [grant] at owned
      exact (k.held ..).trans owned

/-- Checks that every lane passes. -/
theorem checkAll {s t : State} {w : Want} {ls : List (Nat × Nat)} {refs : List LaneRef} (pass : s.checkAll w ls = .ok refs t) :
    obs t = obs s := by
  obtain ⟨-, pages, granted⟩ := checkAll_ok pass
  have owned := congrArg (fun r => obs r.2) granted
  refine owned.symm.trans ((k.ownAll ..).trans ?_)
  exact foldl_leaves (fun r : List (Nat × LaneCheck) × State => obs r.2) (fun r p => k.checkLane ..) _ _

end ChecksKept

/-! ### The bytes of a lane (R223, R243) -/

/-- A reference of an access names distinct bytes, and outside the PRIVATE space, whose words lie apart, it begins with the first byte of the
access. -/
def Placed (space : Nat) (r : LaneRef) : Prop := r.vas.Nodup ∧ (space ≠ 2 → r.off = 0)

/-- Where a lane passes its checks, each of its references is placed so. -/
def PlacedLane (space : Nat) : LaneCheck → Prop
  | .ok rs => ∀ r ∈ rs, Placed space r
  | _ => True

theorem placed_and {space : Nat} {a b : LaneCheck} (left : PlacedLane space a) (right : PlacedLane space b) : PlacedLane space (a.and b) := by
  cases a <;> cases b <;> simp only [LaneCheck.and]
  case ok.ok =>
    intro r mem
    exact (List.mem_append.1 mem).elim (left r) (right r)
  case bad.bad => split <;> trivial
  all_goals trivial

theorem placed_checkPiece (s : State) (w : Want) (many : Bool) (l va n : Nat) {off : Nat} (first : w.space ≠ 2 → off = 0) :
    PlacedLane w.space (s.checkPiece w many l off va n).1 := by
  unfold State.checkPiece
  split
  · trivial
  · trivial
  · split
    · trivial
    · intro r mem
      obtain rfl := List.mem_singleton.1 mem
      exact ⟨nodup_contiguous .., first⟩

theorem placed_checkLane (s : State) (w : Want) (many : Bool) (l a : Nat) : PlacedLane w.space (s.checkLane w many l a).1 := by
  rcases checkLane_cases s w many l a with ⟨c, b, i, h⟩ | ⟨r, distinct, first, h⟩ | ⟨va, n, is, priv, h⟩ | h <;> rw [h]
  · trivial
  · intro q mem
    rw [List.mem_singleton.1 mem]
    exact ⟨distinct, fun _ => first⟩
  · refine List.foldlRecOn (motive := fun r : LaneCheck × State => PlacedLane w.space r.1) _ _ ?_ fun r passed i _ => ?_
    · exact fun _ none_ => absurd none_ List.not_mem_nil
    · exact placed_and passed (placed_checkPiece _ _ _ _ _ _ fun flat => absurd priv flat)
  · exact placed_checkPiece _ _ _ _ _ _ fun _ => rfl

theorem placed_laneChecks (s : State) (w : Want) (ls : List (Nat × Nat)) : ∀ p ∈ (laneChecks s w ls).1, PlacedLane w.space p.2 := by
  refine List.foldlRecOn (motive := fun r : List (Nat × LaneCheck) × State => ∀ p ∈ r.1, PlacedLane w.space p.2) _ _ ?_
    fun r passed q _ p mem => ?_
  · exact fun _ none_ => absurd none_ List.not_mem_nil
  · rcases List.mem_append.1 mem with before | now
    · exact passed p before
    · obtain rfl := List.mem_singleton.1 now
      exact placed_checkLane ..

/-- The references of a form whose lanes pass. -/
theorem placed_checkAll {s t : State} {w : Want} {ls : List (Nat × Nat)} {refs : List LaneRef} (pass : s.checkAll w ls = .ok refs t) :
    ∀ r ∈ refs, Placed w.space r := by
  intro r mem
  obtain ⟨p, checked, rs, passed, mem⟩ := (checkAll_ok pass).1 r mem
  have placed := placed_laneChecks s w ls p checked
  rw [passed] at placed
  exact placed r mem

/-! ### What issues after the checks (R191) -/

/-- A hart but for the page that it is held for. -/
def unheld (t : Hart) : Hart := { t with sched := { t.sched with hold := none } }

/-- The choice of the hart that runs, the harts but for the pages that they are held for, and the work of crews. -/
@[irreducible] def accessSide (s : State) : Nat × (Nat → Hart) × LaunchSys := (s.cur, fun h => unheld (s.hart h), s.run)

theorem accessSide_iff {s t : State} :
    accessSide t = accessSide s ↔ t.cur = s.cur ∧ (∀ h, unheld (t.hart h) = unheld (s.hart h)) ∧ t.run = s.run := by
  simp only [accessSide, Prod.mk.injEq, funext_iff]

theorem accessSide_of {s t : State} (cur : t.cur = s.cur) (harts : t.harts = s.harts) (run : t.run = s.run) :
    accessSide t = accessSide s := accessSide_iff.2 ⟨cur, fun h => by rw [State.hart, harts, State.hart], run⟩

theorem checksKept_accessSide : ChecksKept accessSide where
  hub _ _ _ := accessSide_of rfl rfl rfl
  home _ _ _ := accessSide_of rfl rfl rfl
  frame _ _ _ := accessSide_of rfl rfl rfl
  sent _ _ := accessSide_of rfl rfl rfl
  event _ _ := accessSide_of rfl rfl rfl
  poke _ _ _ _ := accessSide_of rfl rfl rfl
  partials _ _ := accessSide_of rfl rfl rfl
  copies _ _ := accessSide_of rfl rfl rfl
  tlbs _ _ := accessSide_of rfl rfl rfl
  counted _ _ _ _ _ _ := obs_ite accessSide rfl (accessSide_of rfl rfl rfl)
  held s v := accessSide_iff.2 ⟨rfl, fun h => by
    rw [hart_modNow]
    split
    · next running => rw [← running]; rfl
    · rfl, rfl⟩

/-- The crew of a hart is found by the work of crews and the hart's place. -/
theorem crewOf_of {s t : State} {h : Nat} (run : t.run = s.run) (place : (t.hart h).place = (s.hart h).place) :
    t.crewOf h = s.crewOf h := by
  unfold State.crewOf State.crewed State.crew?
  rw [run, place]

/-- A state in which the running team stands as in another but for the state of its issue. -/
structure SameTeam (s t : State) : Prop where
  cur : t.cur = s.cur
  run : t.run = s.run
  now : t.now = { s.now with sched := t.now.sched }

theorem access_eq {o : Op} {x : Args} {s t : State} {refs : List LaneRef} (passes : access o x s = some (refs, t)) :
    s.unwait.checkAll (wantOf o x) (s.laneAddrs o x (accessSize o x)) = .ok refs t := by
  unfold access at passes
  split at passes
  · next pass => cases passes; exact pass
  · cases passes

/-- The team whose lanes have passed their checks. -/
theorem sameTeam_of_access {o : Op} {x : Args} {s t : State} {refs : List LaneRef} (passes : access o x s = some (refs, t)) :
    SameTeam s t := by
  obtain ⟨cur, harts, run⟩ := accessSide_iff.1 (checksKept_accessSide.checkAll (access_eq passes))
  have now : unheld t.now = unheld s.unwait.now := by rw [State.now, cur]; exact harts _
  have fields : t.now = { unheld t.now with sched := t.now.sched } := rfl
  refine ⟨cur, run, ?_⟩
  rw [fields, now, unwait_now]
  rfl

namespace SameTeam

variable {s t : State} (same : SameTeam s t)
include same

theorem getS (r : Nat) : t.now.getS r = s.now.getS r := by rw [same.now]; rfl
theorem getV (r l : Nat) : t.now.getV r l = s.now.getV r l := by rw [same.now]; rfl
theorem getK (r : Nat) : t.now.getK r = s.now.getK r := by rw [same.now]; rfl
theorem pc : t.now.pc = s.now.pc := by rw [same.now]
theorem fflags : t.now.fflags = s.now.fflags := by rw [same.now]
theorem sb : t.now.sb = s.now.sb := by rw [same.now]
theorem place : t.now.place = s.now.place := by rw [same.now]

theorem crewOf : t.crewOf s.cur = s.crewOf s.cur := by
  have place := same.place
  rw [State.now, State.now, same.cur] at place
  exact crewOf_of same.run place

/-- The value that a lane stores. -/
theorem storeData (x : Args) (size l : Nat) : t.storeData x size l = s.storeData x size l := by
  unfold State.storeData
  cases x.d <;> simp only [State.src, same.getS, same.getV]

end SameTeam

end Sys2Proof.Laws
end

section
/-! SUPPORT. The store buffer: an entry that is taken in holds the youngest bytes of its line, merged or not (R247, R248). -/
namespace Sys2Proof.Laws

open Machine

/-! ### Lists -/

/-- Elements with the key `a` are found in either direction where keys differ. -/
theorem find?_reverse_of_nodup_keys {β : Type} {l : List (Nat × β)} (keys : (l.map Prod.fst).Nodup) (a : Nat) :
    l.reverse.find? (fun p => p.1 == a) = l.find? (fun p => p.1 == a) := by
  induction l with
  | nil => rfl
  | cons p r ih =>
    obtain ⟨fresh, rest⟩ := List.nodup_cons.1 keys
    rw [List.reverse_cons, List.find?_append, ih rest]
    by_cases here : p.1 = a
    · have absent : r.find? (fun q => q.1 == a) = none :=
        List.find?_eq_none.2 fun q mem same => fresh (List.mem_map.2 ⟨q, mem, (beq_iff_eq.1 same).trans here.symm⟩)
      simp [here, absent]
    · simp [here]

/-- The last index of a list with a property. -/
theorem find?_last_index {α : Type} {l : List α} {p : Nat → Bool} {i : Nat} (found : (List.range l.length).reverse.find? p = some i) :
    i < l.length ∧ p i = true ∧ ∀ j, i < j → j < l.length → p j = false := by
  obtain ⟨holds, later, earlier, split_, none_⟩ := List.find?_eq_some_iff_append.1 found
  have falls : (List.range l.length).reverse.Pairwise (· > ·) := List.pairwise_reverse.2 List.pairwise_lt_range
  have inside : i ∈ (List.range l.length).reverse := by rw [split_]; simp
  refine ⟨by simpa using inside, holds, fun j above below => ?_⟩
  have mem : j ∈ later ++ i :: earlier := by rw [← split_]; simpa using below
  rw [split_] at falls
  have lower := (List.pairwise_cons.1 (List.pairwise_append.1 falls).2.1).1
  rcases List.mem_append.1 mem with late | early
  · simpa using none_ j late
  · rcases List.mem_cons.1 early with rfl | early
    · exact absurd above (Nat.lt_irrefl _)
    · exact absurd (lower j early) (Nat.lt_asymm above)

/-- The keys of a zipped list are those of its first part that find a partner. -/
theorem map_fst_zip_eq_take {α β : Type} (l : List α) (m : List β) : (l.zip m).map Prod.fst = l.take m.length := by
  rw [List.zip_eq_zip_take_min, List.map_fst_zip (by simp), List.take_eq_take_iff]
  simp [Nat.min_comm]

/-- A part of a list has no more distinct elements than the list. -/
theorem length_eraseDups_take_le (l : List Nat) (n : Nat) : (l.take n).eraseDups.length ≤ l.eraseDups.length := by
  have whole := congrArg (fun m : List Nat => m.eraseDups.length) (List.take_append_drop n l)
  simp only [List.eraseDups_append, List.length_append] at whole
  omega

/-! ### One entry (R248) -/

/-- The byte that an entry holds for an address. -/
def entryByte (e : SbEntry) (a : Nat) : Option Byte :=
  if e.line == a / 128 then (e.bytes.find? (fun p => p.1 == a % 128)).map Prod.snd else none

theorem entryByte_other {e : SbEntry} {a : Nat} (other : e.line ≠ a / 128) : entryByte e a = none := if_neg (by simpa using other)

/-- The bytes of an entry with those of a later one written over them. -/
def overwritten (old new : List (Nat × Byte)) : List (Nat × Byte) := old.filter (fun p => !new.any (fun q => q.1 == p.1)) ++ new

theorem find?_overwritten (old new : List (Nat × Byte)) (k : Nat) :
    (overwritten old new).find? (fun p => p.1 == k) = (new.find? (fun p => p.1 == k)).or (old.find? (fun p => p.1 == k)) := by
  rw [overwritten, List.find?_append, List.find?_filter]
  cases given : new.find? (fun p => p.1 == k) with
  | none =>
    have free := List.find?_eq_none.1 given
    rw [Option.or_none, Option.none_or]
    refine congrArg (List.find? · old) (funext fun p => ?_)
    by_cases here : p.1 = k
    · subst here
      simpa using free
    · simp [here]
  | some q =>
    have absent : old.find? (fun p => decide ((!new.any (fun q => q.1 == p.1)) = true ∧ (p.1 == k) = true)) = none := by
      refine List.find?_eq_none.2 fun p _ hit => ?_
      have same := List.find?_some given
      have mem := List.mem_of_find?_eq_some given
      simp only [decide_eq_true_eq, Bool.not_eq_true', List.any_eq_false, beq_iff_eq] at hit same
      exact hit.1 q mem (same.trans hit.2.symm)
    rw [absent, Option.none_or, Option.some_or]

/-! ### The buffer (R248) -/

theorem sbByte_append (xs ys : List SbEntry) (a : Nat) : sbByte (xs ++ ys) a = (sbByte ys a).or (sbByte xs a) := by
  simp only [sbByte, List.reverse_append, List.findSome?_append]

@[simp] theorem sbByte_singleton (e : SbEntry) (a : Nat) : sbByte [e] a = entryByte e a := by
  simp [sbByte, entryByte]

theorem sbByte_cons (e : SbEntry) (es : List SbEntry) (a : Nat) : sbByte (e :: es) a = (sbByte es a).or (entryByte e a) := by
  rw [← sbByte_singleton, ← sbByte_append]; rfl

theorem sbByte_none {es : List SbEntry} {a : Nat} (other : ∀ e ∈ es, e.line ≠ a / 128) : sbByte es a = none := by
  refine List.findSome?_eq_none_iff.2 fun e mem => ?_
  exact entryByte_other (other e (List.mem_reverse.1 mem))

/-- An entry that is taken in stands last, or has written its bytes over those of the youngest entry of its line. -/
theorem sbMerge_cases (sb : List SbEntry) (e : SbEntry) : sbMerge sb e = sb ++ [e] ∨
    ∃ older o younger o', sb = older ++ o :: younger ∧ sbMerge sb e = older ++ o' :: younger ∧ (∀ y ∈ younger, y.line ≠ e.line) ∧
      o.line = e.line ∧ o'.line = e.line ∧ o'.bytes = overwritten o.bytes e.bytes := by
  unfold sbMerge
  dsimp only
  split
  · next i o found =>
    obtain ⟨j, last, at_⟩ := Option.bind_eq_some_iff.1 found
    obtain ⟨q, here, same⟩ := Option.map_eq_some_iff.1 at_
    obtain ⟨rfl, rfl⟩ := Prod.mk.inj same
    obtain ⟨inside, line, later⟩ := find?_last_index last
    split
    · have got : sb[j] = q := (List.getElem?_eq_some_iff.1 here).2
      have same : q.line = e.line := by simpa [here] using line
      refine .inr ⟨sb.take j, q, sb.drop (j + 1), _, ?_, List.set_eq_take_append_cons_drop.trans (if_pos inside), fun y mem => ?_, same,
        same, rfl⟩
      · rw [← got, List.getElem_cons_drop, List.take_append_drop]
      · obtain ⟨n, at_⟩ := List.mem_iff_getElem?.1 mem
        rw [List.getElem?_drop] at at_
        have other := later (j + 1 + n) (by omega) (List.getElem?_eq_some_iff.1 at_).1
        simpa [at_] using other
    · exact .inl rfl
  · exact .inl rfl

/-- What an entry that is taken in holds is what the buffer gives from then on; for other addresses it gives what it gave. -/
theorem sbByte_sbMerge (sb : List SbEntry) (e : SbEntry) (a : Nat) : sbByte (sbMerge sb e) a = (entryByte e a).or (sbByte sb a) := by
  rcases sbMerge_cases sb e with h | ⟨older, o, younger, o', rfl, h, other, line, line', bytes⟩ <;> rw [h]
  · rw [sbByte_append, sbByte_singleton]
  · rw [sbByte_append, sbByte_append, sbByte_cons, sbByte_cons]
    by_cases here : e.line = a / 128
    · rw [sbByte_none (es := younger) (fun y mem => here ▸ other y mem)]
      simp only [Option.none_or, entryByte, line, line', here, beq_self_eq_true, if_true, bytes, find?_overwritten, Option.map_or,
        Option.or_assoc]
    · rw [entryByte_other (e := e) here, entryByte_other (e := o) (line ▸ here), entryByte_other (e := o') (line' ▸ here), Option.none_or]

theorem sbByte_foldl_sbMerge (es sb : List SbEntry) (a : Nat) :
    sbByte (es.foldl sbMerge sb) a = (sbByte es a).or (sbByte sb a) := by
  induction es generalizing sb with
  | nil => rfl
  | cons e es ih => rw [List.foldl_cons, ih, sbByte_sbMerge, sbByte_cons, Option.or_assoc]

theorem length_sbMerge_le (sb : List SbEntry) (e : SbEntry) : (sbMerge sb e).length ≤ sb.length + 1 := by
  rcases sbMerge_cases sb e with h | ⟨older, o, younger, o', rfl, h, -⟩ <;> simp [h]

theorem length_foldl_sbMerge_le (es sb : List SbEntry) : (es.foldl sbMerge sb).length ≤ sb.length + es.length := by
  induction es generalizing sb with
  | nil => exact Nat.le_refl _
  | cons e es ih =>
    have one := length_sbMerge_le sb e
    have rest := ih (sbMerge sb e)
    rw [List.foldl_cons, List.length_cons]
    omega

end Sys2Proof.Laws
end

section
/-! SUPPORT. What plain and strong stores leave: their bytes in the store buffer or, for ST of space SCRATCH, in the crew's scratchpad (R222,
R244, R247, R248, R253). -/
namespace Sys2Proof.Laws

open Machine Safety

/-! ### The bytes that a form stores (R244) -/

/-- The bytes that the lanes of a form store, in ascending lane order. -/
def storedBytes (s : State) (x : Args) (size : Nat) (refs : List LaneRef) : List (Nat × Byte) :=
  (refs.map (fun r => r.vas.zip (r.slice (s.storeData x size r.lane).1))).flatten

/-- The byte that stands last for an address among some that are written in their order. -/
def lastByte (l : List (Nat × Byte)) (a : Nat) : Option Byte := (l.reverse.find? (fun p => p.1 == a)).map Prod.snd

theorem lastByte_append (xs ys : List (Nat × Byte)) (a : Nat) : lastByte (xs ++ ys) a = (lastByte ys a).or (lastByte xs a) := by
  simp only [lastByte, List.reverse_append, List.find?_append, Option.map_or]

theorem lastByte_cons (p : Nat × Byte) (l : List (Nat × Byte)) (a : Nat) :
    lastByte (p :: l) a = (lastByte l a).or (if p.1 = a then some p.2 else none) := by
  rw [← List.singleton_append, lastByte_append]
  by_cases here : p.1 = a <;> simp [lastByte, here]

/-- Entries of lines, each of which holds `v` where it is the line of the address. -/
theorem sbByte_map_lines {mk : Nat → SbEntry} {a : Nat} {v : Option Byte} {ks : List Nat}
    (each : ∀ k, entryByte (mk k) a = if k = a / 128 then v else none) :
    sbByte (ks.map mk) a = if a / 128 ∈ ks then v else none := by
  induction ks with
  | nil => rfl
  | cons k ks ih =>
    rw [List.map_cons, sbByte_cons, ih, each]
    by_cases here : k = a / 128
    · subst here
      split <;> simp
    · simp [here, Ne.symm here]

/-- The entries of one lane hold its bytes, where these lie at distinct addresses (R248). -/
theorem sbByte_storeEntries (id : Nat) (mode : Mode) (priv strong io nol1 stream : Bool) (order scope : Nat) {r : LaneRef}
    (bs : List Byte) (poison : Bool) (distinct : r.vas.Nodup) (a : Nat) :
    sbByte (storeEntries id mode priv strong io nol1 stream order scope r bs poison) a = lastByte (r.vas.zip bs) a := by
  have keys : ((r.vas.zip bs).map Prod.fst).Nodup := by
    rw [map_fst_zip_eq_take]
    exact distinct.sublist (List.take_sublist ..)
  rw [lastByte, find?_reverse_of_nodup_keys keys, storeEntries,
    sbByte_map_lines (v := ((r.vas.zip bs).find? (fun p => p.1 == a)).map Prod.snd) fun k => ?_]
  · refine ite_eq_left_iff.2 fun outside => ?_
    have absent : (r.vas.zip bs).find? (fun p => p.1 == a) = none := List.find?_eq_none.2 fun p mem same =>
      outside (List.mem_eraseDups.2 (List.mem_map.2 ⟨p, mem, by rw [beq_iff_eq.1 same]⟩))
    rw [absent]
    rfl
  · simp only [entryByte, beq_iff_eq]
    refine ite_congr rfl (fun here => ?_) fun _ => rfl
    rw [List.find?_map, List.find?_filter, Option.map_map]
    have same : ∀ n : Nat, (n / 128 = k ∧ n % 128 = a % 128) ↔ n = a := fun n => by omega
    simp [Function.comp_def, same, beq_eq_decide]

theorem length_storeEntries_le (id : Nat) (mode : Mode) (priv strong io nol1 stream : Bool) (order scope : Nat) (r : LaneRef)
    (bs : List Byte) (poison : Bool) :
    (storeEntries id mode priv strong io nol1 stream order scope r bs poison).length ≤ ((r.vas.map (· / 128)).eraseDups).length := by
  have lines : (r.vas.zip bs).map (fun p => p.1 / 128) = (r.vas.map (· / 128)).take bs.length := by
    rw [← List.map_take, ← map_fst_zip_eq_take, List.map_map]
    rfl
  simp only [storeEntries, List.length_map, lines]
  exact length_eraseDups_take_le ..

/-- What holds of each lane's entries and bytes holds of those of all lanes. -/
theorem sbByte_flatten {refs : List LaneRef} {f : LaneRef → List SbEntry} {g : LaneRef → List (Nat × Byte)} {a : Nat}
    (each : ∀ r ∈ refs, sbByte (f r) a = lastByte (g r) a) :
    sbByte (refs.map f).flatten a = lastByte (refs.map g).flatten a := by
  induction refs with
  | nil => rfl
  | cons r rest ih =>
    rw [List.map_cons, List.map_cons, List.flatten_cons, List.flatten_cons, sbByte_append, lastByte_append, each r (by simp),
      ih (fun q mem => each q (by simp [mem]))]

theorem length_flatten_le {refs : List LaneRef} {f : LaneRef → List SbEntry} {n : LaneRef → Nat} (each : ∀ r, (f r).length ≤ n r) :
    ((refs.map f).flatten).length ≤ sumN (refs.map n) := by
  rw [List.length_flatten, List.map_map, sumN, ← List.sum_eq_foldl_nat]
  exact List.sum_le_sum fun r _ => each r

/-! ### Stores into the buffer (R247, R248) -/

/-- Entries that find room are taken in (R248; log entry 30 for those that find the buffer empty). -/
theorem takeStores_room {s : State} {es : List SbEntry} (room : s.now.sb = [] ∨ s.now.sb.length + es.length ≤ 64) (old : State)
    (again : Bool) :
    s.takeStores old again es = .next (s.modNow (fun u => { u with sb := es.foldl sbMerge s.now.sb }.advance)) := by
  refine if_pos ?_
  simp only [Bool.or_eq_true, decide_eq_true_eq, List.isEmpty_iff]
  exact room.elim .inr fun fits => .inl (Nat.le_trans (length_foldl_sbMerge_le ..) fits)

/-- A store whose entries find room in the buffer: it changes no register and no byte of memory, and the buffer gives its bytes first. -/
theorem store_buffered {i : Instr} {s t0 old : State} {again : Bool} {es : List SbEntry} {data : List (Nat × Byte)} (same : SameTeam s t0)
    (effect : exec i s = t0.fresh.2.takeStores old again es) (room : s.now.sb = [] ∨ s.now.sb.length + es.length ≤ 64)
    (holds : ∀ a, sbByte es a = lastByte data a) :
    ∃ t : State, exec i s = .next t ∧ t.now.pc = s.now.pc + 12 ∧ t.mem = t0.mem ∧ registersKept s.now t.now ∧
      ∀ a, sbByte t.now.sb a = match lastByte data a with | some b => some b | none => sbByte s.now.sb a := by
  have sb : t0.fresh.2.now.sb = s.now.sb := same.sb
  refine ⟨_, effect.trans (takeStores_room (sb ▸ room) old again), ?_⟩
  rw [modNow_now]
  refine ⟨congrArg (· + 12) same.pc, rfl, ⟨same.getS, same.getV, same.getK, same.fflags⟩, fun a => ?_⟩
  refine (sbByte_foldl_sbMerge ..).trans ?_
  rw [holds, sb]
  cases lastByte data a <;> rfl

section

variable {x : Args} {s t0 : State} {refs : List LaneRef}

/-- The entries that the lanes of ST make (R247). -/
def plainEntries (x : Args) (t0 : State) (refs : List LaneRef) : List SbEntry :=
  (refs.map (fun r => storeEntries t0.nextId t0.now.mode (x.sub.toNat % 4 == 2) false r.io (x.sub.toNat / 4 == 2) (x.sub.toNat / 4 == 1) 0 0 r
    (r.slice (t0.storeData x (accessSize .st x) r.lane).1) (t0.storeData x (accessSize .st x) r.lane).2)).flatten

/-- The entries that the lanes of STS make (R253). -/
def strongEntries (x : Args) (t0 : State) (refs : List LaneRef) : List SbEntry :=
  (refs.map (fun r => storeEntries t0.nextId t0.now.mode false true r.io false false x.sub.toNat x.rm.toNat r
    (t0.storeData x (accessSize .sts x) r.lane).1 false)).flatten

theorem wantOf_st (x : Args) : wantOf .st x = ⟨x.sub.toNat % 4, accessSize .st x, .store, false, true, .plainStore⟩ := rfl

theorem wantOf_sts (x : Args) : wantOf .sts x = ⟨0, accessSize .sts x, .store, false, true, .plainStore⟩ := rfl

theorem st_effect (issues : memReady .st x s = true) (passes : access .st x s = some (refs, t0)) (outside : x.sub.toNat % 4 ≠ 1) :
    exec (.st x) s = t0.fresh.2.takeStores s.unwait (s.now.sched.wait == .store) ((plainEntries x t0 refs).foldl sbMerge []) := by
  rw [exec_st, execSt, memIssue_of_memReady _ issues]
  dsimp only
  rw [unwait_laneAddrs, ← wantOf_st, access_eq passes]
  exact if_neg (by simpa using outside)

theorem sts_effect (issues : memReady .sts x s = true) (passes : access .sts x s = some (refs, t0)) :
    exec (.sts x) s = t0.fresh.2.takeStores s.unwait (s.now.sched.wait == .store) (strongEntries x t0 refs) := by
  rw [exec_sts, execSts, memIssue_of_memReady _ issues]
  dsimp only
  rw [unwait_laneAddrs, ← wantOf_sts, access_eq passes]
  rfl

theorem length_plainEntries_le : (plainEntries x t0 refs).length ≤ sumN (refs.map (fun r => ((r.vas.map (· / 128)).eraseDups).length)) :=
  length_flatten_le fun _ => length_storeEntries_le ..

theorem length_strongEntries_le :
    (strongEntries x t0 refs).length ≤ sumN (refs.map (fun r => ((r.vas.map (· / 128)).eraseDups).length)) :=
  length_flatten_le fun _ => length_storeEntries_le ..

/-- The bytes of plain entries are those of the lanes, once the entries of the form have merged with one another (R248). -/
theorem sbByte_plainEntries (same : SameTeam s t0) (placed : ∀ r ∈ refs, Placed (x.sub.toNat % 4) r) (a : Nat) :
    sbByte ((plainEntries x t0 refs).foldl sbMerge []) a = lastByte (storedBytes s x (accessSize .st x) refs) a := by
  rw [sbByte_foldl_sbMerge, show sbByte [] a = none from rfl, Option.or_none]
  refine sbByte_flatten fun r mem => ?_
  rw [sbByte_storeEntries _ _ _ _ _ _ _ _ _ _ _ (placed r mem).1, same.storeData]

/-- A reference that begins with the first byte of its access takes the value as it is. -/
theorem zip_slice {r : LaneRef} (first : r.off = 0) (bs : List Byte) : r.vas.zip (r.slice bs) = r.vas.zip bs := by
  rw [LaneRef.slice, first, List.drop_zero, List.zip_eq_zip_take_min, List.zip_eq_zip_take_min (l₂ := bs)]
  simp [List.take_take]

/-- The bytes of strong entries are those of the lanes, each of which is stored from its first byte on. -/
theorem sbByte_strongEntries (same : SameTeam s t0) (placed : ∀ r ∈ refs, Placed 0 r) (a : Nat) :
    sbByte (strongEntries x t0 refs) a = lastByte (storedBytes s x (accessSize .sts x) refs) a := by
  refine sbByte_flatten fun r mem => ?_
  rw [sbByte_storeEntries _ _ _ _ _ _ _ _ _ _ _ (placed r mem).1, same.storeData, zip_slice ((placed r mem).2 (by decide))]

end

/-! ### Stores into the scratchpad (R222) -/

/-- Bytes written one after the other: the last one for an address stands there. -/
theorem sget_foldl_sset (l : List (Nat × Byte)) (m : Sparse Byte) (a : Nat) :
    sget 0 (l.foldl (fun m p => sset 0 m p.1 p.2) m) a = (lastByte l a).getD (sget 0 m a) := by
  induction l generalizing m with
  | nil => rfl
  | cons p l ih =>
    rw [List.foldl_cons, ih, sget_sset, lastByte_cons]
    cases lastByte l a with
    | some b => rfl
    | none => by_cases here : p.1 = a <;> simp [here]

/-- A crew after a write into its scratchpad. -/
def scratched (l : List (Nat × Byte)) (poison : List Nat) (c : Crew) : Crew :=
  { c with scratch := l.foldl (fun m p => sset 0 m p.1 p.2) c.scratch, smarks := marksAfter c.smarks (l.map Prod.fst) poison }

theorem scratchByte_of_crewOf {s : State} {h : Nat} {c : Crew} (found : s.crewOf h = some c) (a : Nat) :
    (s.scratchByte h a).1 = sget 0 c.scratch a := by
  rw [State.scratchByte, found]

theorem crewOf_scratchPut {s : State} {h : Nat} {c : Crew} (found : s.crewOf h = some c) (l : List (Nat × Byte)) (poison : List Nat) :
    (s.scratchPut (s.hart h).place.crewKey l poison).crewOf h = some (scratched l poison c) := by
  obtain ⟨placed, named⟩ := Option.ite_none_right_eq_some.1 found
  refine (if_pos placed).trans ?_
  exact crew?_modCrew named (f := scratched l poison) fun _ => rfl

theorem crewOf_advance (s : State) (h : Nat) : (s.modNow Hart.advance).crewOf h = s.crewOf h := by
  have place : ((s.modNow Hart.advance).hart h).place = (s.hart h).place := by
    rw [hart_modNow]
    split
    · next running => rw [← running]; rfl
    · rfl
  exact crewOf_of rfl place

/-- A write of the running team into the scratchpad of its crew, which ends its instruction. -/
theorem scratchPut_done {s : State} {c : Crew} (found : s.crewOf s.cur = some c) (l : List (Nat × Byte)) (poison : List Nat) (a : Nat) :
    (((s.scratchPut s.now.place.crewKey l poison).modNow Hart.advance).scratchByte s.cur a).1 =
      (lastByte l a).getD (s.scratchByte s.cur a).1 := by
  have crew : ((s.scratchPut s.now.place.crewKey l poison).modNow Hart.advance).crewOf s.cur = some (scratched l poison c) := by
    rw [crewOf_advance]
    exact crewOf_scratchPut found l poison
  rw [scratchByte_of_crewOf crew, scratchByte_of_crewOf found]
  exact sget_foldl_sset ..

theorem st_scratch_effect {x : Args} {s t0 : State} {refs : List LaneRef} (issues : memReady .st x s = true)
    (passes : access .st x s = some (refs, t0)) (inside : x.sub.toNat % 4 = 1) :
    ∃ poison, exec (.st x) s =
      .next ((t0.scratchPut t0.now.place.crewKey (storedBytes s x (accessSize .st x) refs) poison).modNow Hart.advance) := by
  have same := sameTeam_of_access passes
  have data : storedBytes s x (accessSize .st x) refs =
      ((refs.map (fun r => (r, t0.storeData x (accessSize .st x) r.lane))).map (fun p => p.1.vas.zip p.2.1)).flatten := by
    rw [storedBytes, List.map_map]
    refine congrArg List.flatten (List.map_congr_left fun r mem => ?_)
    have first : r.off = 0 := (placed_checkAll (access_eq passes) r mem).2 (by show x.sub.toNat % 4 ≠ 2; omega)
    rw [zip_slice first, Function.comp_apply, same.storeData]
  rw [exec_st, execSt, memIssue_of_memReady _ issues]
  dsimp only
  rw [unwait_laneAddrs, ← wantOf_st, access_eq passes, data]
  exact ⟨_, if_pos (by simpa using inside)⟩

end Sys2Proof.Laws
end

section
/-! OBLIGATION O27. Plain stores. -/
namespace Sys2Proof.Laws

open Machine Safety

/-- Settles O27: the entries that the lanes make hold the bytes that the form stores, and the youngest of them stand first in the buffer; in
the scratchpad the last byte written for an offset stands there. -/
theorem plainStores : Obligations.PlainStores := by
  intro x s t0 refs
  refine ⟨fun issues passes outside _ room => ?_, fun issues passes _ room => ?_, fun issues passes inside crew => ?_⟩
  · refine store_buffered (sameTeam_of_access passes) (st_effect issues passes outside)
      (room.imp_right fun fits => ?_) (sbByte_plainEntries (sameTeam_of_access passes) (placed_checkAll (access_eq passes)))
    have merged := length_foldl_sbMerge_le (plainEntries x t0 refs) []
    have made := length_plainEntries_le (x := x) (t0 := t0) (refs := refs)
    simp only [List.length_nil, Nat.zero_add] at merged
    omega
  · refine store_buffered (sameTeam_of_access passes) (sts_effect issues passes)
      (room.imp_right fun fits => Nat.le_trans (Nat.add_le_add_left length_strongEntries_le _) fits)
      (sbByte_strongEntries (sameTeam_of_access passes) (placed_checkAll (access_eq passes)))
  · have same := sameTeam_of_access passes
    obtain ⟨c, found⟩ := Option.isSome_iff_exists.1 crew
    obtain ⟨poison, effect⟩ := st_scratch_effect issues passes inside
    have found0 : t0.crewOf t0.cur = some c := by rw [same.cur, same.crewOf, found]
    refine ⟨_, effect, ?_⟩
    have written := scratchPut_done found0 (storedBytes s x (accessSize .st x) refs) poison
    rw [same.cur] at written
    refine ⟨?_, rfl, ?_, fun a => (written a).trans ?_⟩
    · exact (congrArg Hart.pc (modNow_now ..)).trans (congrArg (· + 12) same.pc)
    · rw [modNow_now]
      exact ⟨same.getS, same.getV, same.getK, same.fflags⟩
    · rw [scratchByte_of_crewOf (same.crewOf.trans found), scratchByte_of_crewOf found]
      rfl

end Sys2Proof.Laws
end

section
/-! SUPPORT. LDACC and STACC once they issue: the lanes and the indexes that they name (R258, R260). -/
namespace Sys2Proof.Laws

open Machine Safety

/-- Whether a tile must be waited for depends on the operations of the crew alone. -/
theorem tileBusy_of_run {s t : State} (run : t.run = s.run) (c : Crew) (n : Nat) : t.tileBusy c n = s.tileBusy c n := by
  simp only [State.tileBusy, State.drainOn, State.softmaxOn, State.crewOps, run]

/-- The lanes of LDACC or STACC with the index that each names (R258). -/
def accLanes (s : State) (x : Args) : List (Nat × Nat) :=
  (if perLane x = true then memberLanes s x else [0]).map (fun l => (l, s.src .b32 x.b l))

/-- A form whose lanes name words of a tile that nothing holds back reaches its effect (R258, R260). -/
theorem accForm_of_ready {o : Op} {x : Args} {s : State} {c : Crew} (f : State → Crew → List (Nat × Nat) → Out) (issues : ready o x s = true)
    (has : s.crewOf s.cur = some c) (inside : ∀ p ∈ accLanes s x, p.2 < accSpace x.ty) (closed : c.openOn (accOf x.a) = false)
    (free : s.tileBusy c (accOf x.a) = false) : accForm o x s f = f s.unwait c (accLanes s x) := by
  have lanes : (if perLane x = true then lanesOf s.unwait.now.W (s.unwait.now.members x) else [0]).map
      (fun l => (l, s.unwait.src .b32 x.b l)) = accLanes s x := by
    simp only [unwait_W, unwait_members, unwait_src]
    rfl
  have none_ : (accLanes s x).filter (fun p => decide (p.2 ≥ accSpace x.ty)) = [] :=
    List.filter_eq_nil_iff.2 fun p mem => by simpa using inside p mem
  have has : s.unwait.crewOf s.unwait.cur = some c := (unwait_crewOf ..).trans has
  rw [accForm, issue_of_ready _ issues]
  simp only [has, lanes, none_, closed, tileBusy_of_run (unwait_run s), free, Bool.or_self, Bool.false_eq_true, if_false]

end Sys2Proof.Laws
end

section
/-! OBLIGATION O38. LDACC and STACC. -/
namespace Sys2Proof.Laws

open Machine Safety

/-- Settles O38: past the checks that they share, LDACC sends what the lanes name in a reply of its own and STACC folds over the lanes. -/
theorem accumulatorMoves : Obligations.AccumulatorMoves := by
  intro x s c has i ls env inside closed free
  refine ⟨fun issues => ?_, fun issues => ?_⟩
  · rw [exec_ldacc, execLdacc, accForm_of_ready _ issues has inside closed free]
    simp only [unwait_fpm, beq_iff_eq]
    rfl
  · rw [exec_stacc, execStacc, accForm_of_ready _ issues has inside closed free]
    simp only [unwait_src, beq_iff_eq]
    rfl

end Sys2Proof.Laws
end

section
/-! OBLIGATION O30, refuted. The walk of a PREF sets the accessed bit of its leaf (R409), which is a write to the leaf's line and releases a
polling load of another hart that is held there (R254): the requests that wait are not the same ones. -/
namespace Sys2Proof.Laws

open Machine Safety

/-- A polling load of host thread 1 that its home holds on the line of the leaf at 0x4000. -/
def heldOnLeaf : Req :=
  { id := 0, hart := 1, core := 192, crew := 0, guest := 0, mode := .host, tag := 2, level := 3, pa := 0x4000, va := 0, size := 4, kind := .ldp 0,
    lane := none, reg := none, order := 0, scope := 0, ty := .b32, clock := 0, since := 0, ru := false, group := 0, parked := true,
    released := false, keep := false, weak := false }

/-- Host thread 0 beside it, its first page mapped by a leaf whose accessed bit is clear. -/
def polledLeaf : State :=
  ((({ State.reset.setHart 0 (loadHart .host 1 0) with cur := 0, turn := .hart } : State).loadPage 0).pokeNat 0x4000 8
    (loadFrame + 0x9F)).modMem (fun m => { m with reqs := [heldOnLeaf] })

/-- PREF s4, s6: the line at virtual address 0. -/
def prefetchFirstLine : Args := ⟨0, 0, false, 0, .none, .none, .s 4 false 0, .s 6 false 0, 0⟩

/-- Which of the requests that wait are released after a step. -/
def nextReleased : Out → Option (List Bool)
  | .next t => some (t.mem.reqs.map Req.released)
  | _ => none

theorem prefetchFirstLine_issues : memReady .pref prefetchFirstLine polledLeaf = true := by decide +kernel

theorem prefetchFirstLine_releases : nextReleased (exec (.pref prefetchFirstLine) polledLeaf) = some [true] := by decide +kernel

/-- Refutes O30: a PREF whose walk sets an accessed bit releases a polling load held on the leaf's line, where the statement has the
requests stay as they are. -/
theorem not_cacheForms : ¬ Obligations.CacheForms := by
  intro holds
  obtain ⟨t, effect, -, -, -, kept, -⟩ := (holds prefetchFirstLine polledLeaf).1 prefetchFirstLine_issues
  have released := prefetchFirstLine_releases
  rw [effect, nextReleased, kept] at released
  exact absurd released (by decide +kernel)

end Sys2Proof.Laws
end

section
/-! SUPPORT. Matrix forms once they issue: the convergence that they share, operands in the program region, and an operation that a form
starts (R330, R388, R391). -/
namespace Sys2Proof.Laws

open Machine Safety

/-! ### What the forms share (R330) -/

@[simp] theorem unwait_chuckLoading (s : State) (c : Crew) (q : Nat) : s.unwait.chuckLoading c q = s.chuckLoading c q := rfl
@[simp] theorem unwait_tileBusy (s : State) (c : Crew) (t : Nat) : s.unwait.tileBusy c t = s.tileBusy c t := rfl
@[simp] theorem unwait_drainOn (s : State) (c : Crew) (t : Nat) : s.unwait.drainOn c t = s.drainOn c t := rfl

@[simp] theorem unwait_spaOf (s : State) (o : Operand) : s.unwait.spaOf o = s.spaOf o := by
  cases o <;> simp only [State.spaOf, State.scalar, unwait_src]

section

variable {o : Op} {x : Args} {s : State} {c : Crew} (converged : s.now.exec = s.now.live) (has : s.crewOf s.cur = some c)
include has

/-- A form of class 8 of a converged team reaches its effect. -/
theorem matForm_of_ready (f : State → Crew → Out) (converged : s.now.exec = s.now.live) (issues : ready o x s = true)
    (acquired : matGlobal o = true → s.acqPending s.cur = false) : matForm o x s f = f s.unwait c := by
  have go : (matGlobal o && s.acqPending s.cur) = false := by
    cases global : matGlobal o
    · rfl
    · rw [acquired global]; rfl
  have has : s.unwait.crewOf s.cur = some c := (unwait_crewOf ..).trans has
  rw [matForm, issue_of_ready _ issues]
  simp [go, converged, has]

/-- An operand whose bytes lie in the program region, aligned where its kind asks for it. -/
def InRegion (s : State) (c : Crew) (o : Operand) (al n : Nat) : Prop :=
  ((kindOf o = .s ∨ 16 < al) → s.spaOf o % al = 0) ∧ s.spaOf o < c.kernel.scratch ∧ s.spaOf o + n ≤ c.kernel.scratch

theorem matOffset_of_inRegion {y : Operand} {al n : Nat} (slot : Nat) (inside : InRegion s c y al n) :
    s.unwait.matOffset slot y (s.spaOf y) al n = .ok (s.spaOf y) := by
  obtain ⟨aligned, starts, ends⟩ := inside
  have kernel : s.unwait.kernelOf s.unwait.cur = c.kernel := by
    rw [State.kernelOf, unwait_cur, unwait_crewOf, has]
    rfl
  have even : ((kindOf y == .s || decide (al > 16)) && s.spaOf y % al != 0) = false := by
    simpa using aligned
  rw [State.matOffset]
  simp only [kernel, even, Bool.false_eq_true, if_false, Nat.not_le.2 starts, Nat.not_lt.2 ends]

end

theorem beyond_of_le {size off n : Nat} (fits : off + n ≤ size) : beyond size off n = none := if_neg (Nat.not_lt.2 fits)

/-- The scales of one MMA lie in the program region where those up to it do (R329). -/
theorem scales_inside {scale m n size : Nat} (fits : scale = 0 ∨ scale + (m + 1) * n ≤ size) :
    (if (scale == 0) = true then none else beyond size (scale + m * n) n) = none := by
  rcases fits with none_ | fits
  · rw [if_pos (by simp [none_])]
  · exact ite_eq_left_iff.2 fun _ => beyond_of_le (by rw [Nat.add_assoc, ← Nat.succ_mul]; exact fits)

/-! ### An operation of the running hart (R388, R391) -/

/-- An operation without a tag that the running hart starts: D awaits its handle, it stands last among the operations, and the crews,
memory and the rest of the hart are as they were. -/
theorem startOp_untagged (s : State) (kind : AKind) (hk engine : Nat) (d : Operand) (scope : Nat) :
    ∃ op : AOp, op.kind = kind ∧ op.hart = s.cur ∧ op.crew = s.now.place.crewKey ∧
      (s.startOp kind hk engine d none scope).2.now = s.now.awaitFuture d op.handle ∧
      (s.startOp kind hk engine d none scope).2.run.ops = s.run.ops ++ [op] ∧
      (s.startOp kind hk engine d none scope).2.run.crews = s.run.crews ∧ (s.startOp kind hk engine d none scope).2.mem = s.mem := by
  refine ⟨_, rfl, rfl, rfl, ?_, rfl, rfl, rfl⟩
  let p := s.number (agentKey hk engine (coreOf s.cur) 0) (kindBits hk) s.now.guest scope
  exact modNow_now p.2.fresh.2 (fun u => u.awaitFuture d (opHandle hk engine (coreOf s.cur) p.1 none))

theorem crewKey_of_crewOf {s : State} {h : Nat} {c : Crew} (has : s.crewOf h = some c) : (s.hart h).place.crewKey = c.key := by
  obtain ⟨-, found⟩ := Option.ite_none_right_eq_some.1 has
  unfold State.crew? at found
  have same := List.find?_some found
  exact (beq_iff_eq.1 same).symm

end Sys2Proof.Laws
end
section
/-! OBLIGATION O36. Matrix forms at issue: one lemma per form of a converged team past its checks. -/
namespace Sys2Proof.Laws

open Machine Safety

/-- A form that changes its crew and ends (what the statement of the matrix forms says of most of them). -/
def changesCrew (i : Instr) (s : State) (c : Crew) (f : Crew → Crew) : Prop :=
  exec i s = .next ((s.unwait.modCrew c.key f).modNow Hart.advance)

section

variable {x : Args} {s : State} {c : Crew} (converged : s.now.exec = s.now.live) (has : s.crewOf s.cur = some c)
include converged has

/-! ### Chucks (R331, R332) -/

theorem chld_starts (issues : ready .chld x s = true) (inside : InRegion s c x.b 16 (16384 * fmtSize (fmtCode x.ty)))
    (quiet : c.mmaQueued = false) (settled : s.chuckLoading c (chkOf x.a) = false) :
    exec (.chld x) s = .next (((s.unwait.startOp (.chuckLoad (chkOf x.a) (s.spaOf x.b) x.ty (x.sub == 1) (c.fenced s.cur)) 4 0 x.d none 0).2.modCrew
      c.key (fun k => k.setChuck (chkOf x.a) { k.chuck (chkOf x.a) with state := 0 })).modNow Hart.advance) := by
  rw [exec_chld, execChld, matForm_of_ready has _ converged issues (fun global => by cases global)]
  simp only [unwait_spaOf, matOffset_of_inRegion has 3 inside, unwait_chuckLoading, quiet, settled, Bool.or_self, Bool.false_eq_true, if_false]
  rfl

theorem chinv_changes (issues : ready .chinv x s = true) (quiet : c.mmaQueued = false) (settled : s.chuckLoading c (chkOf x.a) = false) :
    changesCrew (.chinv x) s c
      (fun k => k.setChuck (chkOf x.a) { k.chuck (chkOf x.a) with state := 0, nancol := 0, exps := [] }) := by
  rw [changesCrew, exec_chinv, execChinv, matForm_of_ready has _ converged issues (fun global => by cases global)]
  simp only [unwait_chuckLoading, quiet, settled, Bool.or_self, Bool.false_eq_true, if_false]
  rfl

/-! ### Chains (R333 to R335) -/

/-- The tiles of a redundant arrangement know their shadows (R325). -/
def linkShadows (t half : Nat) (k : Crew) : Crew :=
  (List.range half).foldl (fun (k : Crew) j =>
    let k2 := k.setTile (t + j) { k.tile (t + j) with shadow := some (t + half + j) }
    k2.setTile (t + half + j) { k2.tile (t + half + j) with shadow := none }) k

/-- A crew whose team opens a chain on a tile. -/
def chainOpened (hart t bar : Nat) (f : FmtBlock) (k : Crew) : Crew :=
  let k1 : Crew := { k.fence hart with chains := k.chains ++ [⟨t, f, bar, 0, [], 0, false⟩] }
  if f.red = true then linkShadows t (f.nc / 2) k1 else k1

theorem mcb_changes (issues : ready .mcb x s = true) (none_ : c.chains.find? (fun ch => !ch.closed) = none)
    (inside : InRegion s c x.a 32 32) (good : fmtBlockOk (c.scratchAt (s.spaOf x.a) 32) c.kernel.scratch = true)
    (chucks : 32 ≤ c.kernel.chucks) (tiles : accOf x.d + (fmtBlockOf (c.scratchAt (s.spaOf x.a) 32)).nc ≤ c.kernel.acc)
    (free : ∀ j, j < (fmtBlockOf (c.scratchAt (s.spaOf x.a) 32)).nc → s.tileBusy c (accOf x.d + j) = false) :
    changesCrew (.mcb x) s c (chainOpened s.cur (accOf x.d) (barOf x.b) (fmtBlockOf (c.scratchAt (s.spaOf x.a) 32))) := by
  have shut : c.chains.any (fun ch => !ch.closed) = false :=
    List.any_eq_false.2 fun ch mem => List.find?_eq_none.1 none_ ch mem
  have idle : (List.range (fmtBlockOf (c.scratchAt (s.spaOf x.a) 32)).nc).any (fun j => s.tileBusy c (accOf x.d + j)) = false :=
    List.any_eq_false.2 fun j mem => by rw [free j (List.mem_range.1 mem)]; decide
  rw [changesCrew, exec_mcb, execMcb, matForm_of_ready has _ converged issues (fun global => by cases global)]
  simp only [shut, unwait_spaOf, matOffset_of_inRegion has 2 inside, good, Bool.not_true, Bool.false_eq_true, if_false, unwait_tileBusy, idle,
    Nat.not_lt.2 chucks, Nat.not_lt.2 tiles, decide_false, Bool.or_self]
  rfl

/-- A chain with one more MMA behind it. -/
def chainFed (ch : Chain) (q : QMma) : Chain := { ch with m := ch.m + 1, queue := ch.queue ++ [q] }

theorem mma_changes (issues : ready .mma x s = true) {ch : Chain} (found : c.chains.find? (fun ch => !ch.closed) = some ch)
    (short : (ch.m + 1) * ch.fmt.kTotal ≤ 2 ^ 20)
    (full : ∀ q, q < 32 → s.chuckLoading c q = false ∧ (c.chuck q).state = 1 ∧ (c.chuck q).fmt.toNat = ch.fmt.bfmt)
    (inside : InRegion s c x.a 16 (64 * ch.fmt.kTotal * fmtSize ch.fmt.afmt))
    (ascales : ch.fmt.ascale = 0 ∨ ch.fmt.ascale + (ch.m + 1) * 64 * ch.fmt.ga ≤ c.kernel.scratch)
    (bscales : ch.fmt.bscale = 0 ∨ ch.fmt.bscale + (ch.m + 1) * ch.fmt.subs * 128 * ch.fmt.gb ≤ c.kernel.scratch)
    (room : sumN ((s.run.crews.filter (fun k => k.core == c.core)).map (fun k => sumN (k.chains.map (fun h => h.queue.length)))) < 8) :
    changesCrew (.mma x) s c (fun k => { k with chains := k.chains.map (fun h =>
      if h == ch then chainFed ch ⟨ch.m, s.spaOf x.a, x.sub == 1, c.fenced s.cur⟩ else h) }) := by
  have loaded : (List.range 32).any (s.unwait.chuckLoading c) = false :=
    List.any_eq_false.2 fun q mem => by rw [unwait_chuckLoading, (full q (List.mem_range.1 mem)).1]; decide
  have held : (List.range 32).find? (fun q => (c.chuck q).state != 1 || (c.chuck q).fmt.toNat != ch.fmt.bfmt) = none :=
    List.find?_eq_none.2 fun q mem => by
      obtain ⟨-, state, format⟩ := full q (List.mem_range.1 mem)
      simp [state, format]
  have na := scales_inside (m := ch.m) (n := 64 * ch.fmt.ga) (by simpa only [Nat.mul_assoc] using ascales)
  have nb := scales_inside (m := ch.m) (n := ch.fmt.subs * 128 * ch.fmt.gb) (by simpa only [Nat.mul_assoc] using bscales)
  simp only [← Nat.mul_assoc] at na nb
  rw [changesCrew, exec_mma, execMma, matForm_of_ready has _ converged issues (fun global => by cases global)]
  simp only [found, Nat.not_lt.2 short, if_false, loaded, Bool.false_eq_true, held, unwait_spaOf,
    matOffset_of_inRegion has 2 inside, na, nb, Option.orElse_none, unwait_run, Nat.not_le.2 room, unwait_cur]
  rfl

theorem mce_changes (issues : ready .mce x s = true) {ch : Chain} (found : c.chains.find? (fun ch => !ch.closed) = some ch) :
    changesCrew (.mce x) s c (fun k => { k with chains := k.chains.map (fun h => if h == ch then { h with closed := true } else h) }) := by
  rw [changesCrew, exec_mce, execMce, matForm_of_ready has _ converged issues (fun global => by cases global)]
  simp only [found]
  rfl

theorem morf_changes (issues : ready .morf x s = true) : changesCrew (.morf x) s c (fun k => k.fence s.cur) := by
  rw [changesCrew, exec_morf, execMorf, matForm_of_ready has _ converged issues (fun global => by cases global)]
  rfl

/-! ### Tiles (R343, R351, R356) -/

theorem mclr_changes (issues : ready .mclr x s = true) {n : Nat} (count : n = if x.b = .none then 1 else (immInt x.b).toNat)
    (tiles : accOf x.a + n ≤ c.kernel.acc)
    (free : ∀ t ∈ (List.range n).map (accOf x.a + ·), c.openOn t = false ∧ s.tileBusy c t = false) :
    changesCrew (.mclr x) s c (fun k => ((List.range n).map (accOf x.a + ·)).foldl (fun k t => k.setTile t Tile.init) k) := by
  have shut : ((List.range n).map (accOf x.a + ·)).find? c.openOn = none :=
    List.find?_eq_none.2 fun t mem => by rw [(free t mem).1]; decide
  have idle : ((List.range n).map (accOf x.a + ·)).any (s.unwait.tileBusy c) = false :=
    List.any_eq_false.2 fun t mem => by rw [unwait_tileBusy, (free t mem).2]; decide
  rw [changesCrew, exec_mclr, execMclr, matForm_of_ready has _ converged issues (fun global => by cases global)]
  simp only [beq_iff_eq, ← count, Nat.not_lt.2 tiles, if_false, shut, idle, Bool.false_eq_true]
  rfl

theorem msmx_starts (issues : ready .msmx x s = true) (acquired : s.acqPending s.cur = false) (inside : InRegion s c x.a 32 32)
    (good : msmxBad (c.scratchAt (s.spaOf x.a) 32) (x.sub == 1) = false) {b : MsmxBlock}
    (block : b = msmxBlock (c.scratchAt (s.spaOf x.a) 32) (x.sub == 1)) (tile : b.otile < c.kernel.acc)
    (fits : b.pdst + (63 * b.pitch + 128 * fmtSize b.pfmt) ≤ c.kernel.scratch) (shut : c.openOn (accOf x.d) = false)
    (closed : c.closingOn (accOf x.d) = false) (drained : s.drainOn c (accOf x.d) = false) :
    exec (.msmx x) s = .next ((s.unwait.plainOp (.msmx (accOf x.d) (barOf x.b) b)).modNow Hart.advance) := by
  rw [exec_msmx, execMsmx, matForm_of_ready has _ converged issues (fun _ => acquired)]
  simp only [unwait_spaOf, matOffset_of_inRegion has 2 inside, good, Bool.false_eq_true, if_false, ← block, Nat.not_le.2 tile,
    beyond_of_le fits, shut, closed, unwait_drainOn, drained, Bool.or_self]
  rfl

theorem mscl_starts (issues : ready .mscl x s = true) (shut : c.openOn (accOf x.d) = false) (closed : c.closingOn (accOf x.d) = false)
    (drained : s.drainOn c (accOf x.d) = false) :
    exec (.mscl x) s = .next ((s.unwait.plainOp (.mscl (accOf x.d) (barOf x.b))).modNow Hart.advance) := by
  rw [exec_mscl, execMscl, matForm_of_ready has _ converged issues (fun global => by cases global)]
  simp only [shut, closed, unwait_drainOn, drained, Bool.or_self, Bool.false_eq_true, if_false]
  rfl

end

/-- Settles O36: each form of a converged team past its checks. -/
theorem matrixForms : Obligations.MatrixForms := by
  intro x s c converged has fits gives q opened block
  refine ⟨fun issues inside quiet settled => ?_, chinv_changes converged has,
    fun issues none_ inside good => mcb_changes converged has issues none_ inside good,
    fun issues ch found => mma_changes converged has issues found, fun issues ch => mce_changes converged has issues,
    morf_changes converged has, fun issues => mclr_changes converged has issues rfl,
    fun issues acquired inside good => msmx_starts converged has issues acquired inside good rfl, mscl_starts converged has⟩
  have effect := chld_starts converged has issues inside quiet settled
  obtain ⟨op, kind, hart, crew, now, ops, crews, mem⟩ := startOp_untagged s.unwait
    (.chuckLoad q (s.spaOf x.b) x.ty (x.sub == 1) (c.fenced s.cur)) 4 0 x.d 0
  have place : op.crew = c.key := by rw [crew, unwait_place, ← crewKey_of_crewOf has]; rfl
  have here := modNow_now ((s.unwait.startOp (.chuckLoad q (s.spaOf x.b) x.ty (x.sub == 1) (c.fenced s.cur)) 4 0 x.d none 0).2.modCrew
    c.key (fun k => k.setChuck q { k.chuck q with state := 0 })) Hart.advance
  have now := here.trans (congrArg Hart.advance now)
  obtain ⟨vectors, predicates⟩ := awaitFuture_keeps s.unwait.now x.d op.handle
  refine ⟨_, op, effect, ?_, memoryKept_of_mem mem, ?_, ?_, ops, kind, hart, place, ?_, fun r => ?_⟩
  · rw [now, advance_pc, generalOnly_pc (generalOnly_awaitFuture ..), unwait_pc]
  · exact fun r l => by rw [now, getV_advance, vectors, unwait_getV]
  · exact fun r => by rw [now, getK_advance, predicates, unwait_getK]
  · exact congrArg (updWhere _ _) crews
  · rw [now, getS_advance, getS_awaitFuture, unwait_getS]

end Sys2Proof.Laws
end

section
/-! OBLIGATION O53, refuted. A copy that a full cache takes pushes out the line that it has had longest; where a prefetch brought that line
in and no sector of it was used, the eviction counts in the thread that prefetched it (R475): the touch of a line changes a hart. -/
namespace Sys2Proof.Laws

open Machine

/-! ### The home grants a copy -/

/-- A read of a line that no unit covers takes a copy of it. -/
theorem cohTouch_uncovered {s : State} {h line a g : Nat} (homed : homeOf (line * 128) = some h) (empty : (s.home h).dir = []) :
    (s.cohTouch a g false line false false).1 =
      (((s.serveFree h line a g .rd).mergeLines line 1).count (line * 128) false).keepCopy h line a false := by
  simp only [State.cohTouch, homed, State.holds, State.dirServe, empty, List.any_nil, List.find?_nil, Bool.false_and, Bool.and_false,
    Bool.false_eq_true, if_false]
  rfl

/-- What an eviction reads of the state: the copies in the caches, and the harts; and the frames, by which a count decides on a notice. -/
def copiesAndFrames (s : State) : Sparse (List CohLine) × Sparse FrameRec × Sparse Hart := (s.mem.copies, s.mem.frames, s.harts)

theorem copiesAndFrames_mergePartial (s : State) (p : Partial) : copiesAndFrames (s.mergePartial p) = copiesAndFrames s :=
  obs_ite copiesAndFrames rfl rfl

theorem copiesAndFrames_mergeLines (s : State) (line n : Nat) : copiesAndFrames (s.mergeLines line n) = copiesAndFrames s :=
  foldl_leaves copiesAndFrames copiesAndFrames_mergePartial _ s

theorem copiesAndFrames_serveFree {s : State} {h : Nat} (line a g : Nat) (k : DReq) (empty : (s.home h).dir = []) :
    copiesAndFrames (s.serveFree h line a g k) = copiesAndFrames s := by
  have room : ¬ ([] : List DirEntry).length ≥ dirCapacity h := by
    unfold dirCapacity
    split <;> decide
  unfold State.serveFree
  split
  · rw [State.addEntry, empty, if_neg room]
    rfl
  · rfl

/-- A frame without a notice to give is counted, and no more. -/
theorem copies_count {s : State} (pa : Nat) (write : Bool) (silent : ∀ f, (s.frame f).ntfy = false) :
    (s.count pa write).mem.copies = s.mem.copies ∧ (s.count pa write).harts = s.harts := by
  have quiet : ∀ (u : State) (n : Nat) (g : FrameRec → FrameRec), u.mem.frames = s.mem.frames → (∀ r, (g r).ntfy = r.ntfy) →
      ∀ f, ((u.modFrame n g).frame f).ntfy = false := by
    intro u n g frames keeps f
    have was := silent f
    simp only [State.frame, State.modFrame, State.modMem, sget_sset, frames] at was ⊢
    split
    · next same => rw [keeps, same]; exact was
    · exact was
  simp only [State.count]
  rw [if_neg]
  · split <;> exact ⟨rfl, rfl⟩
  · rw [quiet _ _ _ (by split <;> rfl) (fun r => by split <;> rfl)]
    simp

/-! ### The cache takes it -/

/-- The count of an eviction in the harts reads no more of the state than them. -/
theorem harts_countEvicted {s t : State} (same : s.harts = t.harts) (of_ : Nat → Bool) (line : Nat) :
    (s.countEvicted of_ line).harts = (t.countEvicted of_ line).harts := by
  have folded : ∀ (g : Hart → Hart) (l : List Nat) (u v : State), u.harts = v.harts →
      (l.foldl (fun st h => st.modHart h g) u).harts = (l.foldl (fun st h => st.modHart h g) v).harts := by
    intro g l
    induction l with
    | nil => exact fun u v same => same
    | cons h l ih => exact fun u v same => ih _ _ (by simp only [State.modHart, State.setHart, State.hart, same])
  simp only [State.countEvicted, same]
  refine folded _ _ _ _ ?_
  rw [apply_ite State.harts, apply_ite State.harts]
  exact (ite_self _).trans (same.trans (ite_self _).symm)

/-- A full cache gives up the line that it has had longest, which counts as an eviction in the harts. -/
theorem keepCopy_full {s : State} {h line a cap : Nat} {write : Bool} {first : CohLine} {rest : List CohLine} (cache : (a == 4) = false)
    (holds : sget [] s.mem.copies (cacheOf a h) = first :: rest) (others : ∀ c ∈ first :: rest, (c.line != line) = true)
    (size : cacheLines (cacheOf a h) = some cap) (full : cap ≤ (first :: rest).length) (clean : first.dirty = false) :
    (s.keepCopy h line a write).harts =
      (s.countEvicted (fun k => decide (192 ≤ k) && agentOf k == cacheOf a h / 2) first.line).harts := by
  have stays : (first :: rest).filter (fun c => c.line != line) = first :: rest := List.filter_eq_self.2 others
  simp only [State.keepCopy, cache, Bool.false_eq_true, if_false, holds, stays, size, ge_iff_le, full, if_true, State.evictCopy, clean,
    Bool.not_false]
  refine harts_countEvicted ?_ ..
  rfl

/-! ### The state -/

/-- Host thread 0 has prefetched the four sectors of line 1 and used none. -/
def prefetcher : State := { State.reset with harts := [(0, { Hart.init with fetched := [4, 5, 6, 7] })] }

/-- The host die's remote data cache beside it holds some lines. -/
def besideCache (l : List CohLine) : State := prefetcher.modMem (fun m => { m with copies := [(4, l)] })

/-- Where that cache is full, a copy of line 0 that it takes changes the harts as the eviction of its first line does. -/
theorem harts_cohTouch_besideCache {first : CohLine} {rest : List CohLine} (others : ∀ c ∈ first :: rest, (c.line != 0) = true)
    (full : 2 ^ 19 ≤ (first :: rest).length) (clean : first.dirty = false) :
    ((besideCache (first :: rest)).cohTouch 2 0 false 0 false false).1.harts =
      (prefetcher.countEvicted (fun k => decide (192 ≤ k) && agentOf k == 2) first.line).harts := by
  have served := (copiesAndFrames_mergeLines ((besideCache (first :: rest)).serveFree 0 0 2 0 .rd) 0 1).trans
    (copiesAndFrames_serveFree 0 2 0 .rd rfl)
  obtain ⟨copies, kept⟩ := Prod.mk.inj served
  obtain ⟨frames, harts⟩ := Prod.mk.inj kept
  obtain ⟨counted, hartsCounted⟩ := copies_count (s := ((besideCache (first :: rest)).serveFree 0 0 2 0 .rd).mergeLines 0 1) (0 * 128) false
    (fun f => by rw [State.frame, frames]; rfl)
  rw [cohTouch_uncovered (h := 0) (by decide) rfl,
    keepCopy_full (cap := 2 ^ 19) rfl (by rw [counted, copies]; rfl) others rfl full clean]
  exact harts_countEvicted (t := prefetcher) (hartsCounted.trans harts) _ _

/-- The lines 1 to n, in the order in which a cache took them. -/
def linesTo (n : Nat) : List CohLine := (List.range n).map (fun i => ⟨i + 1, false⟩)

theorem linesTo_succ (n : Nat) : linesTo (n + 1) = ⟨1, false⟩ :: (linesTo n).map (fun c => ⟨c.line + 1, false⟩) := by
  simp only [linesTo, List.range_succ_eq_map, List.map_cons, List.map_map]
  rfl

theorem line_of_mem_linesTo {n : Nat} {c : CohLine} (mem : c ∈ linesTo n) : (c.line != 0) = true := by
  obtain ⟨i, -, rfl⟩ := List.mem_map.1 mem
  simp

theorem length_linesTo (n : Nat) : (linesTo n).length = n := by rw [linesTo, List.length_map, List.length_range]

/-- Refutes O53: a touch that takes a copy evicts the longest held line of the agent's cache, and that counts in the thread that prefetched
it. -/
theorem not_homeEvents : ¬ Obligations.HomeEvents := by
  intro holds
  have lines := linesTo_succ (2 ^ 19)
  obtain ⟨-, touched, -⟩ := holds (besideCache (⟨1, false⟩ :: (linesTo (2 ^ 19)).map (fun c => ⟨c.line + 1, false⟩)))
  have changed := harts_cohTouch_besideCache (fun c mem => line_of_mem_linesTo (lines ▸ mem))
    (by rw [← lines, length_linesTo]; exact Nat.le_succ _) rfl
  exact absurd (changed.symm.trans (touched 2 0 0 false)) (by decide +kernel)

end Sys2Proof.Laws
end

section
/-! SUPPORT. Data at the home: what an access reads and writes there, and the answer that it sends (R250, R262, R265). -/
namespace Sys2Proof.Laws

open Machine

/-! ### A write at the home is read back -/

/-- Bytes that stand at the addresses from one on are those bytes, placed there. -/
theorem placed_of_addresses {a : Nat} {l : List (Nat × Byte)} (addresses : l.map Prod.fst = (List.range l.length).map (a + ·)) :
    placed a (l.map Prod.snd) = l := by
  refine List.ext_getElem (by simp [placed]) fun i _ inside => ?_
  have at_ : (l.map Prod.fst)[i]'(by simpa using inside) = a + i := by simp [addresses]
  rw [List.getElem_map] at at_
  simp only [placed, List.getElem_map, List.getElem_zip, List.getElem_range]
  rw [← at_]

/-- What the mode leaves of a write, placed where the write was (R6). -/
theorem placed_guarded (s : State) (mode : Mode) (a : Nat) (bs : List Byte) :
    placed a ((s.guarded mode (placed a bs)).map Prod.snd) = s.guarded mode (placed a bs) := by
  refine placed_of_addresses ?_
  rw [guarded_addresses]
  simp only [placed, State.guarded, List.map_map, List.length_map, List.length_zip, List.length_range, Nat.min_self]
  refine List.ext_getElem (by simp) fun i _ _ => ?_
  simp

/-- Bytes written inside one frame whose homes stand are the ones read there after. -/
theorem cohPeek_cohPoke (s : State) (by_ : Nat) {a : Nat} {bs : List Byte} (poison : List Nat) (inFrame : a % 4096 + bs.length ≤ 4096)
    (alive : ∀ i, i < bs.length → s.homeFailed (a + i) = false) : ((s.cohPoke by_ (placed a bs) poison).cohPeek a bs.length).1 = bs := by
  refine List.ext_getElem (by simp [State.cohPeek]) fun i _ inside => ?_
  simp only [State.cohPeek, List.getElem_map, List.getElem_range, cohPoke_byte, cohPoke_readAddr]
  have read := mem_writeAddrs (readAddr_mem_writeAddrs s (a + i))
  refine memory_get_setAll_agree (fun q mem same => ?_)
    (.inr ⟨(s.readAddr (a + i), bs[i]), mem_coherentCells.2 ⟨_, mem_placed.2 ⟨i, inside, rfl⟩, alive i inside,
      readAddr_mem_writeAddrs .., rfl⟩, rfl⟩)
  obtain ⟨p, put, -, applied, value⟩ := mem_coherentCells.1 mem
  obtain ⟨j, _, rfl⟩ := mem_placed.1 put
  have offset := mem_writeAddrs applied
  rw [same, read] at offset
  obtain rfl : i = j := by omega
  exact value

theorem homeFailed_of_cohPeek {s : State} {pa n : Nat} (good : (s.cohPeek pa n).2 = false) {i : Nat} (inside : i < n) :
    s.homeFailed (pa + i) = false := by
  have both := List.any_eq_false.1 good i (List.mem_range.2 inside)
  simp only [Bool.or_eq_true, not_or, Bool.not_eq_true] at both
  exact both.2

/-- What an access leaves at the home where it reads `old`: a write of the new value where there is one. -/
def updatedAt (s : State) (h : Nat) (mode : Mode) (pa n : Nat) : Option Nat → State
  | none => s
  | some v => s.cohPoke h (s.guarded mode (placed pa (toBytes n v))) []

theorem cohPeek_updatedAt {s : State} (h : Nat) (mode : Mode) {pa n : Nat} (v : Nat) (line : pa % 128 + n ≤ 128)
    (good : (s.cohPeek pa n).2 = false) :
    ((updatedAt s h mode pa n (some v)).cohPeek pa n).1 = (s.guarded mode (placed pa (toBytes n v))).map Prod.snd := by
  have size : ((s.guarded mode (placed pa (toBytes n v))).map Prod.snd).length = n := by
    simp [State.guarded, placed]
  have read := cohPeek_cohPoke s h (a := pa) (bs := (s.guarded mode (placed pa (toBytes n v))).map Prod.snd) []
    (by rw [size]; omega) (by rw [size]; exact fun i => homeFailed_of_cohPeek good)
  rwa [size, placed_guarded] at read

/-- The home takes an access and has the bytes: it reads them and writes the new value, as one step. -/
theorem atPoint_home {s : State} {core guest : Nat} {mode : Mode} {pa n : Nat} {writes : Bool} (h : Nat) (f : Nat → Option Nat)
    (taken : (s.cohTouch (agentOf core) guest (mode == .fw) (pa / 128) writes true).2 = true)
    (good : ((s.cohTouch (agentOf core) guest (mode == .fw) (pa / 128) writes true).1.cohPeek pa n).2 = false) :
    let q := (s.cohTouch (agentOf core) guest (mode == .fw) (pa / 128) writes true).1
    s.atPoint h core guest mode 3 pa n writes f =
      ⟨ofBytes (q.cohPeek pa n).1, false, true, updatedAt q h mode pa n (f (ofBytes (q.cohPeek pa n).1))⟩ := by
  intro q
  simp only [State.atPoint, show (3 == 0) = false from rfl, show (3 == 1) = false from rfl, show (3 == 2) = false from rfl,
    show (3 == 3) = true from rfl, Bool.or_false, taken, good, Bool.not_true, Bool.false_eq_true, if_false]
  cases f (ofBytes (q.cohPeek pa n).1) <;> rfl

/-! ### The answer -/

/-- The stamp of a request at its home, and the state in which it is performed (R283). -/
def stampedFor (s : State) (r : Req) : Nat × State := if r.weak = true then (0, s) else s.stampFor 3 r.core r.pa r.order r.clock

/-- The answer to a request that was performed and read `old`: a reply, or the acknowledgement of a write that fills no register. -/
def answered (s : State) (r : Req) (stamp old : Nat) : State :=
  if r.reg.isSome = true then s.reply r (r.fill old false) stamp (r.kind.succeeded old false)
  else if r.kind.writes = true then
    s.acknowledge r.place r.tag r.core stamp (r.pa / 128) r.order r.scope (r.demotion (r.kind.succeeded old false))
  else s.reply r [] stamp (r.kind.succeeded old false)

@[simp] theorem cohPeek_answered (s : State) (r : Req) (stamp old pa n : Nat) :
    (answered s r stamp old).cohPeek pa n = s.cohPeek pa n := by
  unfold answered
  split_ifs <;> rfl

theorem reply_of_answered (s : State) {r : Req} (stamp old : Nat) {d : Nat} (fills : r.reg = some d) :
    ∃ p ∈ (answered s r stamp old).mem.replies, p.id = r.id ∧ p.hart = r.hart ∧ p.regs = r.fill old false := by
  rw [answered, fills]
  exact ⟨_, List.mem_append_right _ (List.mem_singleton_self _), rfl, rfl, rfl⟩

theorem ack_of_answered (s : State) {r : Req} (stamp old : Nat) (none_ : r.reg = none) (writes : r.kind.writes = true) :
    ∃ a ∈ (answered s r stamp old).mem.acks, a.id = r.place ∧ a.tag = r.tag := by
  rw [answered, none_, if_neg (by simp), if_pos writes]
  exact ⟨_, List.mem_append_right _ (List.mem_singleton_self _), rfl, rfl⟩

/-! ### A request of data at its home -/

/-- What a request that its home takes finds there. -/
structure AtHome (s : State) (r : Req) (t : State) (old : Nat) : Prop where
  level : r.level = 3
  memory : selector r.pa < 14
  line : r.pa % 128 + r.size ≤ 128
  taken : (stampedFor s r).2.cohTouch (agentOf r.core) r.guest (r.mode == .fw) (r.pa / 128) r.kind.writes true = (t, true)
  good : (t.cohPeek r.pa r.size).2 = false
  read : ofBytes (t.cohPeek r.pa r.size).1 = old

section

variable {s t : State} {r : Req} {old : Nat} (home : AtHome s r t old)
include home

theorem atPoint_atHome : (stampedFor s r).2.atPoint r.hart r.core r.guest r.mode r.level r.pa r.size r.kind.writes r.kind.update =
    ⟨old, false, true, updatedAt t r.hart r.mode r.pa r.size (r.kind.update old)⟩ := by
  obtain ⟨level, -, -, taken, good, rfl⟩ := home
  have point := atPoint_home (n := r.size) r.hart r.kind.update (congrArg Prod.snd taken) (by rw [taken]; exact good)
  rw [level, point, taken]

/-- A request that writes by its value is performed and answered. -/
theorem performData_atHome (data : ∀ d m, r.kind ≠ .store d m) (ends : ∀ e, r.kind = .ldp e → old ≠ e ∨ r.parked = true) :
    s.performData r = answered (updatedAt t r.hart r.mode r.pa r.size (r.kind.update old)) r (stampedFor s r).1 old := by
  have point := atPoint_atHome home
  obtain ⟨level, memory, -⟩ := home
  have stamp : (if r.weak = true then (0, s) else s.stampFor r.level r.core r.pa r.order r.clock) = stampedFor s r := by rw [level]; rfl
  simp only [State.performData, stamp, ge_iff_le, Nat.not_le.2 memory, if_false]
  rw [point]
  simp only [Bool.not_true, Bool.not_false, Bool.false_eq_true, if_false, Bool.true_and, Bool.false_and, Bool.or_false]
  unfold answered
  split
  · next e kind =>
    rw [if_neg (by simpa [Decidable.imp_iff_not_or] using ends e kind)]
    cases r.reg <;> rfl
  · cases r.reg <;> rfl

/-- A polling load that finds what it expects stays at its home. -/
theorem performData_ldp_stays {e : Nat} (kind : r.kind = .ldp e) (same : old = e) (first : r.parked = false) :
    s.performData r = t.modMem (fun m => { m with reqs := m.reqs ++ [{ r with parked := true, since := s.cycles.toNat }] }) := by
  have point := atPoint_atHome home
  obtain ⟨level, memory, -⟩ := home
  have stamp : (if r.weak = true then (0, s) else s.stampFor r.level r.core r.pa r.order r.clock) = stampedFor s r := by rw [level]; rfl
  rw [kind] at point
  simp only [State.performData, stamp, ge_iff_le, Nat.not_le.2 memory, if_false, kind, point]
  rw [if_pos (by simp [same, first])]
  rfl

end

end Sys2Proof.Laws
end

section
/-! OBLIGATION O34. Atomics, CAS and loads performed at the home. -/
namespace Sys2Proof.Laws

open Machine

/-- The order by which MIN and MAX of a type choose (R262). -/
theorem less_iff (signed : Bool) (w x y : Nat) :
    (if signed = true then decide (toSigned w x < toSigned w y) else decide (x < y)) = true ↔
      if signed = true then toSigned w x < toSigned w y else x < y := by
  split <;> exact decide_eq_true_iff

theorem amoResult_of_integer {ty : Ty} (integer : ty ≠ .f32) (op old b : Nat) : amoResult op ty old b =
    combine op (tySigned ty) (tyBits ty) old b := if_neg (by simpa using integer)

/-- Settles O34: the home takes the access and has its bytes, so that what it writes is read back there and what it answers carries the old
value; only a polling load that finds what it expects is not answered. -/
theorem atomicsAtHome : Obligations.AtomicsAtHome := by
  intro s r level keep memory line s0 q taken good old t holds stays answer
  have home : AtHome s r q.1 old := by
    have same : s0 = (stampedFor s r).2 := by rw [stampedFor, apply_ite Prod.snd]
    exact ⟨level, memory, line, by rw [← same]; exact Prod.ext rfl taken, good, rfl⟩
  have reply : ∀ u : State, t = answered u r (stampedFor s r).1 old → answer := fun u performed d fills =>
    performed ▸ reply_of_answered u _ old fills
  have write : ∀ v, r.kind.update old = some v →
      t = answered (updatedAt q.1 r.hart r.mode r.pa r.size (r.kind.update old)) r (stampedFor s r).1 old → holds v := by
    intro v new performed
    show (t.cohPeek _ _).1 = _
    rw [performed, cohPeek_answered, new, cohPeek_updatedAt r.hart r.mode v line good]
  have leave : r.kind.update old = none →
      t = answered (updatedAt q.1 r.hart r.mode r.pa r.size (r.kind.update old)) r (stampedFor s r).1 old → stays := by
    intro none_ performed
    show (t.cohPeek _ _).1 = _
    rw [performed, cohPeek_answered, none_]
    rfl
  refine ⟨fun op ty b kind => ?_, fun e n kind => ?_, fun kind => ?_, fun e kind => ?_⟩
  · intro w less
    have performed := performData_atHome home (by rcases kind with k | k <;> simp [k]) (by rcases kind with k | k <;> simp [k])
    have new : r.kind.update old = some (amoResult op ty old b) := by rcases kind with k | k <;> rw [k] <;> rfl
    have place : r.place = r.id := by rcases kind with k | k <;> rw [Req.place, k]
    have writes : r.kind.writes = true := by rcases kind with k | k <;> rw [k] <;> rfl
    refine ⟨reply _ performed, fun none_ => ?_, fun integer => ?_, fun single => ?_⟩
    · obtain ⟨a, mem, id, tag⟩ := ack_of_answered _ _ old none_ writes
      exact ⟨a, by rw [show t = _ from performed]; exact mem, id.trans place, tag⟩
    · have held := write _ new performed
      rw [amoResult_of_integer integer] at held
      refine (congrArg holds ?_).mp held
      rcases op with _ | _ | _ | _ | _ | _ | op
      · rfl
      · exact if_congr (less_iff ..) rfl rfl
      · exact if_congr (less_iff ..) rfl rfl
      all_goals rfl
    · have held := write _ new performed
      rwa [amoResult, if_pos (by simp [single])] at held
  · have performed := performData_atHome home (by simp [kind]) (by simp [kind])
    refine ⟨reply _ performed, fun same => write n ?_ performed, fun other => leave ?_ performed⟩
    · simp [kind, ReqKind.update, same]
    · simp [kind, ReqKind.update, other]
  · have performed := performData_atHome home (by simp [kind]) (by simp [kind])
    exact ⟨reply _ performed, leave (by rw [kind]; rfl) performed⟩
  · have never : r.kind.update old = none := by rw [kind]; rfl
    have ended : old ≠ e ∨ r.parked = true →
        t = answered (updatedAt q.1 r.hart r.mode r.pa r.size (r.kind.update old)) r (stampedFor s r).1 old :=
      fun ends => performData_atHome home (by simp [kind]) (fun f same => by rw [kind] at same; cases same; exact ends)
    have parked : old = e → r.parked = false →
        t = q.1.modMem (fun m => { m with reqs := m.reqs ++ [{ r with parked := true, since := s.cycles.toNat }] }) :=
      performData_ldp_stays home kind
    refine ⟨?_, fun ends => reply _ (ended ends), fun same first => ?_⟩
    · by_cases ends : old ≠ e ∨ r.parked = true
      · exact leave never (ended ends)
      · obtain ⟨same, first⟩ := not_or.1 ends
        show (t.cohPeek _ _).1 = _
        rw [parked (not_not.1 same) (by simpa using first)]
        rfl
    · rw [parked same first]
      exact ⟨rfl, _, List.mem_append_right _ (List.mem_singleton_self _), rfl⟩

end Sys2Proof.Laws
end

section
/-! SUPPORT. The requests that a strong access, an atomic or a keeping form sends: each waits at its home, and what is written back below it
first changes no register, and no byte where nothing is dirty (R250, R251). -/
namespace Sys2Proof.Laws

open Machine Safety

/-! ### What a write-back leaves -/

/-- The requests that wait at their points, and are not held there. -/
@[irreducible] def waitingReqs (s : State) : List Req := s.mem.reqs.filter (fun r => !r.parked)

theorem waitingReqs_of {s t : State} (reqs : t.mem.reqs = s.mem.reqs) : waitingReqs t = waitingReqs s := by
  simp only [waitingReqs, reqs]

theorem mem_reqs_of_waiting {s : State} {q : Req} (waits : q ∈ waitingReqs s) : q ∈ s.mem.reqs := by
  simp only [waitingReqs] at waits
  exact (List.mem_filter.1 waits).1

/-- A write releases requests that are held, and no other. -/
theorem filter_releaseLdp (by_ : Nat) (at_ : Req → Bool) (lines : List Nat) (rs : List Req) :
    (releaseLdp by_ at_ lines rs).filter (fun r => !r.parked) = rs.filter (fun r => !r.parked) := by
  rw [releaseLdp, List.filter_map]
  refine Eq.trans (congrArg _ (List.filter_congr fun r _ => ?_)) ((List.map_congr_left fun r mem => ?_).trans (List.map_id _))
  · rw [Function.comp_apply]
    split <;> rfl
  · have free := (List.mem_filter.1 mem).2
    exact if_neg (by simp_all)

theorem waitingReqs_releaseLdp {s t : State} {by_ : Nat} {at_ : Req → Bool} {lines : List Nat}
    (reqs : t.mem.reqs = releaseLdp by_ at_ lines s.mem.reqs) : waitingReqs t = waitingReqs s := by
  simp only [waitingReqs, reqs, filter_releaseLdp]

theorem cacheKept_waitingReqs : CacheKept waitingReqs where
  hub _ _ _ := waitingReqs_of rfl
  home _ _ _ := waitingReqs_of rfl
  frame _ _ _ := waitingReqs_of rfl
  sent _ _ := waitingReqs_of rfl
  event _ _ := waitingReqs_of rfl
  poke _ _ _ _ := waitingReqs_releaseLdp rfl
  partials _ _ := waitingReqs_of rfl
  copies _ _ := waitingReqs_of rfl
  tlbs _ _ := waitingReqs_of rfl
  counted _ _ _ _ _ _ := obs_ite waitingReqs rfl (waitingReqs_of rfl)
  frqs _ _ := waitingReqs_of rfl
  faults _ _ := waitingReqs_of rfl
  clusters _ _ _ := waitingReqs_of rfl
  l1 _ _ _ := waitingReqs_of rfl
  stamps _ _ _ := waitingReqs_of rfl
  released _ _ _ _ _ := waitingReqs_releaseLdp rfl
  evicted s of_ line := by
    simp only [State.countEvicted]
    refine (foldl_leaves waitingReqs (fun _ _ => waitingReqs_of (by rfl)) _ _).trans ?_
    split
    · exact waitingReqs_of rfl
    · rfl

/-! ### Caches in which nothing is dirty -/

theorem dirty_eq_nil {c : Cache} (clean : c.dirty (fun _ => true) = []) (sel : Nat → Bool) : c.dirty sel = [] := by
  refine List.eq_nil_iff_forall_not_mem.2 fun p mem => ?_
  obtain ⟨held, dirty, -⟩ := mem_dirty.1 mem
  exact List.not_mem_nil (clean ▸ mem_dirty.2 ⟨held, dirty, rfl⟩)

theorem l1Back_clean {s : State} {core : Nat} (clean : (s.core core).l1.dirty (fun _ => true) = []) (sel : Nat → Bool) :
    s.l1Back core sel = s := if_pos (by rw [dirty_eq_nil clean]; rfl)

theorem clusterBack_clean {s : State} {cl : Nat} (clean : (s.cluster cl).dirty (fun _ => true) = []) (sel : Nat → Bool) :
    s.clusterBack cl sel = s := if_pos (by rw [dirty_eq_nil clean]; rfl)

/-- What goes before an access, or stands beside it, leaves the team, the requests that wait and, where no scoped cache on the core's path is
dirty, the bytes of memory. -/
structure Leaves (core : Nat) (s t : State) : Prop where
  team : crewView t = crewView s
  waiting : ∀ q ∈ waitingReqs s, q ∈ waitingReqs t
  clean : nothingDirty s core → nothingDirty t core ∧ ∀ a, t.byte a = s.byte a

theorem Leaves.refl (core : Nat) (s : State) : Leaves core s s := ⟨rfl, fun _ => id, fun clean => ⟨clean, fun _ => rfl⟩⟩

theorem Leaves.trans {core : Nat} {s t u : State} (first : Leaves core s t) (next : Leaves core t u) : Leaves core s u where
  team := next.team.trans first.team
  waiting q waits := next.waiting q (first.waiting q waits)
  clean clean := by
    obtain ⟨clean, bytes⟩ := first.clean clean
    obtain ⟨clean, bytes'⟩ := next.clean clean
    exact ⟨clean, fun a => (bytes' a).trans (bytes a)⟩

theorem leaves_release (s : State) (core scope : Nat) : Leaves core s (s.release core scope) where
  team := by simp only [State.release, apply_ite crewView, cacheKept_crewView.clusterBack, cacheKept_crewView.l1Back, ite_self]
  waiting q waits := by
    have kept : waitingReqs (s.release core scope) = waitingReqs s := by
      simp only [State.release, apply_ite waitingReqs, cacheKept_waitingReqs.clusterBack, cacheKept_waitingReqs.l1Back, ite_self]
    rwa [kept]
  clean clean := by
    have same : s.release core scope = s := by
      unfold State.release
      rcases clean with host | ⟨l1, cluster⟩
      · exact if_pos (by simp [host])
      · simp only [l1Back_clean l1, clusterBack_clean cluster, ite_self]
    rw [same]
    exact ⟨clean, fun _ => rfl⟩

theorem leaves_preStrong (s : State) (core level line : Nat) : Leaves core s (s.preStrong core level line) where
  team := cacheKept_crewView.preStrong ..
  waiting q waits := by rwa [cacheKept_waitingReqs.preStrong]
  clean clean := by
    unfold State.preStrong
    split
    · exact ⟨clean, fun _ => rfl⟩
    · next inside =>
      rcases clean with host | ⟨l1, cluster⟩
      · simp [host] at inside
      · have dropped : ∀ u : State, (u.core core).l1.dirty (fun _ => true) = [] →
            ((u.setL1 core ((u.core core).l1.dropClean (fun a => a / 128 == line))).core core).l1.dirty (fun _ => true) = [] :=
          fun u l1 => by rw [core_setL1, if_pos rfl, dirty_dropClean, l1]
        dsimp only
        rw [l1Back_clean l1]
        split
        · exact ⟨.inr ⟨dropped s l1, cluster⟩, fun _ => rfl⟩
        · rw [clusterBack_clean (by exact cluster)]
          exact ⟨.inr ⟨dropped s l1, by rw [cluster_setCluster, if_pos rfl, dirty_dropClean]; exact cluster⟩, fun _ => rfl⟩

/-! ### The requests sent -/

/-- The request of a lane, as it waits at its home. -/
structure SentFor (h size order scope : Nat) (vec : Bool) (reg : Option Nat) (kind : ReqKind) (r : LaneRef) (q : Req) : Prop where
  hart : q.hart = h
  pa : q.pa = r.pa
  va : q.va = r.va
  size : q.size = size
  kind : q.kind = kind
  lane : q.lane = if vec = true then some r.lane else none
  reg : q.reg = reg
  order : q.order = order
  scope : q.scope = scope
  level : q.level = 3
  keep : q.keep = r.keep

/-- A fold in which each step leaves what stands and sends the request of its lane. -/
theorem foldl_sends {core : Nat} {sent : LaneRef → Req → Prop} {f : State → LaneRef → State} {refs : List LaneRef}
    (step : ∀ st, ∀ r ∈ refs, Leaves core st (f st r) ∧ ∃ q ∈ waitingReqs (f st r), sent r q) (s : State) :
    Leaves core s (refs.foldl f s) ∧ ∀ r ∈ refs, ∃ q ∈ waitingReqs (refs.foldl f s), sent r q := by
  induction refs generalizing s with
  | nil => exact ⟨.refl .., fun r none_ => absurd none_ List.not_mem_nil⟩
  | cons r refs ih =>
    obtain ⟨first, q, waits, for_⟩ := step s r List.mem_cons_self
    obtain ⟨rest, sent⟩ := ih (fun st k mem => step st k (List.mem_cons_of_mem _ mem)) (f s r)
    refine ⟨first.trans rest, fun k mem => ?_⟩
    rcases List.mem_cons.1 mem with rfl | later
    · exact ⟨q, rest.waiting q waits, for_⟩
    · exact sent k later

theorem leaves_fresh (s : State) (core : Nat) : Leaves core s s.fresh.2 where
  team := crewView_of_crewSide (crewSide_of rfl rfl rfl rfl rfl)
  waiting q waits := by rwa [waitingReqs_of (s := s) (t := s.fresh.2) rfl]
  clean clean := ⟨clean, fun _ => rfl⟩

theorem waitingReqs_append (s : State) (q : Req) (free : q.parked = false) :
    waitingReqs (s.modMem (fun m => { m with reqs := m.reqs ++ [q] })) = waitingReqs s ++ [q] := by
  simp [waitingReqs, State.modMem, free]

theorem leaves_append (s : State) (core : Nat) (q : Req) (free : q.parked = false) :
    Leaves core s (s.modMem (fun m => { m with reqs := m.reqs ++ [q] })) where
  team := crewView_of_crewSide (crewSide_of rfl rfl rfl rfl rfl)
  waiting p waits := by
    rw [waitingReqs_append s q free]
    exact List.mem_append_left _ waits
  clean clean := ⟨clean, fun _ => rfl⟩

/-- Requests that go to their homes all wait there. -/
theorem sendReqs_home {s : State} (x : Args) (size order scope : Nat) {refs : List LaneRef} (vec : Bool) (reg : Option Nat)
    (kind : Nat → ReqKind) (ru : LaneRef → Bool)
    (home : ∀ r ∈ refs, (if ru r = true then 3 else r.level (coreOf s.cur) scope) = 3) :
    Leaves (coreOf s.cur) s (s.sendReqs x size order scope refs vec reg kind ru) ∧
      ∀ r ∈ refs, ∃ q ∈ waitingReqs (s.sendReqs x size order scope refs vec reg kind ru),
        SentFor s.cur size order scope vec reg (kind r.lane) r q := by
  have ordered : Leaves (coreOf s.cur) s (if isRel order then s.release (coreOf s.cur) scope else s) := by
    split
    · exact leaves_release ..
    · exact .refl ..
  have numbered := ordered.trans (leaves_fresh _ _)
  refine And.imp_left numbered.trans (foldl_sends (fun st r mem => ?_) _)
  have level := home r mem
  dsimp only
  rw [level, if_neg (by simp), waitingReqs_append _ _ rfl]
  refine ⟨((leaves_fresh st _).trans (leaves_preStrong ..)).trans (leaves_append _ _ _ rfl), _,
    List.mem_append_right _ (List.mem_singleton_self _), ?_⟩
  constructor <;> rfl

/-! ### Registers marked EMPTY (R69) -/

theorem markEmpty_vector (t : Hart) (r : BitVec 8) (q : Bool) (m : BitVec 7) (n : Nat) (ls : List Nat) :
    t.markEmpty (.v r q m) n ls = putColumns t r.toNat n ls (fun _ _ => ⟨.empty, 0⟩) := rfl

/-- An S register read after some in a row were written. -/
theorem getS_foldl_putS (t : Hart) (r n : Nat) (v : SReg) (q : Nat) :
    ((List.range n).foldl (fun u i => u.putS (r + i) v) t).getS q = if r ≤ q ∧ q < r + n ∧ q ≠ 0 then v else t.getS q := by
  induction n with
  | zero => rw [if_neg (by omega)]; rfl
  | succ n ih =>
    rw [List.range_succ, List.foldl_append, List.foldl_cons, List.foldl_nil, getS_putS, ih]
    by_cases last : r + n = q ∧ q ≠ 0
    · rw [if_pos last, if_pos (by omega)]
    · rw [if_neg last]
      exact if_congr (by omega) rfl rfl

theorem getS_markEmpty (t : Hart) (d : Operand) (n : Nat) (ls : List Nat) (r : Nat) : (t.markEmpty d n ls).getS r =
    if kindOf d = .s ∧ regOf d ≤ r ∧ r < regOf d + n ∧ r ≠ 0 then ⟨.empty, 0⟩ else t.getS r := by
  cases d
  case s q e m => exact (getS_foldl_putS t q.toNat n _ r).trans (if_congr (by simp [kindOf, regOf]) rfl rfl)
  case v q e m =>
    rw [markEmpty_vector, if_neg (by simp [kindOf])]
    exact putColumns_keeps (fun t => t.getS r) (fun _ _ _ _ => getS_putV ..) ..
  all_goals exact (if_neg (by simp [kindOf])).symm

theorem getV_markEmpty (t : Hart) (d : Operand) (n : Nat) (ls : List Nat) (r l : Nat) : (t.markEmpty d n ls).getV r l =
    if kindOf d = .v ∧ regOf d ≤ r ∧ r < regOf d + n ∧ l ∈ ls then ⟨.empty, 0⟩ else t.getV r l := by
  cases d
  case v q e m => exact (getV_putColumns t q.toNat n ls _ r l).trans (if_congr (by simp [kindOf, regOf]) rfl rfl)
  case s q e m =>
    rw [if_neg (by simp [kindOf])]
    exact foldl_leaves (fun t : Hart => t.getV r l) (fun _ _ => getV_putS ..) _ _
  all_goals exact (if_neg (by simp [kindOf])).symm

theorem getK_markEmpty (t : Hart) (d : Operand) (n : Nat) (ls : List Nat) (r : Nat) : (t.markEmpty d n ls).getK r = t.getK r := by
  cases d
  case s q e m => exact foldl_leaves (fun t : Hart => t.getK r) (fun _ _ => getK_putS ..) _ _
  case v q e m => exact putColumns_keeps (fun t => t.getK r) (fun _ _ _ _ => getK_putV ..) ..
  all_goals rfl

theorem generalOnly_markEmpty (t : Hart) (d : Operand) (n : Nat) (ls : List Nat) : generalOnly t (t.markEmpty d n ls) := by
  cases d
  case s q e m => exact generalOnly_foldl _ _ (fun _ _ kept => generalOnly_putS _ _ kept) (generalOnly_rfl t)
  case v q e m => exact generalOnly_putColumns ..
  all_goals exact generalOnly_rfl t

/-! ### The team that sends -/

theorem registersKept_rfl (t : Hart) : registersKept t t := ⟨fun _ => rfl, fun _ _ => rfl, fun _ => rfl, rfl⟩

theorem registersKept_trans {t u w : Hart} (first : registersKept t u) (next : registersKept u w) : registersKept t w := by
  obtain ⟨s, v, k, f⟩ := first
  obtain ⟨s', v', k', f'⟩ := next
  exact ⟨fun r => (s' r).trans (s r), fun r l => (v' r l).trans (v r l), fun r => (k' r).trans (k r), f'.trans f⟩

theorem emptied_trans {x : Args} {lanes : List Nat} {t u w : Hart} (first : emptied x lanes t u) (next : registersKept u w) :
    emptied x lanes t w := by
  obtain ⟨s, v, k⟩ := first
  obtain ⟨s', v', k', -⟩ := next
  exact ⟨fun r => (s' r).trans (s r), fun r l => (v' r l).trans (v r l), fun r => (k' r).trans (k r)⟩

theorem emptied_of_registers {x : Args} {lanes : List Nat} {t u w : Hart} (next : emptied x lanes u w) (first : registersKept t u) :
    emptied x lanes t w := by
  obtain ⟨s, v, k, -⟩ := first
  obtain ⟨s', v', k'⟩ := next
  exact ⟨fun r => by rw [s', s], fun r l => by rw [v', v], fun r => (k' r).trans (k r)⟩

theorem emptied_markEmpty (x : Args) (lanes : List Nat) (t : Hart) : emptied x lanes t (t.markEmpty x.d (dSpan x) lanes) :=
  ⟨getS_markEmpty t x.d (dSpan x) lanes, getV_markEmpty t x.d (dSpan x) lanes, getK_markEmpty t x.d (dSpan x) lanes⟩

/-- The checks of a form change no register of its team. -/
theorem SameTeam.registers {s t : State} (same : SameTeam s t) : registersKept s.now t.now :=
  ⟨same.getS, same.getV, same.getK, same.fflags⟩

/-- What the running team has beside its prefetch counters stays with what also accesses through the caches leave. -/
theorem crewView_field {α : Type} {s t : State} (same : crewView t = crewView s) (field : Hart → α)
    (blind : ∀ u, field (uncounted u) = field u) : field t.now = field s.now := by rw [← blind t.now, crewView_now same, blind]

theorem crewView_registers {s t : State} (same : crewView t = crewView s) : registersKept s.now t.now :=
  ⟨fun r => crewView_field same (fun u => u.getS r) (fun _ => rfl), fun r l => crewView_field same (fun u => u.getV r l) (fun _ => rfl),
    fun r => crewView_field same (fun u => u.getK r) (fun _ => rfl), crewView_field same Hart.fflags (fun _ => rfl)⟩

/-- A form ends once the state of its team's issue has changed at most. -/
structure Ends (s t : State) : Prop where
  pc : t.now.pc = s.now.pc + 12
  registers : registersKept s.now t.now
  uasc : t.now.uasc = s.now.uasc
  mem : t.mem = s.mem

theorem ends_advance (s : State) : Ends s (s.modNow Hart.advance) where
  pc := by rw [modNow_now, advance_pc]
  registers := by rw [modNow_now]; exact registersKept_rfl s.now
  uasc := by rw [modNow_now]; rfl
  mem := rfl

theorem Ends.of_issue {s t : State} (f : Hart → Hart) (issue : ∀ u, f u = { u with sched := (f u).sched })
    (ends : Ends (s.modNow f) t) : Ends s t := by
  obtain ⟨pc, registers, uasc, mem⟩ := ends
  rw [modNow_now, issue] at pc registers uasc
  exact ⟨pc, registers, uasc, mem⟩

end Sys2Proof.Laws
end

section
/-! SUPPORT. Strong loads, polling loads, atomics and reductions once their lanes have passed: the state in which they send, and what they
send (R250 to R254, R262 to R264, R267). -/
namespace Sys2Proof.Laws

open Machine Safety

theorem SameTeam.uasc {s t : State} (same : SameTeam s t) : t.now.uasc = s.now.uasc := by rw [same.now]

/-- The value of an operand that is no special register. -/
theorem SameTeam.src {s t : State} (same : SameTeam s t) (ty : Ty) {y : Operand} (plain : ∀ n, y ≠ .sr n) (l : Nat) :
    t.src ty y l = s.src ty y l := by
  unfold State.src
  cases y
  case sr n => exact absurd rfl (plain n)
  all_goals simp only [same.getS, same.getV]

theorem SameTeam.casNew {s t : State} (same : SameTeam s t) {x : Args} (plain : ∀ n, x.b ≠ .sr n) (l : Nat) : t.casNew x l = s.casNew x l := by
  unfold State.casNew
  split <;> simp only [same.getS, same.src _ plain]

/-- B is of an accepted kind where A may not be WIDE. -/
theorem kindFits_b_of_ready {o : Op} {x : Args} {s : State} (issues : ready o x s = true) (narrow : Kind.wide ∉ o.row.a) :
    kindFits o.row.b x.b = true := by
  have kinds := checkKinds_of_ready issues
  simp only [checkKinds, Bool.and_eq_true] at kinds
  obtain ⟨⟨⟨⟨-, a⟩, b⟩, -⟩, -⟩ := kinds
  rwa [if_neg (by simpa using kindFits_narrow narrow a)] at b

/-- No special register stands in a slot that takes neither them nor masks. -/
theorem plain_of_kindFits {al : List Kind} {y : Operand} (slot : al ≠ [] ∧ Kind.sr ∉ al ∧ Kind.k ∉ al) (fits : kindFits al y = true)
    (n : BitVec 10) : y ≠ .sr n := by
  obtain ⟨used, special, mask⟩ := slot
  rintro rfl
  cases al with
  | nil => exact used rfl
  | cons first al => simp [kindFits, special, mask] at fits

/-- B of a form that takes no special register there. -/
theorem plainB_of_ready {o : Op} {x : Args} {s : State} (issues : memReady o x s = true) (narrow : Kind.wide ∉ o.row.a)
    (slot : o.row.b ≠ [] ∧ Kind.sr ∉ o.row.b ∧ Kind.k ∉ o.row.b) (n : BitVec 10) : x.b ≠ .sr n :=
  plain_of_kindFits slot (kindFits_b_of_ready (Bool.and_eq_true_iff.1 issues).1 narrow) n

section

variable {x : Args} {s t0 : State} {refs : List LaneRef}

/-! ### What each form does -/

/-- An atomic whose lanes pass, with room for them in %uasc, reaches its effect. -/
theorem atomicForm_of_access {o : Op} (f : State → List LaneRef → Nat → Out)
    (want : wantOf o x = ⟨0, accessSize o x, .atomic, true, true, .atomic⟩) (issues : memReady o x s = true)
    (passes : access o x s = some (refs, t0)) (goes : t0.strongWaits refs x.sub.toNat x.rm.toNat = false)
    (room : s.now.uasc + refs.length ≤ 65535) : atomicForm o x f s = f t0 refs (accessSize o x) := by
  rw [atomicForm, memIssue_of_memReady _ issues]
  dsimp only
  rw [unwait_laneAddrs, ← want, access_eq passes]
  dsimp only
  rw [goes, (sameTeam_of_access passes).uasc, if_neg (by simpa using room)]

/-- The lanes of a load marked EMPTY, which is where it sends its requests. -/
def emptiedTeam (x : Args) (refs : List LaneRef) (s : State) : State :=
  s.modNow (fun t => t.markEmpty x.d (dSpan x) (refs.map LaneRef.lane))

/-- A strong load sends its lanes' requests. -/
def sendLoads (o : Op) (x : Args) (refs : List LaneRef) (t0 : State) (kind : Nat → ReqKind) : State :=
  (emptiedTeam x refs t0).sendReqs x (accessSize o x) x.sub.toNat x.rm.toNat refs (perLane x) (some (regOf x.d)) kind (fun _ => false)

/-- A team waits for the demotion of its path where it sent anything (R167). -/
def heldFor (refs : List LaneRef) (g : Nat) (u : State) : State := if refs = [] then u else u.modNow (fun t => t.awaitDemotion g)

theorem lds_effect (issues : memReady .lds x s = true) (passes : access .lds x s = some (refs, t0))
    (goes : t0.strongWaits refs x.sub.toNat x.rm.toNat = false) :
    exec (.lds x) s = .next ((sendLoads .lds x refs t0 (fun _ => .load)).modNow Hart.advance) := by
  rw [exec_lds, execLds, memIssue_of_memReady _ issues]
  dsimp only
  rw [unwait_laneAddrs, show (⟨0, accessSize .lds x, .load, true, false, .read⟩ : Want) = wantOf .lds x from rfl, access_eq passes]
  dsimp only
  rw [goes]
  rfl

theorem ldp_effect (issues : memReady .ldp x s = true) (passes : access .ldp x s = some (refs, t0))
    (goes : t0.strongWaits refs x.sub.toNat x.rm.toNat = false) :
    exec (.ldp x) s = .next ((heldFor refs t0.nextId
      (sendLoads .ldp x refs t0 (fun l => .ldp (ofBytes (s.storeData x (accessSize .ldp x) l).1)))).modNow Hart.advance) := by
  have same := sameTeam_of_access passes
  rw [exec_ldp, execLdp, memIssue_of_memReady _ issues]
  dsimp only
  rw [unwait_laneAddrs, show (⟨0, accessSize .ldp x, .load, true, false, .atomic⟩ : Want) = wantOf .ldp x from rfl, access_eq passes]
  dsimp only
  rw [goes]
  simp only [same.storeData, Bool.false_eq_true, if_false, List.isEmpty_iff]
  rfl

/-- The register that an atomic's reply fills. -/
def atomicReg (x : Args) : Option Nat := if x.d = .none ∨ (kindOf x.d = .s ∧ regOf x.d = 0) then none else some (regOf x.d)

theorem amo_effect (issues : memReady .amo x s = true) (passes : access .amo x s = some (refs, t0))
    (goes : t0.strongWaits refs x.sub.toNat x.rm.toNat = false) (room : s.now.uasc + refs.length ≤ 65535) :
    exec (.amo x) s = .next ((t0.sendAtomic x (accessSize .amo x) x.sub.toNat refs (atomicReg x)
      (fun l => .amo (modOf x.b % 16) x.ty (s.src x.ty x.b l)) (fun _ => false)).modNow Hart.advance) := by
  have plain := plainB_of_ready issues (by decide) (by decide)
  rw [exec_amo, execAmo, atomicForm_of_access _ rfl issues passes goes room]
  simp only [State.atomicB, (sameTeam_of_access passes).src _ plain, Bool.or_eq_true, Bool.and_eq_true, beq_iff_eq]
  rfl

theorem cas_effect (issues : memReady .cas x s = true) (passes : access .cas x s = some (refs, t0))
    (goes : t0.strongWaits refs x.sub.toNat x.rm.toNat = false) (room : s.now.uasc + refs.length ≤ 65535) :
    exec (.cas x) s = .next ((heldFor refs t0.nextId (t0.sendAtomic x (accessSize .cas x) x.sub.toNat refs (atomicReg x)
      (fun l => .cas (ofBytes (s.storeData x (accessSize .cas x) l).1) (s.casNew x l)) (fun _ => false))).modNow Hart.advance) := by
  have same := sameTeam_of_access passes
  have plain := plainB_of_ready issues (by decide) (by decide)
  have some_ : x.d ≠ .none := fun none_ => by
    have fits := kindFits_d_of_ready (Bool.and_eq_true_iff.1 issues).1
    rw [none_] at fits
    cases fits
  rw [exec_cas, execCas, atomicForm_of_access _ rfl issues passes goes room]
  simp only [same.storeData, same.casNew plain, Bool.and_eq_true, beq_iff_eq, List.isEmpty_iff, heldFor, atomicReg, some_, false_or]
  rfl

theorem redu_effect (issues : memReady .redu x s = true) (passes : access .redu x s = some (refs, t0))
    (goes : t0.strongWaits refs x.sub.toNat x.rm.toNat = false) (room : s.now.uasc + refs.length ≤ 65535) :
    exec (.redu x) s = .next ((t0.sendAtomic x (accessSize .redu x) x.sub.toNat refs none
      (fun l => .redu (modOf x.b % 16) x.ty (s.src x.ty x.b l))
      (fun r => r.ru && decide (2 ≤ x.rm.toNat) && !r.uncached)).modNow Hart.advance) := by
  have plain := plainB_of_ready issues (by decide) (by decide)
  rw [exec_redu, execRedu, atomicForm_of_access _ rfl issues passes goes room]
  simp only [State.atomicB, (sameTeam_of_access passes).src _ plain]
  rfl

/-! ### The state in which a form sends -/

/-- The team has marked what its replies fill and counted what it sends, and nothing else has changed since its checks. -/
structure Prepared (x : Args) (refs : List LaneRef) (d : Option Nat) (n : Nat) (s t0 u : State) : Prop where
  cur : u.cur = s.cur
  mem : u.mem = t0.mem
  cores : u.cores = t0.cores
  pc : u.now.pc = s.now.pc
  fflags : u.now.fflags = s.now.fflags
  uasc : u.now.uasc = s.now.uasc + n
  fills : d.isSome = true → emptied x (refs.map LaneRef.lane) s.now u.now
  keeps : d = none → registersKept s.now u.now

theorem prepared_of_sameTeam (same : SameTeam s t0) : Prepared x refs none 0 s t0 t0 where
  cur := same.cur
  mem := rfl
  cores := rfl
  pc := same.pc
  fflags := same.fflags
  uasc := same.uasc
  fills some_ := by cases some_
  keeps _ := same.registers

theorem Prepared.empty {u : State} {n : Nat} (before : Prepared x refs none n s t0 u) (r : Nat) :
    Prepared x refs (some r) n s t0 (emptiedTeam x refs u) := by
  have now : (emptiedTeam x refs u).now = u.now.markEmpty x.d (dSpan x) (refs.map LaneRef.lane) := modNow_now ..
  have general := generalOnly_markEmpty u.now x.d (dSpan x) (refs.map LaneRef.lane)
  refine ⟨before.cur, before.mem, before.cores, ?_, ?_, ?_, fun _ => ?_, fun none_ => by cases none_⟩
  · rw [now, generalOnly_pc general, before.pc]
  · rw [now, generalOnly_fflags general, before.fflags]
  · rw [now, general]; exact before.uasc
  · rw [now]; exact emptied_of_registers (emptied_markEmpty x _ u.now) (before.keeps rfl)

theorem prepared_load (same : SameTeam s t0) : Prepared x refs (some (regOf x.d)) 0 s t0 (emptiedTeam x refs t0) :=
  (prepared_of_sameTeam same).empty _

/-- A team that has counted its atomics and, where they answer, marked what the answers fill. -/
def countedTeam (x : Args) (refs : List LaneRef) (d : Option Nat) (s : State) : State :=
  let s1 := s.modNow (fun t => { t with uasc := t.uasc + refs.length })
  if d.isSome then emptiedTeam x refs s1 else s1

theorem sendAtomic_eq (t0 : State) (size order : Nat) (d : Option Nat) (kind : Nat → ReqKind) (ru : LaneRef → Bool) :
    t0.sendAtomic x size order refs d kind ru =
      (countedTeam x refs d t0).sendReqs x size order x.rm.toNat refs (perLane x) d kind ru := rfl

theorem prepared_atomic (same : SameTeam s t0) (d : Option Nat) : Prepared x refs d refs.length s t0 (countedTeam x refs d t0) := by
  have counted : Prepared x refs none refs.length s t0 (t0.modNow (fun t => { t with uasc := t.uasc + refs.length })) := by
    have before := prepared_of_sameTeam (x := x) (refs := refs) same
    refine ⟨before.cur, before.mem, before.cores, ?_, ?_, ?_, fun some_ => (by cases some_), fun _ => ?_⟩ <;> rw [modNow_now]
    · exact before.pc
    · exact before.fflags
    · exact congrArg (· + refs.length) before.uasc
    · exact before.keeps rfl
  cases d with
  | none => exact counted
  | some r => exact counted.empty r

/-! ### What the home finds (R251) -/

/-- Where every access goes to its home, or the die's agent, and nothing below is dirty, the requests wait there and the form has changed
nothing but what its team marks and counts. -/
theorem Prepared.sent {u t : State} {d : Option Nat} {n size order scope : Nat} {kind : Nat → ReqKind} {ru : LaneRef → Bool}
    (ready : Prepared x refs d n s t0 u) (ends : Ends (u.sendReqs x size order scope refs (perLane x) d kind ru) t)
    (clean : nothingDirty t0 (coreOf s.cur)) (home : ∀ r ∈ refs, r.level (coreOf s.cur) scope = 3 ∨ ru r = true) :
    t.now.pc = s.now.pc + 12 ∧ t.now.fflags = s.now.fflags ∧ t.now.uasc = s.now.uasc + n ∧
      (d.isSome = true → emptied x (refs.map LaneRef.lane) s.now t.now) ∧ (d = none → registersKept s.now t.now) ∧
      (∀ a, t.byte a = t0.byte a) ∧
      ∀ r ∈ refs, ∃ q ∈ t.mem.reqs, q.hart = s.cur ∧ q.pa = r.pa ∧ q.va = r.va ∧ q.size = size ∧
        q.kind = kind r.lane ∧ q.lane = (if perLane x = true then some r.lane else none) ∧ q.reg = d ∧ q.order = order ∧
        q.scope = scope ∧ q.level = 3 := by
  obtain ⟨leaves, each⟩ := sendReqs_home (s := u) x size order scope (perLane x) d kind ru fun r mem => by
    rw [ready.cur]
    exact ite_eq_left_iff.2 fun other => (home r mem).resolve_right other
  rw [ready.cur] at leaves each
  have kept : registersKept u.now t.now := registersKept_trans (crewView_registers leaves.team) ends.registers
  have clean : nothingDirty u (coreOf s.cur) := by
    simpa only [nothingDirty, State.core, State.cluster, ready.mem, ready.cores] using clean
  obtain ⟨-, bytes⟩ := leaves.clean clean
  refine ⟨?_, ?_, ?_, fun some_ => emptied_trans (ready.fills some_) kept, fun none_ => registersKept_trans (ready.keeps none_) kept,
    fun a => ?_, fun r mem => ?_⟩
  · rw [ends.pc, crewView_field leaves.team Hart.pc (fun _ => rfl), ready.pc]
  · exact kept.2.2.2.trans ready.fflags
  · rw [ends.uasc, crewView_field leaves.team Hart.uasc (fun _ => rfl), ready.uasc]
  · rw [State.byte, ends.mem]
    exact (bytes a).trans (by rw [State.byte, ready.mem, State.byte])
  · obtain ⟨q, waits, for_⟩ := each r mem
    rw [ends.mem]
    exact ⟨q, mem_reqs_of_waiting waits, for_.hart, for_.pa, for_.va, for_.size, for_.kind, for_.lane, for_.reg, for_.order, for_.scope,
      for_.level⟩

theorem ends_heldFor (g : Nat) (u : State) : Ends u ((heldFor refs g u).modNow Hart.advance) := by
  unfold heldFor
  split
  · exact ends_advance u
  · exact (ends_advance _).of_issue _ fun t => by
      unfold Hart.awaitDemotion
      split <;> rfl

end

end Sys2Proof.Laws
end

section
/-! OBLIGATION O28. Strong loads, polling loads, atomics and reductions. -/
namespace Sys2Proof.Laws

open Machine Safety

/-- Settles O28: each form sends from the state that its team has prepared, and its requests wait at their homes. -/
theorem strongForms : Obligations.StrongForms := by
  intro x s t0 refs core scope order reg old expect ru issues counts loads atomics held gives
  refine ⟨?lds, ?ldp, ?amo, ?cas, ?redu⟩
  case lds =>
    rintro ⟨ready, passes, goes⟩
    have prepared := prepared_load (x := x) (refs := refs) (sameTeam_of_access passes)
    exact ⟨_, rfl, lds_effect ready passes goes, fun clean home => prepared.sent (ends_advance _) clean
      fun r mem => .inl ((home r mem).resolve_right (by simp))⟩
  case ldp =>
    rintro ⟨ready, passes, goes⟩
    have prepared := prepared_load (x := x) (refs := refs) (sameTeam_of_access passes)
    exact ⟨_, rfl, ldp_effect ready passes goes, fun clean home => prepared.sent (ends_heldFor _ _) clean
      fun r mem => .inl ((home r mem).resolve_right (by simp))⟩
  case amo =>
    rintro ⟨⟨ready, passes, goes⟩, room⟩
    have prepared := prepared_atomic (x := x) (refs := refs) (sameTeam_of_access passes) reg
    exact ⟨_, rfl, amo_effect ready passes goes room, fun clean home => prepared.sent (ends_advance _) clean
      fun r mem => .inl ((home r mem).resolve_right (by simp))⟩
  case cas =>
    rintro ⟨⟨ready, passes, goes⟩, room⟩
    have prepared := prepared_atomic (x := x) (refs := refs) (sameTeam_of_access passes) reg
    exact ⟨_, rfl, cas_effect ready passes goes room, fun clean home => prepared.sent (ends_heldFor _ _) clean
      fun r mem => .inl ((home r mem).resolve_right (by simp))⟩
  case redu =>
    rintro ⟨⟨ready, passes, goes⟩, room⟩
    have prepared := prepared_atomic (x := x) (refs := refs) (sameTeam_of_access passes) none
    exact ⟨_, rfl, redu_effect ready passes goes room, fun clean home => prepared.sent (ru := ru) (ends_advance _) clean
      fun r mem => (home r mem).imp_right And.right⟩

end Sys2Proof.Laws
end

section
/-! SUPPORT. Keeping forms: the one size that they access, the pages that they reach, and what they leave where they send (R266, R304). -/
namespace Sys2Proof.Laws

open Machine Safety

/-! ### Facts of a ready keeping form (R304) -/

theorem checkTy_of_ready {o : Op} {x : Args} {s : State} (h : ready o x s = true) : checkTy o x = true := by
  have := ready_checkArgs h
  unfold checkArgs at this
  split_ifs at this
  simp_all

theorem checkValues_of_ready {o : Op} {x : Args} {s : State} (h : ready o x s = true) : checkValues o x = true := by
  have := ready_checkArgs h
  unfold checkArgs at this
  split_ifs at this
  simp_all

theorem not_isPair_of_plain {y : Operand} (fits : roleFits .plain y = true) : isPair y = false := by
  cases y
  case s r e m =>
    have zero : m.toNat = 0 := by simpa [roleFits, kindOf, modOf] using fits
    simp only [isPair, beq_eq_false_iff_ne]
    rintro rfl
    cases zero
  all_goals rfl

/-- A form on 64-bit values with D a plain register accesses eight bytes. -/
theorem accessSize_eight {o : Op} {x : Args} {s : State} (issues : memReady o x s = true) (role : o.row.dr = .plain)
    (types : ∀ t ∈ o.row.tys, tyBits t = 64) (plain : o ≠ .pref ∧ o ≠ .cctl ∧ o ≠ .cas) : accessSize o x = 8 := by
  have now := (Bool.and_eq_true_iff.1 issues).1
  have values := checkValues_of_ready now
  have ty := checkTy_of_ready now
  simp only [checkValues, Bool.and_eq_true, role] at values
  simp only [checkTy, Bool.and_eq_true, List.contains_iff_mem] at ty
  obtain ⟨⟨⟨⟨⟨-, d⟩, -⟩, -⟩, -⟩, -⟩ := values
  obtain ⟨pref, cctl, cas⟩ := plain
  simp [accessSize, pref, cctl, cas, not_isPair_of_plain d, types x.ty ty.1]

/-! ### The pages that a keeping form reaches (R266, R310) -/

/-- Where a lane passes its checks, each of its references is on a page of class KEEPING. -/
def KeptLane : LaneCheck → Prop
  | .ok rs => ∀ r ∈ rs, r.keep = true
  | _ => True

theorem keep_of_placeBad {s : State} {w : Want} {many : Bool} {pa n : Nat} {tr : Trans} (form : w.keep = .form)
    (passes : s.placeBad w many pa tr n = none) : (tr.pcls == 3) = true := by
  unfold State.placeBad at passes
  split at passes
  · cases passes
  · have good := Option.map_eq_none_iff.1 passes
    unfold State.keepBad at good
    cases keep : tr.pcls == 3
    · rw [form, keep] at good
      cases good
    · rfl

theorem kept_checkPiece (s : State) {w : Want} (form : w.keep = .form) (many : Bool) (l off va n : Nat) :
    KeptLane (s.checkPiece w many l off va n).1 := by
  unfold State.checkPiece
  split
  · trivial
  · trivial
  · split
    · trivial
    · next passes =>
      intro r mem
      obtain rfl := List.mem_singleton.1 mem
      exact keep_of_placeBad form passes

theorem kept_checkLane (s : State) {w : Want} (form : w.keep = .form) (flat : w.space = 0) (many : Bool) (l a : Nat) :
    KeptLane (s.checkLane w many l a).1 := by
  unfold State.checkLane
  simp only [flat]
  split
  · trivial
  · exact kept_checkPiece s form ..

/-- The references of a keeping form whose lanes pass. -/
theorem kept_checkAll {s t : State} {w : Want} {ls : List (Nat × Nat)} {refs : List LaneRef} (form : w.keep = .form) (flat : w.space = 0)
    (pass : s.checkAll w ls = .ok refs t) : ∀ r ∈ refs, r.keep = true := by
  have each : ∀ p ∈ (laneChecks s w ls).1, KeptLane p.2 := by
    refine List.foldlRecOn (motive := fun r : List (Nat × LaneCheck) × State => ∀ p ∈ r.1, KeptLane p.2) _ _ ?_ fun r passed q _ p mem => ?_
    · exact fun _ none_ => absurd none_ List.not_mem_nil
    · rcases List.mem_append.1 mem with before | now
      · exact passed p before
      · obtain rfl := List.mem_singleton.1 now
        exact kept_checkLane _ form flat ..
  intro r mem
  obtain ⟨p, checked, rs, passed, mem⟩ := (checkAll_ok pass).1 r mem
  have kept := each p checked
  rw [passed] at kept
  exact kept r mem

/-! ### The caches through the checks -/

/-- The scoped caches. -/
@[irreducible] def scopedSide (s : State) : (Nat → Cache) × Sparse Cache := (fun c => (s.core c).l1, s.mem.clusters)

theorem scopedSide_of {s t : State} (cores : t.cores = s.cores) (clusters : t.mem.clusters = s.mem.clusters) : scopedSide t = scopedSide s := by
  simp only [scopedSide, State.core, cores, clusters]

theorem checksKept_scopedSide : ChecksKept scopedSide where
  hub _ _ _ := scopedSide_of rfl rfl
  home _ _ _ := scopedSide_of rfl rfl
  frame _ _ _ := scopedSide_of rfl rfl
  sent _ _ := scopedSide_of rfl rfl
  event _ _ := scopedSide_of rfl rfl
  poke _ _ _ _ := scopedSide_of rfl rfl
  partials _ _ := scopedSide_of rfl rfl
  copies _ _ := scopedSide_of rfl rfl
  tlbs _ _ := scopedSide_of rfl rfl
  counted s core ev n guest pipe := by
    refine obs_ite scopedSide rfl ?_
    have l1 : ∀ f : Core → Core, (∀ q, (f q).l1 = q.l1) → ∀ c, ((s.modCore core f).core c).l1 = (s.core c).l1 := by
      intro f kept c
      rw [core_modCore]
      split
      · next same => rw [kept, same]
      · rfl
    simp only [scopedSide, Prod.mk.injEq, funext_iff]
    exact ⟨l1 _ fun _ => rfl, rfl⟩
  held _ _ := scopedSide_of rfl rfl

theorem nothingDirty_of_scopedSide {s t : State} (same : scopedSide t = scopedSide s) {core : Nat} (clean : nothingDirty s core) :
    nothingDirty t core := by
  simp only [scopedSide, Prod.mk.injEq, funext_iff] at same
  obtain ⟨l1, clusters⟩ := same
  simpa only [nothingDirty, State.cluster, l1, clusters] using clean

/-- The checks of a form leave the caches as they are. -/
theorem nothingDirty_of_access {o : Op} {x : Args} {s t : State} {refs : List LaneRef} (passes : access o x s = some (refs, t)) {core : Nat}
    (clean : nothingDirty s core) : nothingDirty t core :=
  nothingDirty_of_scopedSide ((checksKept_scopedSide.checkAll (access_eq passes)).trans (scopedSide_of rfl rfl)) clean

end Sys2Proof.Laws
end

section
/-! OBLIGATION O32. The keeping forms. -/
namespace Sys2Proof.Laws

open Machine Safety

section

variable {x : Args} {s t0 : State} {refs : List LaneRef}

/-- A team that has marked the registers of a keeping form's answer. -/
def keepTeam (x : Args) (n : Nat) (s : State) : State := s.modNow (fun t => t.markEmpty (.s (BitVec.ofNat 8 (regOf x.d)) false 0) n [0])

/-- A keeping form sends its access. -/
def sendKeep (x : Args) (refs : List LaneRef) (n order : Nat) (kind : ReqKind) (t0 : State) : State :=
  (keepTeam x n t0).sendReqs x 8 order x.rm.toNat refs false (some (regOf x.d)) (fun _ => kind) (fun _ => false)

/-- A keeping form whose access passes is sent. -/
theorem keepForm_of_access {o : Op} {write : Bool} {n order : Nat} (kind : State → ReqKind)
    (want : wantOf o x = ⟨0, accessSize o x, .atomic, true, write, .form⟩) (size : accessSize o x = 8) (issues : memReady o x s = true)
    (passes : access o x s = some (refs, t0)) (goes : t0.strongWaits refs order x.rm.toNat = false) :
    keepForm o x write n order kind s = .next ((sendKeep x refs n order (kind t0) t0).modNow Hart.advance) := by
  have pass := access_eq passes
  rw [want, size] at pass
  rw [keepForm, memIssue_of_memReady _ issues]
  dsimp only
  rw [unwait_laneAddrs, pass]
  dsimp only
  rw [goes]
  rfl

theorem regOf_lt (y : Operand) : regOf y < 256 := by
  cases y
  case k r e => exact Nat.lt_of_lt_of_le r.isLt (by decide)
  case s r e m => exact r.isLt
  case v r e m => exact r.isLt
  all_goals exact Nat.zero_lt_succ _

theorem regOf_ofNat {n : Nat} (small : n < 256) : regOf (.s (BitVec.ofNat 8 n) false 0) = n := Nat.mod_eq_of_lt small

/-- What a keeping form leaves once it is sent: its registers are EMPTY, and its access waits at the home. -/
theorem sendKeep_sent {o : Op} (n order : Nat) (kind : ReqKind) (form : (wantOf o x).keep = .form) (flat : (wantOf o x).space = 0)
    (passes : access o x s = some (refs, t0)) :
    let t := (sendKeep x refs n order kind t0).modNow Hart.advance
    t.now.pc = s.now.pc + 12 ∧ t.now.fflags = s.now.fflags ∧ vectorsKept s.now t.now ∧ predicatesKept s.now t.now ∧
      (∀ r, t.now.getS r = if regOf x.d ≤ r ∧ r < regOf x.d + n ∧ r ≠ 0 then ⟨.empty, 0⟩ else s.now.getS r) ∧
      (nothingDirty s (coreOf s.cur) → ∀ a, t.byte a = t0.byte a) ∧
      ∀ r ∈ refs, ∃ q ∈ t.mem.reqs, q.hart = s.cur ∧ q.pa = r.pa ∧ q.level = 3 ∧ q.keep = r.keep ∧ q.kind = kind ∧
        q.reg = some (regOf x.d) ∧ q.order = order ∧ q.scope = x.rm.toNat := by
  intro t
  have same := sameTeam_of_access passes
  have cur : (keepTeam x n t0).cur = s.cur := same.cur
  have now : (keepTeam x n t0).now = t0.now.markEmpty (.s (BitVec.ofNat 8 (regOf x.d)) false 0) n [0] := modNow_now ..
  obtain ⟨leaves, each⟩ := sendReqs_home (s := keepTeam x n t0) x 8 order x.rm.toNat false (some (regOf x.d)) (fun _ => kind)
    (fun _ => false) (refs := refs) fun r mem => by
      have uncached : r.uncached = true := by simp [LaneRef.uncached, kept_checkAll form flat (access_eq passes) r mem]
      simp [LaneRef.level, uncached]
  rw [cur] at leaves each
  have ends := ends_advance (sendKeep x refs n order kind t0)
  obtain ⟨scalars, vectors, predicates, flags⟩ := registersKept_trans (crewView_registers leaves.team) ends.registers
  have general := generalOnly_markEmpty t0.now (.s (BitVec.ofNat 8 (regOf x.d)) false 0) n [0]
  refine ⟨?_, ?_, fun r l => ?_, fun r => ?_, fun r => ?_, fun clean a => ?_, fun r mem => ?_⟩
  · rw [ends.pc, sendKeep, crewView_field leaves.team Hart.pc (fun _ => rfl), now, generalOnly_pc general, same.pc]
  · rw [flags, now, generalOnly_fflags general, same.fflags]
  · rw [vectors, now, getV_markEmpty, if_neg (by simp [kindOf]), same.getV]
  · rw [predicates, now, getK_markEmpty, same.getK]
  · rw [scalars, now, getS_markEmpty, same.getS]
    exact if_congr (by rw [regOf_ofNat (regOf_lt x.d)]; exact and_iff_right rfl) rfl rfl
  · have clean : nothingDirty (keepTeam x n t0) (coreOf s.cur) := nothingDirty_of_access passes clean
    exact (leaves.clean clean).2 a
  · obtain ⟨q, waits, for_⟩ := each r mem
    exact ⟨q, mem_reqs_of_waiting (s := sendKeep x refs n order kind t0) waits, for_.hart, for_.pa, for_.level,
      for_.keep, for_.kind, for_.reg, for_.order, for_.scope⟩

end

/-- The words that KST and KREC send. -/
theorem SameTeam.keepOperands {s t : State} (same : SameTeam s t) (x : Args) : t.keepOperands x = s.keepOperands x := by
  simp only [State.keepOperands, same.getS]

/-- Settles O32: each form has one size to access and one class of page to reach, so that it sends to the home. -/
theorem keepingForms : Obligations.KeepingForms := by
  intro x s t0 refs reg gives
  refine ⟨fun issues passes goes => ?kld, fun issues passes goes => ?ksib, fun issues passes goes => ?kst, fun issues passes goes => ?krec⟩
  case kld =>
    have size := accessSize_eight issues rfl (by decide) (by decide)
    exact ⟨_, (exec_kld x s).trans (keepForm_of_access _ rfl size issues passes goes), sendKeep_sent 3 _ _ rfl rfl passes⟩
  case ksib =>
    have size := accessSize_eight issues rfl (by decide) (by decide)
    have index : t0.scalar x.b = s.scalar x.b := (sameTeam_of_access passes).src _ (plainB_of_ready issues (by decide) (by decide)) 0
    have effect := keepForm_of_access (write := false) (n := 2) (order := x.sub.toNat) (fun s1 => .ksib (s1.scalar x.b)) rfl size issues
      passes goes
    rw [index] at effect
    exact ⟨_, (exec_ksib x s).trans effect, sendKeep_sent 2 _ _ rfl rfl passes⟩
  case kst =>
    have size := accessSize_eight issues rfl (by decide) (by decide)
    have effect := keepForm_of_access (write := true) (n := 1) (order := x.sub.toNat)
      (fun s1 => let (i, v, c) := s1.keepOperands x; .kst i v c) rfl size issues passes goes
    rw [(sameTeam_of_access passes).keepOperands] at effect
    exact ⟨_, (exec_kst x s).trans effect, sendKeep_sent 1 _ _ rfl rfl passes⟩
  case krec =>
    have size := accessSize_eight issues rfl (by decide) (by decide)
    have effect := keepForm_of_access (write := true) (n := 1) (order := 3)
      (fun s1 => let (i, v, c) := s1.keepOperands x; if x.sub == 0 then .krec 0 x.ty i v c else .krec x.sub.toNat x.ty i 0 0) rfl size issues
      passes goes
    rw [(sameTeam_of_access passes).keepOperands] at effect
    rw [← execKrec, ← exec_krec] at effect
    simp only [beq_iff_eq] at effect
    exact ⟨_, effect, sendKeep_sent 1 _ _ rfl rfl passes⟩

end Sys2Proof.Laws
end
